-- ==== Sys2Proof/Word.lean ====
section
/-! DEFINITION. Word types of the K7820: the bit widths the manual uses, and the sparse table in which
State keeps the numbered resources of the device (axes, alarms, rings, timers, channels, bays, cores). -/
namespace Sys2Proof

abbrev Byte := BitVec 8
abbrev W16 := BitVec 16
abbrev W32 := BitVec 32
abbrev W64 := BitVec 64
/-- One stave of a cask or a pipe (R22 Table 1.1, level 3): 512 bits. -/
abbrev Stave := BitVec 512
/-- One cask: 64 bytes times 8 staves, 4,096 bits (R173). -/
abbrev CaskVal := BitVec 4096

/-- A numbered resource held sparsely: entries with strictly rising numbers, none of them equal to what
an unlisted number reads as.  `Sys2Proof.Machine.tget` and `tset` keep that form. -/
abbrev Table (α : Type) := List (Nat × α)

end Sys2Proof
end

