-- ==== Sys2Proof/Operand.lean ====
section
/-! DEFINITION. The kinds of operand that commands carry beside numbers and words. -/
namespace Sys2Proof

/-- Response codes of the Trellis (Table 14.6). -/
inductive Resp where
  | ok | decErr | ownErr | datErr
  deriving DecidableEq, Repr

/-- What the check code of the Cellar (R337, R338) or of HBM (R359) finds in the words that a command reads, beside the
marks already stored.  A word is named by its address divided by 8, an HBM codeword by its first word. -/
structure Check where
  /-- words and codewords that are corrected -/
  ce : List Nat := []
  /-- words and codewords that turn out uncorrectable -/
  ue : List Nat := []
  deriving DecidableEq, Repr

/-- A double-bit error in a word of a core's control store (R302). -/
structure StoreFault where
  core : Fin 64
  word : Nat := 0
  deriving DecidableEq, Repr

/-- A flit slot of a port, or the arrival of a flit: with it goes the instant of the first symbol inside the tick, in 2^-16 ns (R509). -/
structure FlitSlot where
  port : Fin 8
  sub  : BitVec 17 := 0
  deriving DecidableEq, Repr

/-- What the timing inputs bring in one tick beside their levels: the LV pairs that are open, and the waves of the inputs (Left
Bank first, 40 each: TP, then LV) whose level changes near the sampling instant: bit k is the level 10 (k - 150) ps after it.
An input that is not listed keeps its level there. -/
structure PadInputs where
  openPairs : BitVec 16 := 0
  near : List (Nat × BitVec 301) := []
  /-- a new level of TRST_N (R589) -/
  trst : Option Bool := none
  deriving DecidableEq, Repr

/-- What the thermal sensors measure before their offsets, in 1/16 °C: those of the Left Bank and of the Right Bank, in the order
of Table 23.9. -/
structure Temps where
  left  : List (BitVec 16) := []
  right : List (BitVec 16) := []
  deriving DecidableEq, Repr

/-- No error is found. -/
def Check.clean : Check := {}

/-- A core whose write a target accepts, and what the read inside that write finds. -/
structure CoreWrite where
  core : Fin 64
  chk  : Check := {}
  deriving DecidableEq, Repr

/-- Bytes to write, and what the read inside the write finds. -/
structure WriteBytes where
  bytes : List Byte
  chk   : Check := {}
  deriving DecidableEq, Repr

/-- CCLK that pass before a core's next boundary, and what the reads of its `vrestore` find. -/
structure Pace where
  cclk : Nat
  chk  : Check := {}
  deriving DecidableEq, Repr

/-- A job whose launch stamp is written, and what the read inside the write finds. -/
structure Launched where
  seqNo : W32
  chk   : Check := {}
  deriving DecidableEq, Repr

/-- An alarm whose stamp record is written, and what the read inside the write finds. -/
structure Stamped where
  alarm : Fin 2048
  chk   : Check := {}
  deriving DecidableEq, Repr

/-- An ingest channel that writes a header, and what the read inside the write finds. -/
structure HeadWrite where
  chan : Fin 256
  chk  : Check := {}
  deriving DecidableEq, Repr

/-- An ingest channel that places: how many transactions of the body at most, all that can leave where none is given, and what
the reads inside the writes find. -/
structure Placement where
  chan : Fin 256
  most : Option Nat := none
  chk  : Check := {}
  deriving DecidableEq, Repr

/-- A single transaction or a burst of a master (Table 14.1), in transactions less one, to consecutive 64-byte blocks from that
of its address on (R375). -/
structure PortReq where
  master : Fin 16
  addr   : BitVec 48
  write  : Bool := false
  more   : Fin 16 := 0
  /-- words of its block that the byte enables of a transaction reach -/
  words  : BitVec 8 := 0xFF
  deriving DecidableEq, Repr

/-- The set-up words of an axis that have no command of their own (Table 2.12). -/
inductive AxisReg where
  | cfg | src | aux | inc | loadv | zval | stallt | tmo | swrate
  deriving DecidableEq, Repr

/-- The set-up words of an alarm (Table 17.6). -/
inductive AlarmReg where
  | cfg | hyst | target | intv | route | pin | core | slog | sbase
  deriving DecidableEq, Repr

/-- The set-up words of a general timer (Table 18.5). -/
inductive TimerReg where
  | psc | per | cmp0 | cmp1 | cfg | ocfg | slv | capcfg
  deriving DecidableEq, Repr

/-- The set-up words of a ring (Table 16.1). -/
inductive RingReg where
  | cfg | epoch | sqbase | cqbase | cidx | mod
  deriving DecidableEq, Repr

/-- Who writes CEL_OWNb (R343). -/
inductive OwnAgent where
  | cellarer | handover | host
  /-- a core of row r at privilege level l (0 U, 1 S, 2 M) -/
  | core (row level : Nat)
  deriving DecidableEq, Repr

/-- What the host returns for an outbound request (R400, R401): data, a completion with UR or CA status, a poisoned one;
for posted writes, credits (R389): so many more, or none when the host counts no posted credits. -/
inductive LinkRes where
  /-- a completion with data: the bytes of the read from an offset on -/
  | data (bytes : List Byte) (offset : Nat := 0)
  | urca
  | poisoned
  | credits (more : Option Nat)
  deriving DecidableEq, Repr

/-- The inbound problems of Table 15.3 that are not part of a BAR access. -/
inductive InboundError where
  | outsideRead | outsideWrite | poisonedWrite | unexpectedCompletion
  deriving DecidableEq, Repr

/-- Registers of the configuration space (R392, R394, R395): those of the header, the control words of the capabilities that
Table 15.1 lists, and the identities of the capabilities themselves. -/
inductive CfgReg where
  | ids | command | classRev | bar (k : Fin 6) | rom | subsystem
  /-- Device Control, Device Control 2, Link Control, Power Management Control/Status, MSI-X Message Control -/
  | devCtl | devCtl2 | linkCtl | pmcs | msixCtl
  /-- AER: uncorrectable error status, mask and severity, and the words of the logged headers -/
  | aerStatus | aerMask | aerSev | aerHeader (entry dw : Fin 4)
  | serial (high : Bool)
  | capability (k : Fin 9)
  deriving DecidableEq, Repr

/-- What lets a pending MSI-X message go (R402): one entry is unmasked, or Message Control is written. -/
inductive MsixControl where
  | entry (e : Fin 2048)
  | control (enable functionMask : Bool)
  deriving DecidableEq, Repr

/-- Kinds of SMBus transaction (R408). -/
inductive SmbKind where
  | readByte | readWord | blockRead | writeByte | sendByte
  deriving DecidableEq, Repr

/-- An SMBus transaction (R408): its kind, the 7-bit address that the controller sends, and whether it asks for the PEC byte. -/
structure SmbTransaction where
  kind : SmbKind
  addr : BitVec 7 := 0x58
  pec  : Bool := false
  deriving DecidableEq, Repr

/-- What CORE_RESERVE gives away (R424). -/
inductive Resource where
  | core (n : Fin 64)
  | engine (e : Fin 16)
  deriving DecidableEq, Repr

/-- A channel of the Vangoak Link (R502, R504). -/
inductive Channel where
  | ingest (c : Fin 256)
  | egress (c : Fin 256)
  deriving DecidableEq, Repr

/-- What a receiver's decoder made of a codeword (R487). -/
inductive Decoded where
  | clean | corrected | lost
  deriving DecidableEq, Repr

/-- Causes of R489 that have no command of their own: replays, marker lock, RETRAIN, and a write of EN = 0. -/
inductive DownCause where
  | replays | markerLost | retrain | disabled
  deriving DecidableEq, Repr

/-- Units whose uncorrectable error is a core error (Table 20.5: codes 1 to 6). -/
inductive CoreUnit where
  | fa | fb | ix | cask | store | other
  deriving DecidableEq, Repr

/-- Units whose uncorrectable error is a device error (R531). -/
inductive DeviceUnit where
  | trellis | rackingEngine | controlTarget | mram
  deriving DecidableEq, Repr

/-- Causes of a warm device reset (R570, R579: PWR_BOOT.LASTRST). -/
inductive WarmCause where
  | pwrRst | perst | monitor
  deriving DecidableEq, Repr

/-- Who makes a debug register access (R606). -/
inductive DebugAgent where
  | host | port
  deriving DecidableEq, Repr

/-- Where a microcode image, an update or an authorisation comes from: host memory, whose bytes the command carries, or
a read that fails. -/
abbrev HostImage := Option (List Byte)

/-- What UPDATE is given: the image, and how many bytes of its slot it writes at most before it is given again (none: all). -/
structure Install where
  image : HostImage := none
  most  : Option Nat := none
  deriving DecidableEq, Repr

end Sys2Proof
end

