-- ==== Sys2Proof/Syntax.lean ====
section
/-! DEFINITION. The commands of the K7820, one constructor for each row of the table of commands, in its order: writes and
reads of registers, events at pins and links, and the moments at which the device's own engines act. -/
namespace Sys2Proof

inductive Instr where
  -- set-up registers (chapter 0)
  | registerWrite (offset : BitVec 26) (size : Nat) (value : W64)
  | lowHalfReadSnapshot (offset : BitVec 26)
  -- axis time (chapter 2)
  | axisQuadratureEdge (axis : Fin 32)
  | axisIndexEvent (axis : Fin 32)
  | axisStepEdge (axis : Fin 32)
  | axisPulseEdge (axis : Fin 32)
  | tsiFrame (axis : Fin 32) (frame : BitVec 90)
  | axisEnable (axis : Fin 32) (cfg : W32)
  | axisDisable (axis : Fin 32) (cfg : W32)
  | axisConfigWrite (axis : Fin 32) (reg : AxisReg) (value : W64)
  | axisLoad (axis : Fin 32)
  | axisReindex (axis : Fin 32)
  | axisAdvance (axis : Fin 32)
  | derivedRatioWrite (axis : Fin 32) (den : Bool) (value : W32)
  | derivedOffsetWrite (axis : Fin 32) (value : W64)
  | derivedRebase (axis : Fin 32)
  | axisStall (axis : Fin 32)
  | axisFrameTimeout (axis : Fin 32)
  | axisFailsafeFault (axis : Fin 32)
  | axErrcntRead (axis : Fin 32)
  -- cores (chapters 3 to 11)
  | bundleExecute (core : Fin 64) (pace : Pace)
  | divideComplete (core : Fin 64)
  | loadResponse (core : Fin 64) (load : Nat) (high : Bool) (chk : Check)
  | storeBufferDrain (write : CoreWrite)
  | instructionLineFill (core : Fin 64) (chk : Check)
  | eventLatchSet (core : Fin 64)
  | wfeWake (core : Fin 64)
  | waitaxComplete (core : Fin 64)
  | waitcyComplete (core : Fin 64)
  | groupStart (core : Fin 64)
  | streamReadReturn (core : Fin 64) (entry operand element : Nat) (chk : Check)
  | vectorWriteAccepted (write : CoreWrite)
  | microwordExecute (core : Fin 64)
  | exceptionEntry (core : Fin 64)
  | interruptTake (core : Fin 64)
  | shieldExpiry (core : Fin 64)
  | softwareInterrupt (core : Fin 64) (sources : Byte)
  -- memories (chapters 12 and 13)
  | cellarRead (master : Fin 16) (level : Fin 3) (addr : BitVec 28) (len : Nat) (chk : Check)
  | cellarWrite (master : Fin 16) (level : Fin 3) (addr : BitVec 28) (bytes : List Byte) (chk : Check)
  | scrubRead (slice : Fin 8) (corrected uncorrectable : List Nat)
  | ownershipWrite (bay : Fin 64) (new expect : Fin 16) (agent : OwnAgent)
  | ownerInForce (bay : Fin 64)
  | bayPowerWrite (bay : Fin 64) (state : Fin 4)
  | bayPowerTransitionEnd (bay : Fin 64)
  | celLogclr (slice : Fin 8) (value : W32)
  | celCecntRead (slice : Fin 8)
  | celUecntRead (slice : Fin 8)
  | celOecntRead (slice : Fin 8)
  | defaultTargetAccess (master : Fin 16) (addr : BitVec 48) (write : Bool)
  | bootRomWrite (master : Fin 16) (addr : BitVec 48)
  | hbmRead (master : Fin 16) (addr : BitVec 48) (len : Nat) (chk : Check)
  | hbmWrite (master : Fin 16) (addr : BitVec 48) (data : WriteBytes)
  | hbmRefresh (channel : Fin 128) (stackId : Fin 3) (bank : Fin 16)
  | softRepair (addr : BitVec 48)
  | hbmTrain
  | hbmTrainingEnd (result0 result1 result2 result3 : W32)
  | hbmLogclr (stack : Fin 4) (value : W32)
  | hbmCecntRead (stack : Fin 4)
  | hbmUecntRead (stack : Fin 4)
  -- the Trellis (chapter 14)
  | trellisGrant (place : Fin 23) (arriving : List PortReq)
  | bridgeFlitReplay (rightToLeft delivered : Bool)
  | trLogclr (value : W32)
  | trDeccntRead (die : Fin 2)
  | trBrceRead
  | trShimcntRead
  -- the host link (chapter 15)
  | linkTraining (farRate farWidth : Nat)
  | bar0Access (offset : BitVec 26) (write : Bool) (len : Nat) (data : List (Option Byte))
  | bar0ReadCompletion
  | bar2Access (offset : BitVec 28) (write : Bool) (len : Nat) (data : List (Option Byte)) (chk : Check)
  | inboundError (what : InboundError)
  | commandRegisterWrite (reg : CfgReg) (value : Option W32)
  | outboundCompletion (request : Nat) (result : LinkRes)
  | completionTimeout (request part : Nat)
  | msixMessage (vector : Fin 2048)
  | msixUnmask (what : MsixControl)
  | msixEntryWrite (entry : Fin 2048) (dw : Fin 4) (value : W32)
  | functionLevelReset
  | linkDown
  | linkUp (farRate farWidth : Nat)
  | glbBadaccClr (value : W32)
  | glbBadaccCntRead
  | smbusRead (transaction : SmbTransaction) (code : Byte)
  | smbusRefresh (left right : List (BitVec 16)) (power core : W16)
  -- rings and jobs (chapter 16)
  | ringEnable (ring : Fin 8192) (cfg : W32)
  | ringConfigWrite (ring : Fin 8192) (reg : RingReg) (value : W64)
  | poll
  | pollIntervalExpiry
  | groupWordReadDone (group : Fin 128)
  | doorbellReadDone (ring : Fin 8192)
  | descriptorFetch (ring : Fin 8192)
  | descriptorFetchDone (ring : Fin 8192)
  | descriptorStart (ring : Fin 8192)
  | launchToken (alarm : Fin 2048)
  | coreReserve (what : Resource)
  | jobStart (ring : Fin 8192) (seqNo : W32)
  | launchStampWrite (ring : Fin 8192) (job : Launched)
  | jobComplete (ring : Fin 8192) (seqNo : W32)
  | moveChunk (engine : Fin 16) (source target : Check)
  | moveComplete (engine : Fin 16)
  | handover (ring : Fin 8192)
  | objectDescriptor (ring : Fin 8192)
  | wait (ring : Fin 8192)
  | completionRecord (ring : Fin 8192) (seqNo : W32)
  | moderationTimeout (ring : Fin 8192)
  | ringReset (ring : Fin 8192)
  | ringResume (ring : Fin 8192)
  | pollCommand
  | rkLogclr (value : W32)
  -- alarms (chapter 17)
  | alarmArm (alarm : Fin 2048)
  | alarmDisarm (alarm : Fin 2048)
  | alarmConfigWrite (alarm : Fin 2048) (reg : AlarmReg) (value : W64)
  | alarmFiring (alarm : Fin 2048)
  | alarmPinAction (alarm : Fin 2048)
  | pulseEnd (die : Fin 2) (pin : Fin 40)
  | alarmTimerAction (alarm : Fin 2048)
  | alarmCoreEvent (alarm : Fin 2048)
  | stampRecord (record : Stamped)
  | alarmDoorbellPoll (alarm : Fin 2048)
  | alLatecntRead (alarm : Fin 2048)
  -- timers (chapter 18)
  | timerStart (timer : Fin 64)
  | timerStop (timer : Fin 64)
  | timerReset (timer : Fin 64)
  | timerLoad (timer : Fin 64)
  | timerTick (timer : Fin 64)
  | updateEvent (timer : Fin 64)
  | triggerInputEdge (timer : Fin 64) (rising : Bool)
  | timerConfigWrite (timer : Fin 64) (reg : TimerReg) (value : W32)
  | captureEdge (timer : Fin 64) (rising : Bool)
  | capPairRead (timer : Fin 64) (wide : Bool)
  | tmrMissedRead (timer : Fin 64)
  | k5Run (timer : Fin 64)
  | k5CountWrap (timer : Fin 64)
  | k5CompareMatch (timer : Fin 64)
  | k5Capture (timer : Fin 64)
  -- the Vangoak Link (chapter 19)
  | portTrainingStep (port : Fin 8) (success : Bool)
  | portRetrainRetry (port : Fin 8)
  | portDown (port : Fin 8) (cause : DownCause)
  | linkSilenceTimeout (port : Fin 8)
  | flitReceive (slot : FlitSlot) (corrected lost : Bool) (flit : List Byte)
  | nak (port : Fin 8) (ack : Option (Fin 4096))
  | replayTimeout (port : Fin 8)
  | flitSend (slot : FlitSlot)
  | messageReceive (port : Fin 8) (vc : Fin 4)
  | ingestPlacement (place : Placement)
  | ingestHeaderWrite (head : HeadWrite)
  | creditReturn (port : Fin 8) (vc : Fin 4)
  | egressTrigger (alarm : Fin 2048)
  | egressReadsDone (chan : Fin 256) (most : Option Nat) (chk : Check)
  | egressFrameSent (chan : Fin 256)
  | timeSyncInterval (port : Fin 8)
  | heartbeatSend (port : Fin 8)
  | heartbeatTimeout (port : Fin 8)
  | channelEnable (chan : Channel)
  | channelDisable (chan : Channel)
  | vglCecntRead (port : Fin 8)
  | vglUecntRead (port : Fin 8)
  | vglCrccntRead (port : Fin 8)
  | vglRplcntRead (port : Fin 8)
  | vglTrncntRead (port : Fin 8)
  | vglUnmcntRead (port : Fin 8)
  | vglInErrcntRead (chan : Fin 256)
  | vglEgDropcntRead (chan : Fin 256)
  -- reliability (chapter 20) and microcode images (chapter 10)
  | coreError (row : Fin 8) (slot : Fin 9) (unit : CoreUnit) (place : Nat)
  | controlStoreError (fault : StoreFault)
  | jobRerun (ring : Fin 8192) (seqNo : W32)
  | rowError (row : Fin 8) (testPasses : Bool)
  | deviceError (unit : DeviceUnit) (recordsWork : Bool)
  | eventLogEntry
  | microcodeLoad (corrected uncorrectable : List Nat)
  | microcodeClear
  -- security (chapter 21)
  | secureBoot
  | attest
  | update (image : Install)
  | commit
  | lcreq (authorisation : HostImage)
  | recover (image : HostImage)
  | secViolcntRead
  | tamperDetect (source : Fin 4)
  | tamperLock
  | shieldCapRequest (request : W16)
  -- power, clocks, reset and boot (chapters 22 and 23)
  | oppRequest (request : Fin 4)
  | oppSwitchDone
  | thermalThrottle (sensors : Temps)
  | throttleRelease (sensors : Temps)
  | dozeRequest (dies : BitVec 2)
  | dozeWake (die : Fin 2) (e0 n e1 : Nat)
  | wakeTimeExpiry (die : Fin 2) (e0 n e1 : Nat)
  | wakePin (die : Fin 2) (e0 n e1 : Nat)
  | coreAutoOff (core : Fin 64)
  | coreWake (core : Fin 64)
  | rowPowerRequest (value : W16)
  | rowWake (row : Fin 8)
  | porst (perstScope : Bool) (smbAddr : Fin 4)
  | warmDeviceReset (cause : WarmCause)
  | rowReset (row : Fin 8)
  | bootStage
  | sysclkLoss
  | sysclkReturn
  | slowclkBad
  | slowclkGood
  | vglRefclkLoss
  | calibrationWrite (page : Install)
  | thermNAssert
  -- debug (chapter 24)
  | haltreq (core : Fin 64)
  | debugResume (core : Fin 64)
  | debugStep (core : Fin 64)
  | debugRegisterAccess (core : Fin 64) (agent : DebugAgent) (write : Bool) (value : W64)
  | dbgacc (register : BitVec 116)
  | dbgTrdropRead
  | extest (pads : BitVec 401)
  | samplePreload (preload : Bool) (cells : BitVec 401)
  | idcode
  | extestPulse (pads : BitVec 401)
  | extestTrain (pads : BitVec 401)
  | bypass (code : Byte)
  -- the steps of time and of the pipes
  | axclkTick (tp : BitVec 64) (lv : BitVec 16) (inputs : PadInputs)
  | pipeResult (core : Fin 64) (entry : Nat)
  | timerSourceEvent (timer : Fin 64) (source : Fin 4)
  | k5CountTick (timer : Fin 64)
  | bucketRefill
  | thermNRelease
  | stackHot (stack : Fin 4) (temperature : Byte)
  | dozeTemperatureSample (die : Fin 2) (sensors : Temps)
  | tamperNRelease
  | porstNAssert
  | rowPowerTransitionEnd (row : Fin 8)
  | bridgeRetrainDone (success : Bool)
  | testLogicReset
  | debugAccessResponse (chk : Check)
  | stampWriteResponse (alarm : Fin 2048)
  deriving DecidableEq, Repr

end Sys2Proof
end

