-- ==== Sys2Proof/Decode.lean ====
section
/-! DEFINITION. The commands of the table have no encoding: no row of it gives a bit (every row is an event or a bus
operation, whose operands are not laid out as a word), so no word spells a command. -/
namespace Sys2Proof

/-- The command that a word spells by the bits of the table: none, for every row. (DESIGN CHOICE, log entry 3.) -/
def decodeTableWord (_nbits _w : Nat) : Option Instr := none

end Sys2Proof
end

