-- ==== Sys2Proof/Config.lean ====
section
/-! DEFINITION. What an implementation or an image fixes and the spec leaves open.  No constant here has a
body: nothing can be proved about its value. -/
namespace Sys2Proof.Config

/-- Contents of the boot ROM, byte by byte (R355): the spec gives none. (DESIGN CHOICE, log entry 7.) -/
opaque romByte : Nat → Byte
/-- Error of the unrounded binary64 result of a transcendental operation (R254 to R256) where Table 8.8 gives none, in units of
2^-20 ulp: image version, operation, rounding mode and operand bits (as binary64, the second 0 where there is one operand) fix it, and the tables of the image are
not in the spec.  `Sys2Proof.Machine.fpOpen` keeps it within the bound of Table 8.9. -/
opaque transcendental : (fver op rm : Nat) → (a b : W64) → Int
/-- Words of the entry table, the factory area and the patch area, and bytes of the table store, that the body of a signed
microcode image gives (R273, R274). -/
opaque factoryWord : (body : List Byte) → (addr : Nat) → BitVec 160
opaque tableByte : (body : List Byte) → (addr : Nat) → Byte
/-- The patch map of a signed microcode image (R300): mapped address and patch word. -/
opaque patchMap : (body : List Byte) → List (Nat × Nat)
/-- Address of the word at which a factory routine whose words the spec does not give has stopped (Table 10.8). -/
opaque factoryResume : (fver op ty p : Nat) → BitVec 14
/-- An element of a chain link that no enabled element produced: a masked-off element of the producer, or one past its VL
(R190, R218). -/
opaque linkOpen : (elem : Nat) → W64
/-- Words of the header of the n-th inbound TLP that AER looks at: Requester ID, tag and completion fields come from the link. -/
opaque tlpWord : (n dw : Nat) → W32
/-- Counter and marker of the first codeword of the n-th start of port p: R486 gives neither. -/
opaque codewordStart : (p n : Nat) → Nat × Bool
/-- SHA-384 (chapter 21 names the standard and does not restate it): 48 bytes. -/
opaque sha384 : List Byte → List Byte
/-- ECDSA P-384 verification: public key, message hash, signature (R541). -/
opaque ecdsaValid : (pub hash sig : List Byte) → Bool
/-- ECDSA P-384 signature with the device key (R546): 96 bytes. -/
opaque ecdsaSign : (hash : List Byte) → List Byte
/-- A return authorisation names this device and DEVELOPMENT and verifies under production key 0 to 2 (R547): the spec
gives its length and not its layout. -/
opaque authorised : List Byte → Bool
/-- Revoke bits that the body of a signed image tells the Monitor to blow (R541): the spec gives no layout for it. -/
opaque revokes : (body : List Byte) → BitVec 4
/-- The 9 check bits of a control store word (R273, R302): the spec does not give the code. -/
opaque checkBits : (word : BitVec 160) → BitVec 9
/-- Requests of one kind that the queue of Trellis place p takes beyond a burst of 16, and responses beyond 16 that master m has
space for, 16 and 17 being the endpoints of the bridge out of the Left and the Right Bank (R375, R387): the spec gives no number. -/
opaque queueRoom : (p : Nat) → Nat
opaque responseRoom : (m : Nat) → Nat
/-- SRC of an event log entry for a PWR_EVT bit: R579 has it reported and Table 20.5 gives it no number. (DESIGN CHOICE, log
entry 99.) -/
opaque pwrSource : Byte
/-- Bay into which the recovering code reads an image (R544). -/
opaque recoveryBay : Nat
/-- The retirement and substitution records of MRAM (R524, Table 22.9) from GLB_RAS_ROWr, and what is read from them at boot. -/
opaque retireRecords : (rows : List W64) → List Byte
opaque retiredRow : (records : List Byte) → (row : Nat) → W64
/-- Hash of signing key k in OTP (R541), bytes 0 to 47. -/
opaque keyHash : (k : Nat) → List Byte
/-- SEC_DEVID and the words of SEC_DEVPUB (OTP of the part). -/
opaque devid : W64
opaque devpub : Nat → W32

end Sys2Proof.Config
end

