-- ==== Sys2Proof/Machine/RegMap.lean ====
section
/-! DEFINITION. The set-up registers of the control space (R6, R18, Table 0.5): one name for each
register, and for each name its place, width, reset value, field types (Table 0.4) and reserved encodings. -/
namespace Sys2Proof.Machine

/-- The set-up registers.  A numbered register (AX_n_CFG, CEL_OWNb ...) is one name with an index. -/
inductive RegName where
  -- GLB: microcode, host link, reliability
  | glbMcVer | glbMcUcrc | glbMcUaddr | glbMcUctrl | glbMcUstat | glbMcUerra | glbMcPatchn
  | glbHlStat | glbHlEvt | glbHlEvten | glbBadaccCnt | glbBadaccLog | glbBadaccClr
  | glbRasCfg | glbRasStat | glbRasIrq | glbRasLognext | glbRasLogidx | glbRasLogdata | glbRasRow
  -- CAL
  | calPage | calStat
  -- PWR
  | pwrBoot | pwrStrap | pwrRst | pwrRowrst | pwrOpp | pwrRowpwr | pwrCorecfg | pwrDoze | pwrDozestat
  | pwrWake | pwrWaketime | pwrDozetime | pwrStat | pwrEvt | pwrEvten | pwrCalArg | pwrCalCmd | pwrCalStat
  -- RK
  | rkRCfg | rkREpoch | rkRSqbase | rkRCqbase | rkRCidx | rkRDone | rkRMod | rkRStat | rkRPidx | rkRLstamp
  | rkDbbase | rkGrpbase | rkPoll | rkCmd | rkCmdstat | rkEvt | rkEvten | rkStoplog | rkLogclr
  -- TR
  | trPrio | trRl | trEvt | trEvten | trOvsub | trDeccnt | trDeclog | trLogclr | trBrce | trShimcnt
  -- CEL
  | celOwn | celBpwr | celScrubCtrl | celScrubInt | celScrubPass | celEvt | celEvten
  | celCecnt | celUecnt | celUelog | celOecnt | celOelog | celLogclr
  -- HBM
  | hbmCfg | hbmCtrl | hbmStat | hbmEvt | hbmEvten | hbmPprThr
  | hbmCecnt | hbmUecnt | hbmUelog | hbmPpr | hbmTemp | hbmTrain | hbmLogclr
  -- AX
  | axCfg | axSrc | axAux | axCtrl | axInc | axLoadv | axZval | axOffs | axNum | axDen | axStallt | axTmo
  | axSwrate | axValue | axRate | axZcap | axZerr | axStat | axErrcnt | axEdgecnt | axState | axEvt | axEvten | axPin
  -- AL
  | alCfg | alHyst | alTarget | alIntv | alRoute | alPin | alCore | alSlog | alSbase | alCtrl | alStat
  | alK | alNext | alObs | alLatecnt | alEvt | alEvten
  -- TMR and the compatibility registers
  | tmrCfg | tmrPsc | tmrPer | tmrCmp0 | tmrCmp1 | tmrOcfg | tmrSlv | tmrCapcfg | tmrIrq | tmrIrqen | tmrLoad
  | tmrCtrl | tmrStat | tmrCnt | tmrPera | tmrCapPair | tmrMissed | tmrEvt | tmrEvten
  | k5Ctl | k5Cnt | k5Cmp | k5Cap | k5Sts | k5Pin
  -- VGL
  | vglCfg | vglStat | vglTscfg | vglTsint | vglHbint | vglDelay | vglCecnt | vglUecnt | vglCrccnt | vglRplcnt
  | vglTrncnt | vglUnmcnt | vglHbcnt | vglCred
  | vglInCfg | vglInNslot | vglInBase | vglInOrigin | vglInPitch | vglInSlotsz | vglInCtrl | vglInStat
  | vglInFrmcnt | vglInErrcnt
  | vglEgCfg | vglEgLen | vglEgSrc | vglEgCtrl | vglEgStat | vglEgFrmcnt | vglEgDropcnt | vglEvt | vglEvten
  -- ROW
  | rowIpend | rowIen | rowIswi
  -- SEC
  | secLcs | secBootstat | secCmd | secCmdstat | secArg | secArglen | secNonce | secShcap | secTampcfg
  | secTampstat | secTampcnt | secRbc | secDevid | secViolcnt | secDevpub | secReport
  -- DBG
  | dbgCtrl | dbgStat | dbgRsel | dbgRdata | dbgPc | dbgIbp | dbgTrctl | dbgTrnext | dbgTrdrop | dbgTrbuf
  deriving DecidableEq, Repr

/-- One row of the register tables.  Register i lies at
`base + (i / count) * bankStride + (i % count) * stride`; `rw`, `w1c` and `ro` are the masks of the stored bits
of these types, `rc` says that a read clears the register, and each entry of `resv` is a reserved range of encodings
`(lowest bit, bits, first reserved value, last reserved value)` of a field (R11). -/
structure RegRow where
  base       : Nat
  count      : Nat := 1
  stride     : Nat := 4
  banks      : Nat := 1
  bankStride : Nat := 0
  wide       : Bool := false
  reset      : Nat := 0
  rw         : Nat := 0
  w1c        : Nat := 0
  ro         : Nat := 0
  rc         : Bool := false
  resv       : List (Nat × Nat × Nat × Nat) := []
  deriving DecidableEq, Repr

/-- An AX or AL register of one axis or alarm: both dies have a block (R18). -/
def axReg (off : Nat) (wide : Bool) (reset rw : Nat) (w1c ro : Nat := 0)
    (resv : List (Nat × Nat × Nat × Nat) := []) : RegRow :=
  { base := 0x1400000 + off, count := 16, stride := 0x80, banks := 2, bankStride := 0x200000,
    wide, reset, rw, w1c, ro, resv }
def alReg (off : Nat) (wide : Bool) (rw : Nat) (w1c ro : Nat := 0)
    (resv : List (Nat × Nat × Nat × Nat) := []) : RegRow :=
  { base := 0x1410000 + off, count := 1024, stride := 0x80, banks := 2, bankStride := 0x200000,
    wide, rw, w1c, ro, resv }
/-- A register of an AX/AL block that exists once for a die. -/
def dieReg (off : Nat) (rw w1c ro : Nat) : RegRow :=
  { base := 0x1400000 + off, count := 1, banks := 2, bankStride := 0x200000, rw, w1c, ro }
def tmrReg (off : Nat) (wide : Bool) (reset rw : Nat) (w1c ro : Nat := 0)
    (resv : List (Nat × Nat × Nat × Nat) := []) : RegRow :=
  { base := 0x1800000 + off, count := 64, stride := 0x80, wide, reset, rw, w1c, ro, resv }
def k5Reg (off reset rw : Nat) (w1c ro : Nat := 0) : RegRow :=
  { base := 0x1820000 + off, count := 64, stride := 0x20, reset, rw, w1c, ro }

def rkReg (off : Nat) (wide : Bool) (reset rw : Nat) (ro : Nat := 0) (resv : List (Nat × Nat × Nat × Nat) := []) : RegRow :=
  { base := 0x400000 + off, count := 8192, stride := 0x40, wide, reset, rw, ro, resv }
def vglReg (off reset rw : Nat) (ro : Nat := 0) : RegRow :=
  { base := 0x1C00000 + off, count := 8, stride := 0x100, reset, rw, ro }
def chReg (kind off : Nat) (wide : Bool) (rw : Nat) (w1c ro : Nat := 0) (resv : List (Nat × Nat × Nat × Nat) := []) : RegRow :=
  { base := 0x1C00000 + kind + off, count := 256, stride := 0x40, wide, rw, w1c, ro, resv }
def dbgReg (off : Nat) (wide : Bool) (rw : Nat) : RegRow :=
  { base := 0x3400000 + off, count := 64, stride := 0x80, wide, rw }

def m32 : Nat := 0xFFFFFFFF
def m64 : Nat := 0xFFFFFFFFFFFFFFFF

/-- The register tables, row by row.  DBG_TRBUF, given as 64 KiB without a register width, is held as 64-bit registers.
(DESIGN CHOICE, log entry 139.) -/
def regRow : RegName → RegRow
  -- Table 10.10 (block GLB)
  | .glbMcVer => { base := 0x400, ro := m32 }
  | .glbMcUcrc => { base := 0x404, ro := m32 }
  | .glbMcUaddr => { base := 0x408, wide := true, rw := 0xFFFFFFFFFFC0 }
  | .glbMcUctrl => { base := 0x410, ro := 3 }
  | .glbMcUstat => { base := 0x414, w1c := 6, ro := 0xFF01 }
  | .glbMcUerra => { base := 0x418, ro := 0x3FFF }
  | .glbMcPatchn => { base := 0x41C, ro := 0x7F }
  -- Table 14.9 (block TR); the present paths of TR_PRIO and TR_RL are in Trellis.lean
  | .trPrio => { base := 0x800000, count := 32, rw := m32 }
  | .trRl => { base := 0x800100, count := 15, stride := 4, banks := 16, bankStride := 0x40, rw := 0x3FFFFFF }
  | .trEvt => { base := 0x801000, w1c := 0x1F }
  | .trEvten => { base := 0x801004, rw := 0x1F }
  | .trOvsub => { base := 0x801008 }
  | .trDeccnt => { base := 0x801010, count := 2, rc := true, ro := m32 }
  | .trDeclog => { base := 0x801018, count := 2, stride := 8, wide := true, ro := m64 }
  | .trLogclr => { base := 0x801028 }
  | .trBrce => { base := 0x80102C, rc := true, ro := m32 }
  | .trShimcnt => { base := 0x801030, rc := true, ro := m32 }
  -- Table 12.5 (block CEL)
  | .celOwn => { base := 0xC00000, count := 64, reset := 0xF, ro := 0x3000F }
  | .celBpwr => { base := 0xC00100, count := 64, ro := 0x13 }
  | .celScrubCtrl => { base := 0xC00200, reset := 1, rw := 1 }
  | .celScrubInt => { base := 0xC00204, reset := 73242, rw := 0xFFFFF, resv := [(0, 20, 0, 1048)] }
  | .celScrubPass => { base := 0xC00208, count := 8, ro := m32 }
  | .celEvt => { base := 0xC00300, w1c := 0x7FFFF }
  | .celEvten => { base := 0xC00304, rw := 0x7FFFF }
  | .celCecnt => { base := 0xC00400, count := 8, stride := 0x40, rc := true, ro := m32 }
  | .celUecnt => { base := 0xC00404, count := 8, stride := 0x40, rc := true, ro := m32 }
  | .celUelog => { base := 0xC00408, count := 8, stride := 0x40, wide := true, ro := m64 }
  | .celOecnt => { base := 0xC00410, count := 8, stride := 0x40, rc := true, ro := m32 }
  | .celOelog => { base := 0xC00418, count := 8, stride := 0x40, wide := true, ro := m64 }
  | .celLogclr => { base := 0xC00420, count := 8, stride := 0x40 }
  -- Table 13.5 (block HBM)
  | .hbmCfg => { base := 0x1000000, rw := 1 }
  | .hbmCtrl => { base := 0x1000004, ro := 1 }
  | .hbmStat => { base := 0x1000008, ro := 0xFF }
  | .hbmEvt => { base := 0x100000C, w1c := 0x1FFFF }
  | .hbmEvten => { base := 0x1000010, rw := 0x1FFFF }
  | .hbmPprThr => { base := 0x1000014, reset := 16, rw := 0xFFFF }
  | .hbmCecnt => { base := 0x1000100, count := 4, stride := 0x40, rc := true, ro := m32 }
  | .hbmUecnt => { base := 0x1000104, count := 4, stride := 0x40, rc := true, ro := m32 }
  | .hbmUelog => { base := 0x1000108, count := 4, stride := 0x40, wide := true, ro := m64 }
  | .hbmPpr => { base := 0x1000110, count := 4, stride := 0x40, ro := 0xFFFFFF }
  | .hbmTemp => { base := 0x1000114, count := 4, stride := 0x40, ro := 0x1FF }
  | .hbmTrain => { base := 0x1000118, count := 4, stride := 0x40, ro := 0xFFF3 }
  | .hbmLogclr => { base := 0x100011C, count := 4, stride := 0x40 }
  -- Tables 15.4 and 15.5, 20.6 and 20.7 (block GLB)
  | .glbHlStat => { base := 0x600 }
  | .glbHlEvt => { base := 0x604, w1c := 0xF }
  | .glbHlEvten => { base := 0x608, rw := 0xF }
  | .glbBadaccCnt => { base := 0x60C, rc := true, ro := m32 }
  | .glbBadaccLog => { base := 0x610, wide := true, ro := m64 }
  | .glbBadaccClr => { base := 0x618 }
  | .glbRasCfg => { base := 0x800, reset := 0x701, rw := 0x7FF }
  | .glbRasStat => { base := 0x804, ro := 0x10000 }
  | .glbRasIrq => { base := 0x808, rw := 0x3FFF }
  | .glbRasLognext => { base := 0x80C, ro := m32 }
  | .glbRasLogidx => { base := 0x810, rw := 0x7FFF }
  | .glbRasLogdata => { base := 0x820, count := 8 }
  | .glbRasRow => { base := 0x840, count := 8, reset := 0xF, ro := 0xFFF }
  -- R576 (block CAL)
  | .calPage => { base := 0x100000, count := 1024 }
  | .calStat => { base := 0x101000, ro := 3 }
  -- Tables 22.11 and 22.12 (block PWR)
  | .pwrBoot => { base := 0x200000, ro := 0x707 }
  | .pwrStrap => { base := 0x200004, ro := 7 }
  | .pwrRst => { base := 0x200008 }
  | .pwrRowrst => { base := 0x20000C, ro := 0xFF }
  | .pwrOpp => { base := 0x200010, reset := 0x22, rw := 3, ro := 0xF0, resv := [(0, 2, 3, 3)] }
  | .pwrRowpwr => { base := 0x200014, rw := 0xFFFF, resv := [(0, 2, 3, 3), (2, 2, 3, 3), (4, 2, 3, 3), (6, 2, 3, 3), (8, 2, 3, 3), (10, 2, 3, 3), (12, 2, 3, 3), (14, 2, 3, 3)] }
  | .pwrCorecfg => { base := 0x200018, reset := 0x641, rw := 0xFFF1, resv := [(4, 12, 0, 0)] }
  | .pwrDoze => { base := 0x20001C, rw := 3 }
  | .pwrDozestat => { base := 0x200020, ro := 0x1F1F3 }
  | .pwrWake => { base := 0x200024, rw := 1 }
  | .pwrWaketime => { base := 0x200028, wide := true, rw := m64 }
  | .pwrDozetime => { base := 0x200030, wide := true, ro := m64 }
  | .pwrStat => { base := 0x200038, reset := 0x8000, ro := 0xFF01 }
  | .pwrEvt => { base := 0x20003C, w1c := 0x1F }
  | .pwrEvten => { base := 0x200040, rw := 0x1F }
  | .pwrCalArg => { base := 0x200048, wide := true, rw := m64 }
  | .pwrCalCmd => { base := 0x200050 }
  | .pwrCalStat => { base := 0x200054, ro := 0xFF07 }
  -- Tables 16.1, 16.2 and 16.16 (block RK)
  | .rkRCfg => rkReg 0x00 false 0 0x7FFFF 0 [(0, 5, 18, 31)]
  | .rkREpoch => rkReg 0x04 false 0 m32
  | .rkRSqbase => rkReg 0x08 true 0 0xFFFFFFFFFFFFFFC0
  | .rkRCqbase => rkReg 0x10 true 0 0xFFFFFFFFFFFFFFE0
  | .rkRCidx => rkReg 0x18 false 0 m32
  | .rkRDone => rkReg 0x1C false 0 0 m32
  | .rkRMod => rkReg 0x20 false 1 0xFFFFFF
  | .rkRStat => rkReg 0x24 false 0 0
  | .rkRPidx => rkReg 0x28 false 0 0 m32
  | .rkRLstamp => rkReg 0x30 true 0 0 m64
  | .rkDbbase => { base := 0x480000, wide := true, rw := 0xFFFFFFFFFFFFF000 }
  | .rkGrpbase => { base := 0x480008, wide := true, rw := 0xFFFFFFFFFFFFFC00 }
  | .rkPoll => { base := 0x480010, reset := 0x3E8000A, rw := 0x3FF3FFF, resv := [(0, 14, 10001, 16383)] }
  | .rkCmd => { base := 0x480014 }
  | .rkCmdstat => { base := 0x480018, ro := 1 }
  | .rkEvt => { base := 0x48001C, w1c := 0x3F }
  | .rkEvten => { base := 0x480020, rw := 0x3F }
  | .rkStoplog => { base := 0x480028, wide := true, ro := m64 }
  | .rkLogclr => { base := 0x480030 }
  -- Tables 19.10 to 19.12 (block VGL)
  | .vglCfg => vglReg 0x00 0 7
  | .vglStat => vglReg 0x04 0 0
  | .vglTscfg => vglReg 0x08 0 0xFFFFFF
  | .vglTsint => vglReg 0x0C 0 0xFFFF
  | .vglHbint => vglReg 0x10 0 m32
  | .vglDelay => { vglReg 0x18 0 0 m64 with wide := true }
  | .vglCecnt => { vglReg 0x20 0 0 m32 with rc := true }
  | .vglUecnt => { vglReg 0x24 0 0 m32 with rc := true }
  | .vglCrccnt => { vglReg 0x28 0 0 m32 with rc := true }
  | .vglRplcnt => { vglReg 0x2C 0 0 m32 with rc := true }
  | .vglTrncnt => { vglReg 0x30 0 0 m32 with rc := true }
  | .vglUnmcnt => { vglReg 0x34 0 0 m32 with rc := true }
  | .vglHbcnt => vglReg 0x38 0 0 m32
  | .vglCred => vglReg 0x3C 0 0
  | .vglInCfg => chReg 0x10000 0x00 false 0xFF7F 0 0 [(3, 2, 3, 3)]
  | .vglInNslot => chReg 0x10000 0x04 false m32
  | .vglInBase => chReg 0x10000 0x08 true m64
  | .vglInOrigin => chReg 0x10000 0x10 true m64
  | .vglInPitch => chReg 0x10000 0x18 true m64
  | .vglInSlotsz => chReg 0x10000 0x20 false m32
  | .vglInCtrl => chReg 0x10000 0x30 false 0
  | .vglInStat => chReg 0x10000 0x34 false 0 0x1F00 1
  | .vglInFrmcnt => chReg 0x10000 0x38 false 0 0 m32
  | .vglInErrcnt => { chReg 0x10000 0x3C false 0 0 m32 with rc := true }
  | .vglEgCfg => chReg 0x20000 0x00 false 0xFF1F 0 0 [(3, 2, 1, 1), (3, 2, 3, 3)]
  | .vglEgLen => chReg 0x20000 0x04 false m32
  | .vglEgSrc => chReg 0x20000 0x08 true m64
  | .vglEgCtrl => chReg 0x20000 0x30 false 0
  | .vglEgStat => chReg 0x20000 0x34 false 0 0x700 1
  | .vglEgFrmcnt => chReg 0x20000 0x38 false 0 0 m32
  | .vglEgDropcnt => { chReg 0x20000 0x3C false 0 0 m32 with rc := true }
  | .vglEvt => { base := 0x1C30000, w1c := 0x3FFFFFF }
  | .vglEvten => { base := 0x1C30004, rw := 0x3FFFFFF }
  -- Table 21.8 (block SEC)
  | .secLcs => { base := 0x3000000 }
  | .secBootstat => { base := 0x3000004, ro := 0x1FFF }
  | .secCmd => { base := 0x3000008 }
  | .secCmdstat => { base := 0x300000C, ro := 0xFF07 }
  | .secArg => { base := 0x3000010, wide := true, rw := m64 }
  | .secArglen => { base := 0x3000018, rw := m32 }
  | .secNonce => { base := 0x3000020, count := 8, rw := m32 }
  | .secShcap => { base := 0x3000040, reset := 0x10001000, rw := 0xFFFF0000, ro := 0xFFFF }
  | .secTampcfg => { base := 0x3000044, rw := 7, ro := 8, resv := [(1, 2, 3, 3)] }
  | .secTampstat => { base := 0x3000048, ro := 0xF }
  | .secTampcnt => { base := 0x300004C, ro := m32 }
  | .secRbc => { base := 0x3000050, count := 3 }
  | .secDevid => { base := 0x3000060, wide := true }
  | .secViolcnt => { base := 0x3000068, rc := true, ro := m32 }
  | .secDevpub => { base := 0x3000100, count := 24 }
  | .secReport => { base := 0x3001000, count := 80, ro := m32 }
  -- Tables 24.6 and 24.7 (block DBG)
  | .dbgCtrl => dbgReg 0x00 false 8
  | .dbgStat => dbgReg 0x04 false 0
  | .dbgRsel => dbgReg 0x08 false 0x3F7FF
  | .dbgRdata => dbgReg 0x10 true 0
  | .dbgPc => dbgReg 0x18 true 0
  | .dbgIbp => { base := 0x3400020, count := 4, stride := 8, banks := 64, bankStride := 0x80, wide := true, rw := 0xFFFFFFFFFFFD }
  | .dbgTrctl => { base := 0x3410000, rw := 0x3F03 }
  | .dbgTrnext => { base := 0x3410004, ro := m32 }
  | .dbgTrdrop => { base := 0x3410008, rc := true, ro := m32 }
  | .dbgTrbuf => { base := 0x3420000, count := 8192, stride := 8, wide := true, ro := m64 }
  -- Table 2.12
  | .axCfg => axReg 0x00 false 0x240 0xFFFFF 0 0 [(1, 4, 8, 15), (16, 2, 3, 3)]
  | .axSrc => axReg 0x04 false 0x3F3F3F 0x1F3F3F3F 0 0 [(0, 6, 40, 62), (8, 6, 40, 62), (16, 6, 40, 62)]
  | .axAux => axReg 0x08 false 0 0x7FFFFFFF
  | .axCtrl => axReg 0x0C false 0 0
  | .axInc => axReg 0x10 true 0x10000 m64
  | .axLoadv => axReg 0x18 true 0 m64
  | .axZval => axReg 0x20 true 0 m64
  | .axOffs => axReg 0x28 true 0 m64
  | .axNum => axReg 0x30 false 1 m32
  | .axDen => axReg 0x34 false 1 m32 0 0 [(0, 32, 0, 0)]
  | .axStallt => axReg 0x38 false 0 0xFFFFFF
  | .axTmo => axReg 0x3C false 1000 0xFFFFF
  | .axSwrate => axReg 0x40 true 0 m64
  | .axValue => axReg 0x48 true 0 0
  | .axRate => axReg 0x50 true 0 0
  | .axZcap => axReg 0x58 true 0 0
  | .axZerr => axReg 0x60 true 0 0
  | .axStat => axReg 0x68 false 0 0 0x1FF00
  | .axErrcnt => { axReg 0x6C false 0 0 0 m32 with rc := true }
  | .axEdgecnt => axReg 0x70 false 0 0
  | .axState => dieReg 0x800 0 0 0
  | .axEvt => dieReg 0x804 0 0xFFFF 0
  | .axEvten => dieReg 0x808 0xFFFF 0 0
  | .axPin => { base := 0x1400900, count := 40, banks := 2, bankStride := 0x200000, reset := 0x1000, rw := 0x33FF, resv := [(1, 3, 5, 7)] }
  -- Tables 17.6 and 17.7
  | .alCfg => alReg 0x00 false 0x7FFF 0 0 [(5, 2, 3, 3)]
  | .alHyst => alReg 0x04 false m32
  | .alTarget => alReg 0x08 true m64
  | .alIntv => alReg 0x10 true m64
  | .alRoute => alReg 0x18 false 0xFFFF1FFF 0 0 [(29, 3, 6, 7)]
  | .alPin => alReg 0x1C false 0xFFFFFF 0 0 [(0, 6, 40, 63)]
  | .alCore => alReg 0x20 false 0xFFFFF
  | .alSlog => alReg 0x24 false 0x1F 0 0 [(0, 5, 17, 31)]
  | .alSbase => alReg 0x28 true 0xFFFFFFFFFFF0
  | .alCtrl => alReg 0x30 false 0
  | .alStat => alReg 0x34 false 0 0xF00
  | .alK => alReg 0x38 true 0
  | .alNext => alReg 0x40 true 0
  | .alObs => alReg 0x48 true 0
  | .alLatecnt => { alReg 0x50 false 0 0 m32 with rc := true }
  | .alEvt => dieReg 0xA00 0 7 0
  | .alEvten => dieReg 0xA04 7 0 0
  -- Tables 18.5 to 18.8
  | .tmrCfg => tmrReg 0x00 false 8 0x1FFFFF 0 0 [(0, 2, 3, 3), (6, 6, 40, 63), (12, 2, 3, 3)]
  | .tmrPsc => tmrReg 0x04 false 0 0xFFFF
  | .tmrPer => tmrReg 0x08 false 0 m32
  | .tmrCmp0 => tmrReg 0x0C false 0 m32
  | .tmrCmp1 => tmrReg 0x10 false 0 m32
  | .tmrOcfg => tmrReg 0x14 false 0 0xFF
  | .tmrSlv => tmrReg 0x18 false 0 0x3FFF 0 0 [(0, 3, 4, 7), (4, 6, 40, 63), (11, 3, 6, 7)]
  | .tmrCapcfg => tmrReg 0x1C false 0x200 0x7FF 0 0 [(1, 6, 40, 63)]
  | .tmrIrq => tmrReg 0x20 false 0 0x7FFFF
  | .tmrIrqen => tmrReg 0x24 false 0 0x3F
  | .tmrLoad => tmrReg 0x28 false 0 m32
  | .tmrCtrl => tmrReg 0x30 false 0 0
  | .tmrStat => tmrReg 0x34 false 0 0 0x3B700
  | .tmrCnt => tmrReg 0x38 false 0 0
  | .tmrPera => tmrReg 0x3C false 0 0
  | .tmrCapPair => tmrReg 0x40 true 0 0
  | .tmrMissed => { tmrReg 0x48 false 0 0 0 m32 with rc := true }
  | .tmrEvt => { base := 0x1830000, w1c := 0x1F }
  | .tmrEvten => { base := 0x1830004, rw := 0x1F }
  | .k5Ctl => k5Reg 0x00 0 0xFF3E 0 1
  | .k5Cnt => k5Reg 0x04 0 0
  | .k5Cmp => k5Reg 0x08 0 m32
  | .k5Cap => k5Reg 0x0C 0 0 0 m32
  | .k5Sts => k5Reg 0x10 0 0 0xF
  | .k5Pin => k5Reg 0x14 0x3F 0x3F
  -- Table 11.5
  | .rowIpend => { base := 0x2000800, count := 8, stride := 0x20, banks := 8, bankStride := 0x200000, wide := true, w1c := m64 }
  | .rowIen => { base := 0x2000808, count := 8, stride := 0x20, banks := 8, bankStride := 0x200000, wide := true, rw := 0xFFFFFF }
  | .rowIswi => { base := 0x2000810, count := 8, stride := 0x20, banks := 8, bankStride := 0x200000 }

end Sys2Proof.Machine
end

