-- ==== Sys2Proof/Machine/RecCore.lean ====
section
/-! DEFINITION. Records of the cores and of the jobs they serve: the steward (chapters 03 to 05 and 11) and the press
(chapters 06 to 10). -/
namespace Sys2Proof.Machine

/-- A scalar load on its way (R123); a split load waits for both halves (R127). -/
structure LoadRec where
  dest   : Nat
  addr   : Nat
  size   : Nat
  signed : Bool
  level  : Nat
  /-- STATUS.EXC at issue (R321) -/
  exc    : Bool
  /-- bytes of the halves that have returned, none while a half is out; an unsplit load has only the low half -/
  low    : Option (List Byte) := none
  high   : Option (List Byte) := none
  /-- the ECAUSE code of the first half that returned an error (R127) -/
  bad    : Option Nat := none
  split  : Bool
  /-- place in program order -/
  seqn   : Nat := 0
  deriving DecidableEq, Repr

/-- A load response with an error that has not been taken as an exception yet (R129, R321). -/
structure LateFault where
  /-- 0x12 ownership, 0x13 data error -/
  code : Nat
  addr : Nat
  exc  : Bool
  seqn : Nat
  deriving DecidableEq, Repr

/-- The running divide (R130, R131). -/
structure DivRec where
  dest : Nat
  op   : Nat
  wide : Bool
  a    : W64
  b    : W64
  /-- CCLK at which the result is due -/
  due  : Nat
  deriving DecidableEq, Repr

/-- One entry of the store buffer (R124): its bytes, lowest address first. -/
structure StoreRec where
  addr  : Nat
  bytes : List Byte
  level : Nat
  /-- number of the instruction in program order -/
  seqn  : Nat
  /-- buffered when a return restarted stopped groups: before every access of theirs (R324) -/
  early : Bool := false
  deriving DecidableEq, Repr

/-- One valid line of the instruction buffer (R120). -/
structure IbLine where
  /-- address bits [47:6] -/
  tag   : Nat
  bytes : List Byte
  deriving DecidableEq, Repr

/-- What a core that executes no bundle waits for (R160, R163 to R165). -/
inductive CoreWait where
  | none | wfe
  /-- the other syllables of a `jend` bundle have taken effect and must complete (R160) -/
  | jend
  | waitax (axis : Nat) (value : W64)
  | waitcy (value : W64)
  deriving DecidableEq, Repr

/-- An operand of a vector instruction, as the press copies it at issue (R180). -/
inductive Opnd where
  | none
  | cask (k n : Nat)
  | stream (d : BitVec 256)
  | link (l : Nat)
  | bcast (v : W64)
  | greg (r : Nat)
  deriving DecidableEq, Repr

/-- A stream fault of an element or a trap, found and not reported yet (R201, R250): ECAUSE.CODE, DETAIL and EINFO. -/
structure PFault where
  code   : Nat
  detail : Nat
  info   : W64
  /-- place in the order of R201 at one element: 0 index stream, 1 mask stream, 2 to 4 the read port, 5 the rest -/
  rank   : Nat := 5
  deriving DecidableEq, Repr

/-- One element read by the stream engine: its value, a suppressed element, or a fault of the element. -/
inductive ElemIn where
  | value (v : W64)
  | oor (v : W64)
  | fault (f : PFault)
  deriving DecidableEq, Repr

/-- One element in a chain link: its bits, the flags raised for it so far, and a fault it carries. -/
structure LinkElem where
  val   : W64
  /-- the flags that each member raised for the element, by the member's place in program order (R240) -/
  flags : List (Nat × BitVec 9)
  /-- a member raised a flag whose trap it had enabled (R250) -/
  trap  : Bool
  fault : Option PFault
  deriving DecidableEq, Repr

/-- One write of an item: element of the destination, its exact address where an index gives it, and the value. -/
structure EWrite where
  ix   : Nat
  addr : Option Int := none
  val  : W64
  deriving DecidableEq, Repr

/-- What one item of an instruction does (one element, one butterfly, one row ...). -/
structure ERes where
  writes : List EWrite := []
  flags  : BitVec 9 := 0
  /-- flags that earlier members of the group raised for the element, by member -/
  linkF  : List (Nat × BitVec 9) := []
  trap   : Bool := false
  pack   : Nat := 0
  acc    : Option (List (Option W64)) := none
  /-- flags kept for a result that depends on many elements -/
  accF   : BitVec 9 := 0
  deriving DecidableEq, Repr

/-- One entry of the vector issue queue (R169, Table 11.8). -/
structure Vop where
  /-- place in program order -/
  seqn    : Nat
  /-- chain group (R192) -/
  group   : Nat
  syl0    : W32
  syl1    : W32
  priv    : Nat
  dst     : Opnd
  s1      : Opnd
  s2      : Opnd
  s3      : Opnd
  mask    : Opnd
  /-- copy of the descriptor of a stream index source (R182) -/
  ixd     : BitVec 256
  vl      : Nat
  /-- FPCTL as copied at issue (R240) -/
  fpc     : W32
  /-- version of the microcode image in force at issue (R256, R301) -/
  fver    : Nat := 0
  suppV   : Bool := false
  suppF   : Bool := false
  /-- the group stopped on a trap: element P completes without one (R251) -/
  exempt  : Bool := false
  started : Bool := false
  /-- the last element is committed; the entry no longer holds a place of the queue (R170) -/
  released : Bool := false
  /-- progress of the group (R199) -/
  p       : Nat := 0
  /-- its writes through port W enter the digest (R95) -/
  dig     : Bool := true
  /-- next element that this member's pipe delivers -/
  nxt     : Nat := 0
  /-- packed-side count (R220) -/
  pack    : Nat := 0
  /-- elements that the stream engine has read and no element has used: operand, element -/
  data    : List ((Nat × Nat) × ElemIn) := []
  /-- accumulators of a reduction or scan (R221), lane by lane; none is absent -/
  acc     : List (Option W64) := []
  /-- flags raised so far for a result that depends on many elements -/
  accF    : BitVec 9 := 0
  fault   : Option PFault := none
  /-- the FMA pipe that it holds is FB (R195) -/
  onFb    : Bool := false
  /-- read ports that its streams hold: operand and port S0 to S2 (R195, R279) -/
  ports   : List (Nat × Nat) := []
  /-- results of the commit unit that the root is filling (R199) -/
  held    : List (Nat × ERes) := []
  /-- stop cause of a microcoded operation (Table 10.8): 0 none, 1 stop request, 2 stream fault, 3 trap -/
  cause   : Nat := 0
  deriving DecidableEq, Repr

/-- A write handed to port W and not accepted by its target yet (R183, R197, R615). -/
structure WWrite where
  seqn  : Nat
  addr  : Nat
  bytes : List Byte
  /-- bit position of a bit write -/
  bitp  : Option Nat
  level : Nat
  /-- stave entry of the commit queue that it came from (R288) -/
  stave : Nat := 0
  /-- the job's digest counts it (R95) -/
  dig   : Bool := false
  deriving DecidableEq, Repr

/-- A register that awaits `mfcr` of VSTAT or FPCTL (R234, Table 11.7). -/
structure StatRead where
  reg  : Nat
  /-- entries with seqn in [lo, pos) contribute -/
  lo   : Nat
  pos  : Nat
  acc  : W64
  /-- read by a handler while the press is frozen: its pending bit stands although VF is 1 -/
  hand : Bool := false
  deriving DecidableEq, Repr

/-- A digest record that waits for an older vector instruction (R99). -/
structure DigRec where
  seqn : Nat
  tag  : W64
  data : W64
  deriving DecidableEq, Repr

/-- One stave of a routine with the tag of each lane (R280); an absent lane is none. -/
structure Unit512 where
  lanes : List (Option Nat × W64) := []
  /-- lane numbers that carry a stream fault (R290) -/
  faults : List (Nat × PFault) := []
  /-- lane numbers whose element was suppressed or clamped (R226) -/
  oors   : List Nat := []
  deriving DecidableEq, Repr

/-- One queued write of a routine (R288). -/
structure QWrite where
  item  : Nat
  /-- destination: 0 port W, 1 destination cask group, 2 general register -/
  dest  : Nat
  tag   : Nat
  val   : W64
  flags : BitVec 9
  /-- routine cycle of the word that made it: one stave entry of the queue -/
  stave : Nat
  deriving DecidableEq, Repr

/-- The microsequencer while a user-area routine runs (R281 to R292). -/
structure Micro where
  upc    : Nat
  ec     : List W32
  preds  : List (BitVec 64)
  pfl    : List (BitVec 9)
  temps  : List Unit512
  /-- routine cycle (R277) and outputs of the pipes: (due cycle, pipe, unit) -/
  cyc    : Nat := 0
  outs   : List (Nat × Nat × Unit512) := []
  /-- predicates to be written: (due cycle, predicate, enabled lanes and their bits) (R286) -/
  pdefs  : List (Nat × Nat × List (Nat × Bool)) := []
  /-- previous output of CVTN (Table 10.5) -/
  cvtn   : Unit512 := {}
  /-- next element index of S0 to S2, or none where the port is not started -/
  ports  : List (Option Nat) := []
  queue  : List QWrite := []
  /-- released writes that their target has accepted, each with the elements read before that and not consumed (R289) -/
  kept   : List (WWrite × List (Nat × Nat)) := []
  fence  : Option Nat := none
  fenceF : Option PFault := none
  /-- address of the word that set the fence -/
  fenceAt : Nat := 0
  /-- stop cause of the restart record (Table 10.8) -/
  cause  : Nat := 0
  resume : Nat := 0
  rst    : Bool := false
  stop   : Bool := false
  exemptItem : Option Nat := none
  /-- P of the restart record; in a running routine the restored P (R285) -/
  restP  : Nat := 0
  deriving DecidableEq, Repr

/-- What `vsave` cannot write into the save area and the resume needs: the places of the saved entries in program order
(R99), the number of lanes of each temporary of a stopped routine, and the values of the registers that await `mfcr`. -/
structure Saved where
  seqns  : List Nat := []
  shapes : List Nat := []
  /-- what the registers that await `mfcr` of VSTAT and FPCTL have gathered so far (R235) -/
  vsrd   : Option StatRead := none
  fprd   : Option StatRead := none
  deriving DecidableEq, Repr

/-- A logical core: the registers of Table 4.2 and Table 4.3, and what is in flight. -/
structure Core where
  g : Table W64 := []
  a : Table W64 := []
  m : Table W64 := []
  lc : W32 := 0
  rpt : W32 := 0
  pc : W64 := 0
  status : W64 := 0
  estatus : W64 := 0
  epc : W64 := 0
  ecause : W64 := 0
  einfo : W64 := 0
  evec : W64 := 0
  shieldLimit : W64 := 0
  /-- CCLK in which SHIELD_COUNT reaches 0 while STATUS.SH is 1; 0 when that expiry has been dropped (R330) -/
  shieldEnd : Nat := 0
  vstat : W64 := 0
  fpctl : W64 := 0
  jobid : W64 := 0
  erpt : W64 := 0
  ediva : W64 := 0
  edivb : W64 := 0
  edivd : W64 := 0
  vctx : W64 := 0
  mpuBase : Table W64 := []
  mpuLimit : Table W64 := []
  /-- first CCLK in which a bundle can be in E (R110) -/
  notBefore : Nat := 0
  /-- CCLK from which a multiply result is usable (R114, R142) -/
  ready : Table Nat := []
  loads : List LoadRec := []
  late : List LateFault := []
  div : Option DivRec := none
  sb : List StoreRec := []
  /-- first CCLK in which the next store can drain (R124) -/
  drainAt : Nat := 0
  /-- sets of the instruction buffer, most recently used line first -/
  ibuf : Table (List IbLine) := []
  /-- a fetch that failed: DETAIL and address (R621) -/
  fetchErr : Option (Nat × W64) := none
  latch : Bool := false
  wait : CoreWait := .none
  /-- the Monitor has ended the job in this tick and TCLK: the core stops at its next bundle boundary (R427) -/
  stopDue : Option (Nat × Nat) := none
  /-- number of the next instruction in program order -/
  seqn : Nat := 1
  casks : Table CaskVal := []
  b : Table W64 := []
  sd : Table (BitVec 256) := []
  links : Table (List LinkElem) := []
  viq : List Vop := []
  wq : List WWrite := []
  vsrd : List StatRead := []
  fprd : List StatRead := []
  micro : Option Micro := none
  /-- restart record of a stopped routine (Table 10.8) -/
  restart : Option Micro := none
  /-- queues saved by `vsave` and not restored yet, newest first -/
  saved : List Saved := []
  /-- CRC of the rank's records from preset 0, how many there are, and the records that still wait (R99, R100) -/
  crc : W64 := 0
  crcN : Nat := 0
  digq : List DigRec := []
  /-- the job that the core serves, and its rank (R425) -/
  job : Option Nat := none
  rank : Nat := 0
  ended : Bool := false
  taint : Bool := false
  /-- the job for which the core is reserved (R424) -/
  reserved : Option Nat := none
  /-- serving a job as a partner core (R101) -/
  partner : Bool := false
  /-- GLB_MC_VER at the launch of the job, under which it runs from start to end (R301) -/
  mcver : W32 := 0
  /-- a halt request has reached the core; it waits for the next job start (R603) -/
  haltReq : Bool := false
  haltPend : Bool := false
  /-- breakpoints that caused the halt -/
  ibpHit : Nat := 0
  /-- the core is OFF (R558); tick from which it is idle and unreserved -/
  off : Bool := false
  freeAt : Nat := 0
  halted : Bool := false
  haltCause : Nat := 0
  /-- DEBUG_STEP: halt again after one bundle (R604) -/
  stepping : Bool := false
  /-- pc at which the last halt left the core (R605) -/
  haltAt : W64 := 0
  /-- the next bundle does not match an instruction breakpoint again (R605) -/
  ibpSkip : Bool := false
  /-- SHIELD_COUNT while STATUS.SH is 0 (R318) or a debug halt holds it (R603) -/
  shieldHeld : Nat := 0
  /-- for each exception not returned from, newest first: it was an interrupt (R95) -/
  hstack : List Bool := []
  /-- an exception was taken while a `jend` waited: how many exceptions were open before it, and its EPC (R160) -/
  jendBack : Option (Nat × W64) := none
  /-- DETAIL of a machine check that waits for the next boundary (R311) -/
  mcheck : Option Nat := none
  deriving DecidableEq, Repr

end Sys2Proof.Machine
end

