-- ==== Sys2Proof/Machine/RecJob.lean ====
section
/-! DEFINITION. Records of the host link (chapter 15) and of the Racking Engine (chapter 16): outbound requests, MSI-X
entries, rings, descriptors, jobs and MOVE engines. -/
namespace Sys2Proof.Machine

/-! The host link. -/

/-- What an outbound request is for. -/
inductive OutKind where
  /-- group words [first, first + n) (R415) -/
  | groups (first n : Nat)
  /-- doorbell words [first, first + n) of one group (R415) -/
  | doors (first n : Nat)
  | fetch (ring : Nat) (seqNo : W32) (n : Nat)
  | moveRead (engine : Nat)
  /-- a completion record (R433) -/
  | record (ring : Nat) (seqNo : W32)
  /-- a completion record of a descriptor that a ring reset has passed over: it moves no RK_r_DONE (R436, R438) -/
  | pastRecord
  | msix (vector : Nat)
  | moveData (engine : Nat)
  /-- a read whose requester was reset: its completion is discarded and its tag waits (R403) -/
  | orphan
  deriving DecidableEq, Repr

/-- How an outbound read request ended (R400, R420): its data, or a failure code (4 timeout, 5 UR or CA, 6 poisoned). -/
inductive OutRes where
  | data (bytes : List Byte)
  | fail (code : Nat)
  deriving DecidableEq, Repr

/-- One outbound read or write (R400), from the moment it is made until its requester has used its completion. -/
structure OutReq where
  id   : Nat
  kind : OutKind
  addr : W64
  len  : Nat
  /-- bytes of a write -/
  data : List Byte := []
  /-- attributes: Relaxed Ordering, ID-Based Ordering, No Snoop -/
  attr : BitVec 3 := 0
  /-- what the completions of a read have brought so far: offsets, rising, and bytes -/
  parts : List (Nat × List Byte) := []
  sent : Bool := false
  res  : Option OutRes := none
  deriving DecidableEq, Repr

/-- A posted write issued on the link. -/
structure HostWrite where
  addr : W64
  data : List Byte
  attr : BitVec 3 := 0
  deriving DecidableEq, Repr

/-- What the host receives for a request it made: completion status 0 successful, 1 Unsupported Request, 2 Completer
Abort (R399, R401), and data. -/
structure HostReply where
  status : Nat
  data   : List Byte
  deriving DecidableEq, Repr

/-- A header that AER has logged, and the bit of its error. -/
structure AerEntry where
  error  : Nat
  header : BitVec 128
  deriving DecidableEq, Repr

/-- Advanced Error Reporting (R392, R401). (PRESUMED, log entry 140.) -/
structure Aer where
  /-- uncorrectable error status, mask and severity: a 1 of the severity is fatal -/
  status : W32 := 0
  mask   : W32 := 0
  sev    : W32 := 0x00462030
  /-- the headers logged, oldest first, at most 4 -/
  log    : List AerEntry := []
  /-- error messages sent to the host: the bit, and whether fatal -/
  msgs   : List (Nat × Bool) := []
  /-- TLPs looked at so far -/
  seen   : Nat := 0
  deriving DecidableEq, Repr

/-- Fields of the configuration space beside those of the link itself (R392, R394, R395, R400). -/
structure PciCfg where
  /-- addresses in BAR0/1 and BAR2/3 -/
  bar0   : W64 := 0
  bar2   : W64 := 0
  /-- subsystem vendor ID and subsystem ID, as the calibration page gave them at the last PORST_N -/
  subsys : W32 := 0
  /-- Device Control: reporting of non-fatal errors, of fatal errors, of Unsupported Requests -/
  report : BitVec 3 := 0
  /-- Device Control 2: completion timeout range and disable -/
  range  : BitVec 5 := 0
  /-- ASPM L1 is enabled -/
  l1     : Bool := false
  /-- the function is in D3hot, not in D0 -/
  d3     : Bool := false
  /-- the last configuration request was answered with Request Retry Status (R574) -/
  retry  : Bool := false
  /-- the last configuration read -/
  data   : W32 := 0
  deriving DecidableEq, Repr

/-- The PCI Express endpoint (R392 to R405). (PRESUMED, log entry 76; DESIGN CHOICE, log entry 80.) -/
structure Link where
  /-- GLB_HL_STAT: rate 0 is link down -/
  rate  : Nat := 0
  width : Nat := 0
  flit  : Bool := false
  /-- Command register: Memory Space Enable and Bus Master Enable -/
  mse   : Bool := false
  bme   : Bool := false
  /-- MSI-X Enable and Function Mask -/
  msixEn : Bool := false
  fmask  : Bool := false
  /-- Max_Payload_Size and Max_Read_Request_Size in bytes -/
  mps   : Nat := 128
  mrrs  : Nat := 512
  aer   : Aer := {}
  cfg   : PciCfg := {}
  /-- posted credits that the host has left (R389); none: it counts none -/
  posted : Option Nat := none
  /-- outbound requests, in the order in which they were made -/
  out   : List OutReq := []
  nextId : Nat := 0
  /-- posted writes that left the device, oldest first -/
  tx    : List HostWrite := []
  /-- BAR0 reads that wait for their completion, oldest first -/
  reads : List HostReply := []
  reply : Option HostReply := none
  deriving DecidableEq, Repr

/-- A message that a source has asked for: its vector, and the address and data that the entry held then (R402). -/
structure MsixMsg where
  vector : Nat
  addr   : W64
  data   : W32
  deriving DecidableEq, Repr

/-- One MSI-X table entry (R402). -/
structure MsixEntry where
  addrLo : W32 := 0
  addrHi : W32 := 0
  data   : W32 := 0
  masked : Bool := true
  deriving DecidableEq, Repr

/-! Rings. -/

/-- RK_r_STAT.STATE (Table 16.2). -/
inductive RingState where
  | disabled | running | stopped | resetting
  deriving DecidableEq, Repr

/-- A launch token (R422). -/
structure Token where
  stamp : W64
  axis  : Nat
  deriving DecidableEq, Repr

/-- A fetched descriptor, or the first descriptor of a fetch that failed: DETAIL and the address of the request (R420). -/
structure Desc where
  seqNo : W32
  bytes : List Byte := []
  fail  : Option (Nat × W64) := none
  deriving DecidableEq, Repr

/-- The result of a completed descriptor: the words of its record (R433). -/
structure Outcome where
  status : Nat
  detail : Nat := 0
  /-- bytes 0 to 19 in the form the status asks for -/
  body   : List Byte := []
  taint  : Bool := false
  deriving DecidableEq, Repr

/-- A descriptor that has started and whose record has not left yet. -/
structure Started where
  seqNo : W32
  bytes : List Byte
  /-- value of the stamp axis at the start (R434) -/
  start : W64
  mcver : W32
  /-- tick of the start -/
  at_   : Nat := 0
  /-- HANDOVER: entries accepted so far, and one is on its way (R429) -/
  prog  : Nat := 0
  busy  : Bool := false
  /-- EGRESS and INGEST: the words have reached the channel; they would leave it invalid (R519) -/
  arrived : Bool := false
  refused : Bool := false
  /-- the descriptor has completed: its record, its address, and what it says -/
  done  : Option (Outcome × W64 × List Byte) := none
  /-- the record is queued for the link -/
  issued : Bool := false
  /-- a ring reset has passed over it: it no longer counts in DONE -/
  stale : Bool := false
  deriving DecidableEq, Repr

/-- One ring (R410 to R423); its registers are kept in the register file. (DEDUCED, log entry 145.) -/
structure Ring where
  state  : RingState := .disabled
  tokens : List Token := []
  /-- the ring has consumed a token since it was enabled (Table 16.11) -/
  used   : Bool := false
  fetched : List Desc := []
  /-- the descriptor at the head has passed its check (R420) -/
  checked : Bool := false
  /-- SEQ of the next descriptor to fetch -/
  next   : W32 := 0
  started : List Started := []
  /-- tick and TCLK in which the JOB or MOVE at the head met conditions 1 to 3 of R421, as one number (R424) -/
  metAt  : Option Nat := none
  /-- MOVE engine claimed by the MOVE at the head -/
  engine : Option Nat := none
  /-- records counted for moderation, and the tick of the oldest (R437) -/
  pend   : Nat := 0
  since  : Nat := 0
  deriving DecidableEq, Repr

/-- One MOVE engine (R428). -/
structure Engine where
  busy  : Bool := false
  ring  : Nat := 0
  seqNo : W32 := 0
  /-- claimed by a MOVE that has not started -/
  claim : Bool := false
  /-- bytes of the completed chunks -/
  pos   : Nat := 0
  /-- a host read of the chunk is out -/
  wait  : Bool := false
  /-- DETAIL and address of an error (R428) -/
  err   : Option (Nat × W64) := none
  deriving DecidableEq, Repr

/-- A doorbell poll (R415, R417). -/
structure Poll where
  running : Bool := false
  /-- a trigger came while the poll ran -/
  again   : Bool := false
  /-- number of polls started, and the tick in which the last one started -/
  count   : Nat := 0
  start   : Nat := 0
  sweep   : Bool := false
  /-- groups whose group word has not been used yet, rings whose doorbell word has not -/
  groups  : List Nat := []
  doors   : List Nat := []
  /-- group words to be recorded once the doorbell words are read -/
  words   : Table W64 := []
  deriving DecidableEq, Repr

/-! Jobs. -/

/-- What the Monitor reports of the exception that ended a job (Table 16.14). -/
structure JobErr where
  einfo  : W64
  epc    : W64
  ecause : W64
  mcode  : Nat
  rank   : Nat
  /-- tick and TCLK in which the exception reached the Monitor -/
  at_    : Nat × Nat := (0, 0)
  deriving DecidableEq, Repr

/-- What a rank leaves when it ends (R100, R427). -/
structure RankEnd where
  ended : Bool := false
  crc   : W64 := 0
  crcN  : Nat := 0
  taint : Bool := false
  deriving DecidableEq, Repr

/-- A JOB descriptor from the reservation of its first core until its record is made (R424 to R427). -/
structure Job where
  ring    : Nat := 0
  seqNo   : W32 := 0
  bytes   : List Byte := []
  /-- logical cores by rank, and the partner cores of pair mode -/
  cores   : List Nat := []
  partners : List Nat := []
  /-- the cores have started (R425) -/
  running : Bool := false
  /-- launch stamp (R422), and the stamp has been written where it must be (R454) -/
  stamp   : W64 := 0
  stamped : Bool := false
  /-- what each rank left when it ended: primary row set, partner row set -/
  ranks   : Table RankEnd := []
  pranks  : Table RankEnd := []
  /-- the Monitor ended the job (R309) -/
  err     : Option JobErr := none
  /-- DETAIL of status 0x11, of status 0x40 -/
  abort   : Option Nat := none
  fail    : Option Nat := none
  /-- tick and TCLK of the core error that left the job not to be re-run (R525, R539) -/
  failAt  : Option (Nat × Nat) := none
  /-- a core has committed a write to the control space, MRAM or a Vault (R525) -/
  outside : Bool := false
  /-- what the partner row has written: bytes that its own reads see, and no one else (R101, R102) -/
  shadow  : Table (Byte × Byte) := []
  /-- the re-run that the Monitor has decided on or that runs: DETAIL of Table 20.2 -/
  rerun   : Option Nat := none
  /-- the re-run has been launched -/
  again   : Bool := false
  deriving DecidableEq, Repr

end Sys2Proof.Machine
end

