-- ==== Sys2Proof/Machine/RecMem.lean ====
section
/-! DEFINITION. Records of the memories and of the Trellis (chapters 12 to 14). -/
namespace Sys2Proof.Machine

/-- Power states of a bay (R347). -/
inductive BayPower where
  | on | ret | off
  deriving DecidableEq, Repr

/-- One bay of the Cellar: its owner, power and position (R340, R344, R347). -/
structure Bay where
  /-- CEL_OWNb.OWNER -/
  owner : Nat := 0xF
  /-- the owner in force at the slice, by which accesses are checked (R341) -/
  force : Nat := 0xF
  /-- owners of ownership writes that are processed and not in force yet, oldest first, each with the core whose store
  made it: the write is accepted when its owner is in force (R344) -/
  coming : List (Nat × Option Nat) := []
  /-- the owner that the Cellarer or a HANDOVER entry has replaced, and the tick of that write (Table 12.12) -/
  passed : Option (Nat × Nat) := none
  /-- CEL_OWNb.RES -/
  res   : Nat := 0
  /-- CEL_BPWRb.STATE: the target state -/
  power : BayPower := .on
  /-- CEL_BPWRb.BUSY -/
  busy  : Bool := false
  /-- the state that a transition in progress leaves (Table 12.4) -/
  fromP : BayPower := .on
  /-- held in retention or off by its row (R348, R559) -/
  rowP  : BayPower := .on
  deriving DecidableEq, Repr

/-! The Trellis. -/

/-- Where a transaction is on its way (Table 14.7): a request, its response, a control-space access that the Left Bank
forwards to the Right Bank, and the acknowledgement of that access. -/
inductive TrLeg where
  | request | response | forward | forwardAck
  deriving DecidableEq, Repr

/-- One transaction on the Trellis (R375). -/
structure Txn where
  /-- Trellis master and target numbers, which it keeps all the way (R371) -/
  master  : Nat
  target  : Nat
  /-- HBM: the stack; control space: 1 for a register block of the Right Bank -/
  part    : Nat
  /-- number of its 64-byte block -/
  block   : Nat
  write   : Bool
  /-- it took a token when it left its port (R379) -/
  assured : Bool
  /-- every byte enable is clear (R385) -/
  empty   : Bool
  /-- resets of its master before it was made (R385) -/
  gen     : Nat
  leg     : TrLeg := .request
  /-- the tag that its response carries (R376) -/
  tag     : Nat := 0
  /-- words of its block that it reaches -/
  words   : BitVec 8 := 0xFF
  /-- the first transaction of a request that crosses the die bridge: the blocks that follow it over the bridge (R375) -/
  ahead   : Option (List Nat) := none
  /-- it came over the die bridge and still holds the credit of its class there -/
  held    : Bool := false
  /-- its acknowledgement still holds a CF credit of the direction out of the Right Bank -/
  acked   : Bool := false
  /-- it has come in this TCLK to an arbiter that is parked on another master (R378) -/
  late    : Bool := false
  deriving DecidableEq, Repr

/-- A single transaction or a burst at its master's port (R375). -/
structure Burst where
  target : Nat
  /-- number of the 64-byte block of its next transaction -/
  block  : Nat
  write  : Bool
  /-- transactions that have not left the port -/
  left   : Nat
  /-- words of each block that it reaches -/
  words  : BitVec 8 := 0xFF
  /-- its first transaction has left the port -/
  begun  : Bool := false
  /-- one has left for the die bridge -/
  crossed : Bool := false
  /-- the port sends the rest with every byte enable clear (R385) -/
  padded : Bool := false
  /-- resets of the port before it came -/
  gen    : Nat := 0
  deriving DecidableEq, Repr

/-- The port of a master (R374, R379, R385, R387). -/
structure TrPort where
  /-- what waits at the port, oldest first -/
  queue : List Burst := []
  /-- the tags in use: of requests for whose response space is reserved (R387) -/
  tags  : List Nat := []
  /-- resets of the master so far, and responses that it received: those to requests from before a reset are discarded -/
  gen   : Nat := 0
  got   : Nat := 0
  deriving DecidableEq, Repr

/-- One arbiter of the Trellis: of a target, of an HBM stack, of a direction of the die bridge, of the response network of
a die (R377, R378). -/
structure Arbiter where
  /-- transactions that wait, oldest first -/
  waiting : List Txn := []
  /-- the master last granted at each priority (R377) -/
  last    : Table Nat := []
  /-- the parked master (R378) -/
  park    : Nat := 14
  /-- capacity left over, in eighths of a transaction (Table 14.2) -/
  room    : Nat := 0
  deriving DecidableEq, Repr

/-- One direction of the die bridge (R383, R384). -/
structure Bridge where
  /-- consecutive failed replays of the flit in hand -/
  fails   : Nat := 0
  stopped : Bool := false
  /-- retraining has failed: the direction stays stopped until the warm device reset (R530) -/
  failed  : Bool := false
  /-- transactions of bursts that the far targets have room for and that have not crossed: place, block, whether a write (R375) -/
  owed    : List (Nat × Nat × Bool) := []
  /-- responses for which the far endpoint has reserved space (R387) -/
  resv    : Nat := 0
  /-- credits in use by class: 0 RSP, 1 WR, 2 RD, 3 CF; those of SB follow from what is on its way -/
  used    : Table Nat := []
  deriving DecidableEq, Repr

end Sys2Proof.Machine
end

