-- ==== Sys2Proof/Machine/RecSys.lean ====
section
/-! DEFINITION. Records of reliability, security, power, boot and debug (chapters 20 to 24). -/
namespace Sys2Proof.Machine

/-- Power states of a row (R559). -/
inductive RowPower where
  | run | ret | off
  deriving DecidableEq, Repr

/-- One row: its power state, the state a transition leaves for, its reset, and its re-run tables (R526). -/
structure Row where
  power : RowPower := .run
  goal  : RowPower := .run
  inReset : Bool := false
  /-- byte intervals read and written by the jobs of the row, first and last address (R526) -/
  rrt   : List (Nat × Nat) := []
  wrt   : List (Nat × Nat) := []
  clobber : Bool := false
  deriving DecidableEq, Repr

/-- An event that waits for the Monitor to log it (R532, Table 20.4). -/
structure Report where
  src  : Nat
  code : Nat
  sev  : Nat
  unit : Nat := 0xFF
  info0 : W64 := 0
  info1 : W64 := 0
  deriving DecidableEq, Repr

/-- One-time-programmable state (R541 to R548). (DESIGN CHOICE, log entry 104.) -/
structure Otp where
  /-- life-cycle state (Table 21.4) -/
  lcs  : Nat := 1
  /-- rollback counters of KIND 1 to 3 -/
  rbc  : Table Nat := []
  /-- revoked keys -/
  revoked : Table Bool := []
  keyGone : Bool := false
  deriving DecidableEq, Repr

/-- Commands of the security engine (Table 21.8). -/
inductive SecOp where
  | attest | update | commit | lcreq | recover
  deriving DecidableEq, Repr

/-- The security engine: the command in progress, the running images (KIND 1 to 3: VERSION, SVN and BODYHASH) and the
report count. -/
structure Sec where
  op    : Option SecOp := none
  version : Table W32 := []
  svn   : Table Nat := []
  hash  : Table (List Byte) := []
  count : W32 := 0
  /-- the images have been verified since the last reset (R542) -/
  booted : Bool := false
  /-- an UPDATE waits for its dispatch pause: KIND and slot to switch to (R545) -/
  switch : Option (Nat × Nat) := none
  /-- an UPDATE is writing its slot: KIND, slot, bytes written, bytes left -/
  slot  : Option (Nat × Nat × Nat × List Byte) := none
  /-- TAMPER_N is held low with PINEN = 1 (R551) -/
  held  : Bool := false
  /-- RESP 2: the device holds itself in warm reset until PORST_N (R553) -/
  hold  : Bool := false
  /-- RESP 2: tick of the tamper event whose response has begun, and which the hold is to follow -/
  holdDue : Option Nat := none
  /-- a life-cycle transition that has been accepted: it waits for the jobs that it has ended (R548) -/
  move  : Option Nat := none
  deriving DecidableEq, Repr

/-- The power and clock controller, the thermal sensors and the telemetry (chapter 22, R408, R591). -/
structure Power where
  /-- PORST_N is low or a supply is out of range; SYSCLK is absent -/
  porst : Bool := false
  sysLost : Bool := false
  /-- operating point asked of the change in progress, and its own end point -/
  oppGoal : Nat := 2
  /-- limit that the thermal sensors set (R562) -/
  thermal : Nat := 2
  /-- THERM_N is driven low (R592) -/
  thermN : Bool := false
  /-- a calibration page that is being written: bytes written, bytes left (R578) -/
  calLeft : Option (Nat × List Byte) := none
  /-- dispatch is paused by the Monitor (R298) -/
  paused : Bool := false
  /-- records can no longer be written: a device error in the Racking Engine (R531) -/
  rkDead : Bool := false
  /-- a machine check is in the event log (R408) -/
  mcLogged : Bool := false
  /-- telemetry of Table 15.6 as last refreshed: hottest, hottest Left, hottest Right, power, VDD_CORE -/
  tHot  : Byte := 0x80
  tLeft : Byte := 0x80
  tRight : Byte := 0x80
  pkg   : W16 := 0xFFFF
  vdd   : W16 := 0xFFFF
  /-- health byte and life-cycle state as last refreshed -/
  seen  : Option (Byte × Byte) := none
  /-- the last SMBus answer: none is a NACK -/
  smb   : Option (List Byte) := none
  deriving DecidableEq, Repr

/-- TAP instructions (Table 24.1). -/
inductive TapOp where
  | extest | sample | idcode | pulse | train | dbgacc | bypass
  deriving DecidableEq, Repr

/-- An access of the debug port on its way (R602). -/
structure DbgAcc where
  addr : Nat
  size : Nat
  wr   : Bool
  data : W64
  deriving DecidableEq, Repr

/-- The test access port (R600 to R602). -/
structure Tap where
  op   : TapOp := .idcode
  /-- boundary register: 401 cells; the levels its output cells drive under EXTEST -/
  cells : BitVec 401 := 0
  driven : Option (BitVec 401) := none
  /-- TRST_N is driven high: the TAP is out of its reset (R589) -/
  trst : Bool := false
  acc  : Option DbgAcc := none
  data : W64 := 0
  resp : Resp := .ok
  deriving DecidableEq, Repr

end Sys2Proof.Machine
end

