-- ==== Sys2Proof/Machine/RecTime.lean ====
section
/-! DEFINITION. Records of the time resources: axes, pins, alarms and timers (chapters 02, 17 and 18). -/
namespace Sys2Proof.Machine

/-- AX_n_STAT.STATE (Table 2.17). -/
inductive AxState where
  | off | run | lost | lostIndex
  deriving DecidableEq, Repr

/-- The state of one axis source and of its interpolator (R45 to R62; the pseudocode of R59). -/
structure AxisCore where
  state   : AxState := .off
  /-- DIR: true is reverse. -/
  rev     : Bool := false
  stalled : Bool := false
  /-- position of the last accepted edge or frame, 48.16; of a software axis its value -/
  pos     : W64 := 0
  /-- value given to the Axis Bus, 48.16 -/
  disp    : W64 := 0
  /-- distance from pos to the next count -/
  step    : W64 := 0
  /-- filtered rate magnitude, 2^-32 count per tick -/
  rate    : W64 := 0
  /-- ticks since the last accepted edge, saturating at 0xFF_FFFF -/
  since   : Nat := 0
  /-- 0 none, 1 one edge, 2 two or more edges in this direction -/
  nedge   : Nat := 0
  /-- no edge accepted since the enable, a load or a LOST exit (R46) -/
  fresh   : Bool := true
  /-- ticks since the last accepted pulse edge, none before the first (R50) -/
  pulse   : Option Nat := none
  /-- an edge or frame was accepted in this tick (the `edge` argument of R59's tick) -/
  edge    : Bool := false
  /-- JUMP of this tick (Table 2.2) -/
  jump    : Bool := false
  /-- LOAD was applied in this stage: the value of the tick is this one (R65, Table 2.11) -/
  held    : Option W64 := none
  /-- an illegal quadrature transition fell in this tick (Table 2.11) -/
  illegal : Bool := false
  /-- the 16 hidden fraction bits of a software axis (R55) -/
  ext     : W16 := 0
  /-- the anchor (A, B_ref) of a derived axis (R56) -/
  anchor  : W64 := 0
  bref    : W64 := 0
  /-- a derived axis takes b_ref from the base value of its first tick (R56 at enable) -/
  reanchor : Bool := false
  zcap    : W64 := 0
  zerr    : W64 := 0
  edgecnt : W32 := 0
  /-- filtered input levels already decoded (IN0, IN1) and the qualified index level (R45, R48) -/
  in0     : Bool := false
  in1     : Bool := false
  zq      : Bool := false
  /-- last TSI sequence number (R53) -/
  seqNo   : Option Nat := none
  /-- ticks since the last accepted frame (R67) -/
  quiet   : Nat := 0
  /-- bits of a TSI frame received so far, and how many (R52) -/
  tsiBits : BitVec 90 := 0
  tsiCnt  : Nat := 0
  deriving DecidableEq, Repr

/-- One axis: its source state, and the source state at the start of the tick, to which a write of
EN = 0 returns it (R64, Table 2.11: the axis goes OFF first). -/
structure Axis where
  core : AxisCore := {}
  pre  : AxisCore := {}
  /-- AX_n_STAT and AX_n_ERRCNT at the start of the tick, to which a write of EN = 0 returns them too -/
  preStat : W64 := 0
  preErr  : W64 := 0
  /-- the bit of the axis in AX_EVT at the start of the tick -/
  preEvt  : Bool := false
  /-- the tick to which the next two belong: events of its stage have set these bits of AX_n_STAT (R8), and the loss of the axis in
  it has been reported -/
  marked  : Nat := 0
  hits    : W64 := 0
  told    : Bool := false
  /-- the source state before a LOAD of this stage: a frame of the same stage comes before it (Table 2.11) -/
  loadFrom : Option AxisCore := none
  /-- accepted VALUEs of a remote axis and the update stage, as a tick, in which each acts (R41, R512) -/
  frames : List (Nat × W64) := []
  /-- filtered levels of IN0, IN1 and IN2 (R44) -/
  f0   : Bool := false
  f1   : Bool := false
  f2   : Bool := false
  deriving DecidableEq, Repr

/-- What each die holds for itself: its AX0 counter and its DOZE state (R37, R70). -/
structure Die where
  ax0     : W64 := 0
  ax0jump : Bool := false
  doze    : Bool := false
  /-- the die woke from DOZE and has not evaluated its alarms since (R447) -/
  woke    : Bool := false
  /-- AX0 at entry, temperature samples taken in this DOZE and the sum of their corrections in ppb (R566) -/
  entryAx0 : W64 := 0
  samples : Nat := 0
  corr    : Int := 0
  /-- hottest sensor at entry, the sample of a DOZE shorter than 1 s -/
  entryT  : Byte := 0x80
  /-- SLOWTRIM, TCA and TCB as the DOZE began (R566, R578) -/
  slowtrim : Int := 0
  tca     : Int := 0
  tcb     : Int := 0
  deriving DecidableEq, Repr

/-- What the Axis Bus carries for one axis in one tick (Table 2.2). -/
structure BusVal where
  value : W64 := 0
  state : AxState := .off
  rev   : Bool := false
  jump  : Bool := false
  deriving DecidableEq, Repr

/-- AL_n_STAT.STATE (R443). -/
inductive AlState where
  | idle | active | done
  deriving DecidableEq, Repr

/-- A firing that the crossing test of this tick has found and that is not carried out yet (R446). -/
structure Firing where
  /-- true: the target was reached from below -/
  fwd  : Bool
  late : Bool
  /-- the observed value, AL_n_OBS -/
  obs  : W64
  deriving DecidableEq, Repr

/-- One alarm: the machine of R446 (the words of its register set are kept in the register file). -/
structure Alarm where
  state   : AlState := .idle
  armf    : Bool := false
  armb    : Bool := false
  held    : Bool := false
  first   : Bool := false
  pend    : Bool := false
  k       : W64 := 0
  next    : W64 := 0
  obs     : W64 := 0
  mark    : Option Firing := none
  deriving DecidableEq, Repr

/-- The seven actions of Table 17.3. -/
inductive ActKind where
  | ring | pin | timer | egress | core | stamp | poll
  deriving DecidableEq, Repr

/-- An action of a firing on its way to its target (R449), with the words that the firing used (R445). -/
structure Action where
  due   : Nat
  alarm : Nat
  kind  : ActKind
  stamp : W64
  axis  : Nat
  k     : W64
  /-- AL_n_ROUTE, AL_n_PIN, AL_n_CORE or AL_n_SLOG of the firing tick -/
  word  : W32
  /-- AL_n_SBASE of the firing tick -/
  base  : W64
  /-- a core action has acted on its own die, and waits for the bridge (R530) -/
  near  : Bool := false
  deriving DecidableEq, Repr

/-- One general timer: the native machine of R465 and the compatibility machine of R479. -/
structure Timer where
  run      : Bool := false
  /-- DIR: true is down (of an up-down timer) -/
  down     : Bool := false
  gatel    : Bool := true
  oc0      : Bool := false
  oc1      : Bool := false
  /-- STAT.NEW -/
  new      : Bool := false
  latepend : Bool := false
  cnt      : W32 := 0
  pscnt    : Nat := 0
  /-- prescaler, period and compare values in force (R466) -/
  pscA     : W32 := 0
  perA     : W32 := 0
  cmp0A    : W32 := 0
  cmp1A    : W32 := 0
  /-- a timer tick is due and not carried out yet -/
  tickDue  : Bool := false
  /-- an update event is due and not carried out yet; the flag says late -/
  uevDue   : Option Bool := none
  /-- CAPR, once a first edge came since CAPEN was set (R474) -/
  capr     : Option W32 := none
  capPair  : W64 := 0
  /-- level of the trigger input (R472) -/
  trgi     : Bool := false
  /-- a TRGO event of the timer named by TRGSEL arrives in the next TMRCLK cycle -/
  trgPend  : Bool := false
  /-- a TRGO event of this TMRCLK cycle, which arrives in the next one; TRGO as a level at the end of the last one (R472) -/
  trgNext  : Bool := false
  trgoAt   : Bool := false
  /-- the trigger input of this cycle has been taken, and whether it leaves the cycle without a source event (R465) -/
  taken    : Option Bool := none
  /-- filtered levels in force of CLKPIN, of the pin TRGSEL and of CAPPIN (R464) -/
  clkLvl   : Bool := false
  trgLvl   : Bool := false
  capLvl   : Bool := false
  /-- accepted edges that have not been delivered: of CLKPIN, of the kind CLKEDGE selects; a rise of the trigger input; of
  CAPPIN, oldest first, true for a rising one -/
  clkEdges : Nat := 0
  trgRise  : Bool := false
  capDue   : List Bool := []
  /-- the same of the edges that wait for the next TMRCLK cycle, and the level of the pin TRGSEL that this cycle has received (R464) -/
  clkNext  : Nat := 0
  riseNext : Bool := false
  capNext  : List Bool := []
  trgIn    : Bool := false
  /-- integer part of the clocking axis in the previous cycle (R462) -/
  lastAx   : W64 := 0
  /-- compatibility machine: SYSCLK cycles since the last count, a count that was written, a capture edge that is due -/
  k5psc    : Nat := 0
  k5next   : Option W32 := none
  k5cap    : Bool := false
  /-- count, wrap and match not carried out yet, compare output -/
  k5cnt    : W32 := 0
  k5wrap   : Bool := false
  k5match  : Bool := false
  k5out    : Bool := false
  /-- flags of K5_n_STS set during DOZE, whose interrupts wait for the wake -/
  k5late   : BitVec 3 := 0
  deriving DecidableEq, Repr

end Sys2Proof.Machine
end

