-- ==== Sys2Proof/Machine/RecVgl.lean ====
section
/-! DEFINITION. Records of the Vangoak Link (chapter 19): ports, flits, messages and egress channels. -/
namespace Sys2Proof.Machine

/-- LSTATE (Table 19.2). -/
inductive LState where
  | down | eq | align | config | up
  deriving DecidableEq, Repr

/-- A DATA flit without the fields that are filled in as it leaves (Table 19.3). -/
structure Flit where
  vc  : Nat
  som : Bool
  eom : Bool
  payload : List Byte
  /-- egress channel whose frame it belongs to -/
  chan : Option Nat := none
  /-- a LINK_MGMT message takes no credit (R498) -/
  mgmt : Bool := false
  /-- TIME_SYNC: its instants are filled in at departure (R509); the axis of a VALUE -/
  sync : Option Nat := none
  deriving DecidableEq, Repr

/-- A flit in the replay buffer (R493, R496). -/
structure Held where
  sq   : Nat
  flit : Flit
  replays : Nat := 0
  deriving DecidableEq, Repr

/-- What ingest has decided for a message (R502). -/
inductive Fate where
  | open
  /-- channel, address of the slot, header bytes to skip -/
  | place (chan slot hdr : Nat)
  | drop
  deriving DecidableEq, Repr

/-- A message being received on a virtual channel. -/
structure RxMsg where
  bytes : List Byte
  /-- its last flit has come -/
  whole : Bool
  /-- a flit of it had RPL = 1 (R511) -/
  rpl   : Bool := false
  /-- AX0 at the arrival of its first flit (R509), and the tick -/
  arrived : W64 := 0
  at_   : Nat := 0
  fate  : Fate := .open
  /-- body bytes written so far -/
  placed : Nat := 0
  /-- first and end byte in the message of each flit whose buffer space is not free yet (R498) -/
  flits : List (Nat × Nat)
  deriving DecidableEq, Repr

/-- One VGL port. -/
structure Port where
  ls     : LState := .down
  /-- rate in force is 56 Gbit/s -/
  slow   : Bool := false
  /-- consecutive failed attempts, and the port waits 100 µs after a failure (R488) -/
  fails  : Nat := 0
  hold   : Bool := false
  fark   : Bool := false
  /-- CONFIG: an ADVERT came; numbers of our own that are not acknowledged; one of ours has been -/
  advIn  : Bool := false
  advSeq : List Nat := []
  advOk  : Bool := false
  /-- credits of the far end's last ADVERT, and credits held (R498) -/
  adv    : Table Nat := []
  cred   : Table Nat := []
  /-- sender -/
  sq     : Nat := 0
  held   : List Held := []
  /-- sequence numbers still to be sent again -/
  replay : List Nat := []
  nak    : Bool := false
  /-- messages waiting to be sent, by VC -/
  txq    : Table (List Flit) := []
  /-- receiver: E, whether a DATA flit came since UP, and a NAK has been sent and E has not come -/
  expect : Nat := 0
  any    : Bool := false
  /-- place of the next flit in its pair of codewords, and the codeword decoded last was uncorrectable (R487) -/
  rxAt   : Nat := 0
  rxLost : Bool := false
  nakked : Bool := false
  rx     : Table (List RxMsg) := []
  /-- buffer space freed, and credits to be returned by CCNT, by VC -/
  freed  : Table Nat := []
  ccnt   : Table Nat := []
  /-- one-way delay and TA of the last PING (R511) -/
  delay  : Option W64 := none
  ping   : Option W64 := none
  /-- TA of a PING to be answered, and its arrival -/
  pong   : List (W64 × W64) := []
  /-- the last flit sent, 256 bytes -/
  sent   : List Byte := []
  /-- transmitter (R486): starts of codeword transmission, counter of the next pair, whether its first marker is 0x155, bytes of
  the flits that do not fill a pair yet, and the two codewords sent last, symbol 0 first -/
  starts : Nat := 0
  cw     : Nat := 0
  odd    : Bool := false
  fill   : List Byte := []
  code   : List (List (BitVec 10)) := []
  /-- tick of the last undamaged flit, of the last change of ACK, of the last HEARTBEAT -/
  heard  : Nat := 0
  moved  : Nat := 0
  beat   : Nat := 0
  deriving DecidableEq, Repr

/-- A started EGRESS or INGEST descriptor whose words wait for their channel: its ring, its SEQ and its bytes. -/
structure Owed where
  ring  : Nat
  seqNo : W32
  bytes : List Byte
  deriving DecidableEq, Repr

/-- The frame of an egress channel (R505). -/
inductive EgState where
  | free | reading | sending
  deriving DecidableEq, Repr

structure Egress where
  state : EgState := .free
  stamp : W64 := 0
  /-- the window words that the frame is made under (R508) -/
  port  : Nat := 0
  vc    : Nat := 0
  sid   : Nat := 0
  len   : Nat := 0
  src   : Nat := 0
  /-- bytes read so far, and a read of the frame returned an error (R505, R506) -/
  got   : List Byte := []
  bad   : Bool := false
  /-- its port went down while it was read: it is not sent (R489) -/
  lost  : Bool := false
  /-- descriptors whose words wait for the channel (R508) -/
  owed  : List Owed := []
  deriving DecidableEq, Repr

/-- The ingest side of a channel: slot index of the message placed last (R503). -/
structure Ingest where
  last : Option Int := none
  /-- as for an egress channel -/
  owed : List Owed := []
  deriving DecidableEq, Repr

end Sys2Proof.Machine
end

