-- ==== Sys2Proof/Machine/State.lean ====
section
/-! DEFINITION. The state of the K7820, plain data, with its value after the release of PORST_N, and the ways in which a
command can stop.  Every numbered resource is a sparse table: a number it does not list is in its initial state. -/
namespace Sys2Proof.Machine

/-- Faults.  The spec names no command that stops the device: an access to an address without a target is answered by
the default target (R354), so there is nothing to raise here. -/
inductive Fault where
  deriving DecidableEq, Repr

/-- Refusals. -/
inductive Refusal where
  /-- Raised by Dispatch alone, for a row of the table that has no meaning yet.  Safe: the model stops. -/
  | notModelled (mnemonic : String)
  deriving DecidableEq, Repr

structure State where
  /-- set-up registers whose value differs from reset, by control-space offset (Table 0.5) -/
  regs    : Table W64 := []
  /-- staging latches of the low halves of 64-bit registers (R13), by offset -/
  stage   : Table (Option W32) := []
  /-- read snapshots of the high halves (R16), by offset of the register -/
  snap    : Table (Option W32) := []
  /-- answer of the last read command -/
  readData : W64 := 0
  resp    : Resp := .ok
  readBytes : List Byte := []
  /-- AXCLK ticks and CCLK cycles since reset (R38, CYCLE) -/
  tick    : Nat := 0
  cclk    : Nat := 0
  dies    : Table Die := []
  axes    : Table Axis := []
  /-- Axis Bus as launched in the last tick, and the launches still on their way (R41) -/
  bus     : Table BusVal := []
  busLine : List (Table BusVal) := []
  /-- samples of the 80 timing inputs, newest first; ticks for which an LV pair has been open (R586) -/
  pinHist : List (BitVec 80) := []
  lvOpen  : Table Nat := []
  /-- input pairs that were open in the same ticks, newest first: they read 1 after INV (R586) -/
  openHist : List (BitVec 80) := []
  /-- alarm latches of the pins, and the tick in which a running pulse ends (R450) -/
  latch   : BitVec 80 := 0
  pulses  : Table Nat := []
  alarms  : Table Alarm := []
  actions : List Action := []
  /-- answers to stamp record writes that are on their way back (R453) -/
  stampAns : List (Nat × Resp) := []
  timers  : Table Timer := []
  /-- what timers drive onto pins with FUNC = 2, in the last ticks, newest first: it reaches the pad 8 ns later (R471) -/
  ocLine  : List (BitVec 128) := []
  cores   : Table Core := []
  /-- events on their way (R162): the core that an event is for, and the core that sent it -/
  events  : List (Nat × Nat) := []
  /-- interrupt raises of timers for cores of the other die that wait for the die bridge: core, source, die (Table 14.7) -/
  raises  : List (Nat × Nat × Nat) := []
  /-- user area of the control stores (R274, R297) -/
  ustore  : Table (BitVec 160) := []
  /-- body of the signed microcode image from which the other areas and the table stores were filled (R273, R274), and the
  patch map that it gave: mapped address and patch word (R300) -/
  mcImage : List Byte := []
  patches : List (Nat × Nat) := []
  /-- bytes of the Cellar, HBM, MRAM and the Vaults by device address -/
  mem     : List Host.Cell := []
  /-- 8-byte words that hold an uncorrectable error (R338, R360) -/
  poison  : Table Bool := []
  bays    : Table Bay := []
  /-- corrected codewords of a DRAM row since its repair, rows repaired softly, next row to refresh of a bank -/
  hbmRows : Table Nat := []
  hbmSoft : Table Bool := []
  /-- rows repaired for good in the stacks: no reset undoes it (R366) -/
  hbmHard : Table Bool := []
  refresh : Table Nat := []
  scrubPos : Table Nat := []
  /-- arbiters by place (Table 14.2), ports by master (Table 14.1) -/
  arbiters : Table Arbiter := []
  trPorts : Table TrPort := []
  /-- tokens of the rate limiters in units of 1/256, by 16 m + t (R379) -/
  buckets : Table Nat := []
  bridges : Table Bridge := []
  link    : Link := {}
  msix    : Table MsixEntry := []
  pba     : Table Bool := []
  /-- messages requested and not handled yet, oldest first (R402) -/
  msixReq : List MsixMsg := []
  rings   : Table Ring := []
  engines : Table Engine := []
  poll    : Poll := {}
  /-- group words as last read, and groups marked by an enable (R411, R415) -/
  groupSeen : Table W64 := []
  marks   : Table Bool := []
  jobs    : Table Job := []
  /-- object descriptors of rings since reset whose words wait for the die bridge: ring, descriptor (R26, R438) -/
  objLate : List (Nat × Started) := []
  ports   : Table Port := []
  ingests : Table Ingest := []
  egresses : Table Egress := []
  rows    : Table Row := []
  /-- core errors of each physical slot, and GLB_RAS_ROWr as recorded in MRAM (R523, R524) -/
  slotErrs : Table Nat := []
  retired : Table W64 := []
  reports : List Report := []
  otp     : Otp := {}
  sec     : Sec := {}
  power   : Power := {}
  tap     : Tap := {}
  /-- trace entries written in the TCLK named, in their order (R610) -/
  traced  : (Nat × Nat) × List (W64 × W64) := ((0, 0), [])
  /-- bits of event registers, by offset, that writes have cleared in the TCLK named (R532) -/
  evtClr  : (Nat × Nat) × Table W64 := ((0, 0), [])
  /-- trace entries written since TRCTL.EN was last set -/
  traceCnt : Nat := 0
  /-- commands that wait, first in, first out -/
  pending : List Instr := []
  deriving DecidableEq, Repr

/-- The device at the release of PORST_N (R571): every register at its reset value, every memory zero, nothing in
flight. (DESIGN CHOICE, log entry 2.) -/
def State.reset : State := {}

end Sys2Proof.Machine
end

