-- ==== Sys2Proof/Machine/Ops.lean ====
section
/-! DEFINITION. The named operations over the tables, registers and memory of the device; every meaning
reads and writes State through them. -/
namespace Sys2Proof.Machine

/-! Bit fields. -/

/-- Bits [lo + len − 1 : lo] of a word. -/
def fld {w : Nat} (x : BitVec w) (lo len : Nat) : Nat := (x.toNat >>> lo) % 2 ^ len
def bit {w : Nat} (x : BitVec w) (i : Nat) : Bool := x.getLsbD i
/-- The mask of bits [lo + len − 1 : lo]. -/
def maskAt (w lo len : Nat) : BitVec w := BitVec.ofNat w ((2 ^ len - 1) <<< lo)
def putFld {w : Nat} (x : BitVec w) (lo len v : Nat) : BitVec w :=
  (x &&& ~~~ (maskAt w lo len)) ||| BitVec.ofNat w ((v % 2 ^ len) <<< lo)
def setBit {w : Nat} (x : BitVec w) (i : Nat) (b : Bool) : BitVec w := putFld x i 1 b.toNat
def natBit (n i : Nat) : Bool := n.testBit i
/-- The signed difference a − b by which axis values are compared (R36). -/
def sdiff (a b : W64) : Int := (a - b).toInt
def w64 (n : Nat) : W64 := BitVec.ofNat 64 n
def w32 (n : Nat) : W32 := BitVec.ofNat 32 n
def iw64 (i : Int) : W64 := BitVec.ofInt 64 i

/-! Sparse tables. -/

/-- The entry numbered k, or `d` where k is not listed. -/
def tget {α : Type} (d : α) : Table α → Nat → α
  | [], _ => d
  | (j, v) :: r, k => if j = k then v else tget d r k

/-- The table with an entry put before the first one that has a larger number. -/
def tins {α : Type} : Table α → Nat → α → Table α
  | [], k, v => [(k, v)]
  | (j, w) :: r, k, v => if k < j then (k, v) :: (j, w) :: r else (j, w) :: tins r k v

/-- The table without the entry numbered k. -/
def tdel {α : Type} : Table α → Nat → Table α
  | [], _ => []
  | (j, w) :: r, k => if j = k then tdel r k else (j, w) :: tdel r k

/-- The table with v at k; an entry equal to `d` is not listed. -/
def tset {α : Type} [DecidableEq α] (d : α) (t : Table α) (k : Nat) (v : α) : Table α :=
  if v = d then tdel t k else tins (tdel t k) k v

/-- The numbers a table lists. -/
def tkeys {α : Type} (t : Table α) : List Nat := t.map (·.1)

/-! Masters (Table 14.1) and paths (Table 14.3). -/

def mRk0 : Nat := 8
def mRk1 : Nat := 9
def mCellarer : Nat := 14
def mDebug : Nat := 15
/-- A path from master m to target t is present; a row reaches its own slice over the row crossbar. -/
def hasPath (m t : Nat) : Bool :=
  if t = 14 then true
  else if m < 8 then t < 14
  else if m = mRk0 then t < 9
  else if m = mRk1 then t < 10
  else if m < 14 then t < 8
  else t < 14

/-- A path that crosses the Trellis: a row reaches its own slice over its crossbar (Table 14.3). -/
def trellisPath (m t : Nat) : Bool := hasPath m t && !(m < 8 && t == m)

/-- Reset value of TR_PRIO_m_k, i = 2 m + k (Table 14.10). -/
def prioReset (i : Nat) : W64 :=
  let m := i / 2
  let p := if m < 9 then 8 else if m = mRk1 ∨ m = mCellarer then 10 else if m = mDebug then 4 else 12
  (List.range 8).foldl (fun w j =>
    let t := 8 * (i % 2) + j
    if t < 15 && trellisPath m t then w ||| w64 (p <<< (4 * j)) else w) 0

/-! Set-up registers. -/

/-- Control-space offset of register i of the name r (R18). -/
def regOff (r : RegName) (i : Nat) : Nat :=
  let w := regRow r
  w.base + i / w.count * w.bankStride + i % w.count * w.stride

/-- The reset value of register i of the name r. -/
def regReset (r : RegName) (i : Nat) : W64 :=
  match r with
  | .axCfg => if i = 0 then 0x251 else w64 (regRow r).reset       -- AX0 is RO, EN and MODE 8 (R38)
  | .axPin => if i % 40 < 32 then 0 else w64 (regRow r).reset     -- TERM reads 0 on TP pins (Table 2.18)
  | .trPrio => prioReset i
  | _ => w64 (regRow r).reset

def regGet (s : State) (r : RegName) (i : Nat) : W64 := tget (regReset r i) s.regs (regOff r i)
def regPut (s : State) (r : RegName) (i : Nat) (v : W64) : State :=
  { s with regs := tset (regReset r i) s.regs (regOff r i) v }
/-- A 32-bit register. -/
def regGet32 (s : State) (r : RegName) (i : Nat) : W32 := (regGet s r i).setWidth 32
/-- The TCLK that the core clock has reached, at the operating point in force (R28), with the tick: two events that agree in
both fall in one TCLK. (DEDUCED, log entry 164.) -/
def tclkNow (s : State) : Nat × Nat := (s.tick, s.cclk * 2 / (2 + fld (regGet s .pwrOpp 0) 4 2))

/-- An event register that reports to the Monitor: its source number (Table 20.5), which is a free value for PWR, and its
enables. -/
def evtSource (r : RegName) : Option (Nat × RegName) :=
  match r with
  | .axEvt => some (1, .axEvten)
  | .alEvt => some (2, .alEvten)
  | .celEvt => some (3, .celEvten)
  | .hbmEvt => some (4, .hbmEvten)
  | .trEvt => some (5, .trEvten)
  | .rkEvt => some (6, .rkEvten)
  | .tmrEvt => some (7, .tmrEvten)
  | .vglEvt => some (8, .vglEvten)
  | .glbHlEvt => some (9, .glbHlEvten)
  | .pwrEvt => some (Config.pwrSource.toNat, .pwrEvten)
  | _ => none

/-- SEV of a block event (Table 20.5). -/
def evtSev (r : RegName) (b : Nat) : Nat :=
  match r with
  | .axEvt => 2
  | .celEvt => if b < 16 then 2 else 1
  | .hbmEvt => if b < 4 ∨ 12 ≤ b then 2 else 1
  | .trEvt => if b = 4 then 2 else 1
  | .vglEvt => if b < 16 then 2 else 1
  | _ => 1

/-- The stack or the port that the code of a block event names, and 0xFF where it names none (Tables 13.7, 19.12 and 20.4). -/
def evtUnit (r : RegName) (b : Nat) : Nat :=
  match r with
  | .hbmEvt => if b < 16 then b % 4 else 0xFF
  | .vglEvt => if b < 24 then b % 8 else 0xFF
  | _ => 0xFF

/-- Bits of the event register at an offset that a write has cleared in this TCLK (R532). -/
def clearedNow (s : State) (off : Nat) : W64 := if s.evtClr.1 = tclkNow s then tget 0 s.evtClr.2 off else 0
/-- A write clears bits of an event register: their next rise in this TCLK is no change from 0 to 1. (DEDUCED, log entry 164.) -/
def markCleared (s : State) (off : Nat) (m : W64) : State :=
  let t := if s.evtClr.1 = tclkNow s then s.evtClr.2 else []
  { s with evtClr := (tclkNow s, tset 0 t off (clearedNow s off ||| m)) }

/-- The reports of the bits of an event register that change from 0 to 1 (R532), in ascending order; a bit that is set again in
the TCLK of the write that cleared it reports nothing. (DEDUCED, log entry 99.) -/
def evtReports (s : State) (r : RegName) (i : Nat) (old new : W64) : List Report :=
  match evtSource r with
  | none => []
  | some (src, en) =>
    let rise := new &&& ~~~ old &&& regGet s en i &&& ~~~ clearedNow s (regOff r i)
    ((List.range 32).filter (bit rise)).map (fun b =>
      { src, code := b, sev := evtSev r b, unit := evtUnit r b, info0 := if r = .axEvt ∨ r = .alEvt then w64 i else 0, info1 := new })

/-- A hardware event sets status bits; a block event is reported (R532). -/
def regSetBits (s : State) (r : RegName) (i : Nat) (m : W64) : State :=
  let old := regGet s r i
  regPut { s with reports := s.reports ++ evtReports s r i old (old ||| m) } r i (old ||| m)
def regClrBits (s : State) (r : RegName) (i : Nat) (m : W64) : State := regPut s r i (regGet s r i &&& ~~~ m)

/-- A saturating counter register gains n. -/
def regCount (s : State) (r : RegName) (i n : Nat) : State :=
  regPut s r i (w64 (min ((regGet s r i).toNat + n) m32))

/-- The bits of a register's RW fields that a write of v changes: a field that is given a reserved
encoding keeps its value (R11). -/
def rwMask (w : RegRow) (v : W64) : W64 :=
  w.resv.foldl (fun m (lo, len, a, b) =>
    if a ≤ fld v lo len ∧ fld v lo len ≤ b then m &&& ~~~ (maskAt 64 lo len) else m) (w64 w.rw)

/-- The value of a register after a committed write: RW fields take the written value, a 1 clears a W1C bit,
every other bit keeps its value (R7, R10, R11). -/
def regMerge (w : RegRow) (old v : W64) : W64 :=
  let m := rwMask w v
  ((old &&& ~~~ m) ||| (v &&& m)) &&& ~~~ (v &&& w64 w.w1c)

/-- A committed write to a register that has no action of its own. -/
def regCommit (s : State) (r : RegName) (i : Nat) (v : W64) : State :=
  let gone := regGet s r i &&& v &&& w64 (regRow r).w1c
  regPut (if (evtSource r).isSome && gone != 0 then markCleared s (regOff r i) gone else s) r i (regMerge (regRow r) (regGet s r i) v)

/-- A read of a counter of type RC returns it and clears it (R7, R9). -/
def rcRead (s : State) (r : RegName) (i : Nat) : State :=
  { regPut s r i 0 with readData := regGet s r i }

/-! Records of the numbered resources. -/

def State.die (s : State) (d : Nat) : Die := tget {} s.dies d
def State.setDie (s : State) (d : Nat) (x : Die) : State := { s with dies := tset {} s.dies d x }
def State.axis (s : State) (n : Nat) : Axis := tget {} s.axes n
def State.setAxis (s : State) (n : Nat) (x : Axis) : State := { s with axes := tset {} s.axes n x }
def State.alarm (s : State) (n : Nat) : Alarm := tget {} s.alarms n
def State.setAlarm (s : State) (n : Nat) (x : Alarm) : State := { s with alarms := tset {} s.alarms n x }
def State.timer (s : State) (n : Nat) : Timer := tget {} s.timers n
def State.setTimer (s : State) (n : Nat) (x : Timer) : State := { s with timers := tset {} s.timers n x }

/-- The logical cores named by a row mask and a slot mask (Table 16.5): logical core n is slot n mod 8 of row n / 8 (R30). -/
def coreSet (rows slots : Nat) : List Nat :=
  (List.range 64).filter (fun n => natBit rows (n / 8) && natBit slots (n % 8))

/-- An interrupt source raises its pending bit on a logical core; a second raise is merged (R315). -/
def raiseIrq (s : State) (core src : Nat) : State := regSetBits s .rowIpend core (w64 (1 <<< src))

/-! What crosses the die bridge in class SB (Table 14.7): alarm actions for the other die, which R449 delivers in a fixed tick,
have their credits first, then owner and power updates of the Right Bank's bays, then events, then interrupt raises. -/

/-- A stopped direction of the bridge holds every request that crosses and every response (R384, R530). -/
def bridgeDown (s : State) : Bool := s.bridges.any (fun b => b.2.stopped)
/-- An alarm's action reaches the other die: the Racking Engine's lie on the Left Bank (R449). -/
def actFar (a : Action) : Bool :=
  let d := a.alarm / 1024
  match a.kind with
  | .ring | .stamp | .poll => d != 0
  | .egress => fld a.word 16 8 / 128 != d
  | .core => (coreSet (fld a.word 0 8) (fld a.word 8 8)).any (fun k => k / 32 != d)
  | .pin | .timer => false
def sbActions (s : State) (d : Nat) : Nat := (s.actions.filter (fun a => a.alarm / 1024 == d && actFar a)).length
/-- Owner and power updates on their way to the bays from 32 to b - 1. -/
def sbUpdates (s : State) (b : Nat) : Nat :=
  ((s.bays.filter (fun x => decide (32 ≤ x.1) && decide (x.1 < b))).map (fun x => x.2.coming.length + x.2.busy.toNat)).sum
/-- Credits of the direction that leaves die d which actions and updates leave to events and interrupt raises. -/
def sbLeft (s : State) (d : Nat) : Nat := 64 - (sbActions s d + if d = 0 then sbUpdates s 64 else 0)
/-- The update of a bay of the Right Bank waits for the die bridge: it is stopped, or older traffic has its credits. -/
def updateWaits (s : State) (b : Nat) : Bool :=
  decide (32 ≤ b) && (bridgeDown s || decide (64 ≤ sbActions s 0 + sbUpdates s b))
/-- Events that cross from die d, oldest first. -/
def sbEvents (s : State) (d : Nat) : List (Nat × Nat) := s.events.filter (fun e => e.2 / 32 == d && e.1 / 32 != d)
/-- An interrupt raise from die d gets over now: it stays on its die, or it finds a credit, which it gives back on arrival. -/
def raisePasses (s : State) (core d : Nat) : Bool :=
  core / 32 == d || (!bridgeDown s && decide ((sbEvents s d).length < sbLeft s d))
/-- An interrupt raise of a unit of die d, which waits where the bridge does not take it. -/
def raiseFrom (s : State) (d core src : Nat) : State :=
  if raisePasses s core d then raiseIrq s core src else { s with raises := s.raises ++ [(core, src, d)] }
/-- The raises that wait go over the bridge. -/
def raisesFlush (s : State) : State :=
  s.raises.foldl (fun s x => raiseFrom s x.2.2 x.1 x.2.1) { s with raises := [] }

def State.core (s : State) (n : Nat) : Core := tget {} s.cores n
def State.setCore (s : State) (n : Nat) (c : Core) : State := { s with cores := tset {} s.cores n c }
def State.job (s : State) (j : Nat) : Job := tget {} s.jobs j
def State.setJob (s : State) (j : Nat) (x : Job) : State := { s with jobs := tset {} s.jobs j x }
def State.ring (s : State) (r : Nat) : Ring := tget {} s.rings r
def State.setRing (s : State) (r : Nat) (x : Ring) : State := { s with rings := tset {} s.rings r x }
def State.engine (s : State) (e : Nat) : Engine := tget {} s.engines e
def State.setEngine (s : State) (e : Nat) (x : Engine) : State := { s with engines := tset {} s.engines e x }
def State.port (s : State) (p : Nat) : Port := tget {} s.ports p
def State.setPort (s : State) (p : Nat) (x : Port) : State := { s with ports := tset {} s.ports p x }
def State.row (s : State) (r : Nat) : Row := tget {} s.rows r
def State.setRow (s : State) (r : Nat) (x : Row) : State := { s with rows := tset {} s.rows r x }

/-- One or more cores of the die are in debug halt (R476). -/
def dieHalted (s : State) (die : Nat) : Bool := s.cores.any (fun c => c.1 / 32 == die && c.2.halted)

/-! The event trace (R610). -/

/-- Place of a trace entry among those of its TCLK: CLS, then UNIT. -/
def traceKey (e : W64 × W64) : Nat := fld e.2 0 8 * 2 ^ 16 + fld e.2 16 16
def traceIn (e : W64 × W64) (l : List (W64 × W64)) : List (W64 × W64) :=
  l.filter (fun x => decide (traceKey x ≤ traceKey e)) ++ e :: l.filter (fun x => decide (traceKey e < traceKey x))
/-- Entries are written from entry number e on; entry e goes to slot e mod 4,096. -/
def tracePut (s : State) (e : Nat) : List (W64 × W64) → State
  | [] => s
  | (a, b) :: l =>
    let slot := e % 2 ^ 32 % 4096
    tracePut (regPut (regPut s .dbgTrbuf (2 * slot) a) .dbgTrbuf (2 * slot + 1) b) (e + 1) l

/-- A device event adds a trace entry while its class is enabled (R610).  The buffer takes 2 entries of one TCLK, in the order
of CLS and UNIT; of three, the last in that order is dropped and counted. (DEDUCED, log entry 103.) -/
def trace (s : State) (cls code unit : Nat) (info : W32) : State :=
  let ctl := regGet s .dbgTrctl 0
  if !(bit ctl 0 && bit ctl (8 + cls)) then s
  else
    let l := if s.traced.1 = tclkNow s then s.traced.2 else []
    let new := (traceIn ((s.die 0).ax0, w64 (cls + code * 256 + unit * 65536 + info.toNat * 2 ^ 32)) l).take 2
    let next := (regGet s .dbgTrnext 0).toNat
    let s := tracePut { s with traced := (tclkNow s, new) } (next + 2 ^ 32 - l.length) new
    if l.length = 2 then regCount s .dbgTrdrop 0 1
    else
      let s := regPut s .dbgTrnext 0 (w64 ((next + 1) % 2 ^ 32))
      let ctl' := if bit ctl 1 && decide (4096 ≤ s.traceCnt + 1) then setBit ctl 0 false else ctl
      regPut { s with traceCnt := s.traceCnt + 1 } .dbgTrctl 0 ctl'

/-- Fold a state change over a list of numbers. -/
def foldS (l : List Nat) (f : Nat → State → State) (s : State) : State := l.foldl (fun s n => f n s) s

end Sys2Proof.Machine
end

