-- ==== Sys2Proof/Machine/Mem.lean ====
section
/-! DEFINITION. The device address map and its memories (chapters 12 and 13): the Cellar with ownership, power and
check bits, HBM, MRAM, the Vaults, the boot ROM and the default target. -/
namespace Sys2Proof.Machine

/-! Bytes.  Memory lists (device address, byte) pairs with rising addresses; an unlisted byte reads 0, and 0 is
never listed (the Cellar after PORST_N, R349, and HBM after training, R367). -/

def cellGet : List Host.Cell → Nat → Byte
  | [], _ => 0
  | (j, v) :: r, k => if j = k then v else cellGet r k

def cellPut (m : List Host.Cell) (k : Nat) (v : Byte) : List Host.Cell := tset 0 m k v

/-- Addresses from `lo` on, strictly rising, no byte 0: the canonical form. -/
def cellsFrom : Nat → List Host.Cell → Bool
  | _, [] => true
  | lo, (j, v) :: r => decide (lo ≤ j) && decide (v ≠ 0) && cellsFrom (j + 1) r

def Memory.wf (m : List Host.Cell) : Bool := cellsFrom 0 m

def bytesGet (m : List Host.Cell) (a n : Nat) : List Byte := (List.range n).map (fun i => cellGet m (a + i))
def bytesPut (m : List Host.Cell) (a : Nat) : List Byte → List Host.Cell
  | [] => m
  | b :: r => bytesPut (cellPut m a b) (a + 1) r
/-- Every byte of [lo, hi) becomes 0. -/
def bytesClear (m : List Host.Cell) (lo hi : Nat) : List Host.Cell := m.filter (fun c => !(lo ≤ c.1 && c.1 < hi))

/-- Little-endian value of a list of bytes. -/
def leNat : List Byte → Nat
  | [] => 0
  | b :: r => b.toNat + 256 * leNat r
def leBytes (n : Nat) : Nat → List Byte
  | 0 => []
  | k + 1 => BitVec.ofNat 8 n :: leBytes (n / 256) k
def zeroBytes (n : Nat) : List Byte := List.replicate n 0

/-! The address map (Table 13.1). -/

inductive Target where
  | cellar | control | mram | vault (die : Nat) | rom | hbm | none
  deriving DecidableEq, Repr

def hbmBase : Nat := 0x001000000000
/-- The HBM range or half that holds an address is ready and awake (R364, R368). -/
def hbmReady (s : State) (a : Nat) : Bool :=
  let st := regGet s .hbmStat 0
  let hi := decide (hbmBase + 0xC00000000 ≤ a)
  if bit st 3 then (if hi then bit st 2 && !(s.die 1).doze else bit st 1 && !(s.die 0).doze)
  else bit st 1 && !(s.die 0).doze && !(s.die 1).doze

/-- HBM_STAT as read: a range or half whose die dozes is not ready (R364, Table 13.6). -/
def hbmStatRead (s : State) : W64 :=
  let st := regGet s .hbmStat 0
  setBit (setBit st 1 (hbmReady s hbmBase)) 2 (hbmReady s (hbmBase + 0xC00000000))

/-- The target that serves an address (R353). -/
def target (s : State) (a : Nat) : Target :=
  if a < 0x10000000 then .cellar
  else if 0xF0000000 ≤ a ∧ a < 0xF4000000 then .control
  else if 0xF8000000 ≤ a ∧ a < 0xF9000000 then .mram
  else if 0xFA000000 ≤ a ∧ a < 0xFA100000 then .vault 0
  else if 0xFA100000 ≤ a ∧ a < 0xFA200000 then .vault 1
  else if 0xFC000000 ≤ a ∧ a < 0xFC010000 then .rom
  else if hbmBase ≤ a ∧ a < 0x002800000000 then (if hbmReady s a then .hbm else .none)
  else .none

/-- Trellis number of a target (Table 14.2). -/
def targetNo (a : Nat) : Target → Nat
  | .cellar => a / 2 ^ 25
  | .hbm => 8
  | .control => 9
  | .mram => 10
  | .vault d => 11 + d
  | .rom => 13
  | .none => 14

/-! Pseudo-channels and stacks of HBM (R357, R358). -/

/-- XOR of g and its right shifts by k, 2k, 3k and 4k (R357). -/
def hbmHash (g k : Nat) : Nat := g ^^^ (g >>> k) ^^^ (g >>> (2 * k)) ^^^ (g >>> (3 * k)) ^^^ (g >>> (4 * k))
/-- Pseudo-channel and PC-local granule of an offset (R357, R358). -/
def hbmPlace (off : Nat) (split : Bool) : Nat × Nat :=
  if split then
    let half := if 0xC00000000 ≤ off then 1 else 0
    let g := (off - half * 0xC00000000) / 256
    (hbmHash g 6 % 64 + 64 * half, g / 64)
  else
    let g := off / 256
    (hbmHash g 7 % 128, g / 128)
def hbmSplit (s : State) : Bool := bit (regGet s .hbmStat 0) 3
def hbmPc (s : State) (a : Nat) : Nat := (hbmPlace (a - hbmBase) (hbmSplit s)).1
/-- The stack that holds an address. -/
def hbmStack (s : State) (a : Nat) : Nat := hbmPc s a / 32
/-! Masters (Table 14.1) and paths (Table 14.3). -/

/-- Die of a master (Table 14.1). -/
def masterDie (m : Nat) : Nat := if 4 ≤ m ∧ m < 8 ∨ m = 11 ∨ m = 13 then 1 else 0

/-- Owner code for which a master's accesses count (Table 12.3). -/
def ownerCode (m : Nat) : Nat :=
  if m < 8 then m else if m < 10 then 8 else if m < 14 then 9 else if m = mCellarer then 0xA else 0xF
/-- Master code in the Cellar and HBM logs (Table 12.11). -/
def logCode (m : Nat) : Nat :=
  if m < 8 then m else if m < 10 then 8 else if m < 12 then 9 else if m < 14 then 0xB else if m = mCellarer then 0xA else 0xF

/-- Who makes an access: Trellis master, privilege level (0 U, 1 S, 2 M), and whether ownership is checked
(R341: the debug port and host accesses through BAR2 are not). -/
structure Agent where
  master : Nat
  level  : Nat
  owned  : Bool := true
  /-- the master as whose accesses these are checked for ownership, where it is another (R340) -/
  ownAs  : Option Nat := none
  /-- the logical core that makes the access -/
  core   : Option Nat := none
  deriving DecidableEq, Repr

/-! Units of memory. -/

/-- Numbers of the units of size u that [a, a + n) touches. -/
def unitsOf (u a n : Nat) : List Nat := if n = 0 then [] else (List.range ((a + n - 1) / u - a / u + 1)).map (· + a / u)
/-- Numbers of the units of size u that [a, a + n) covers whole. -/
def unitsWhole (u a n : Nat) : List Nat := (unitsOf u a n).filter (fun k => a ≤ k * u && k * u + u ≤ a + n)

/-! The die bridge (R26, R373, R530). -/

/-- Offsets of the control space whose registers lie on the Right Bank, to which the Left Bank forwards (Table 0.5). -/
def rightBlock (off : Nat) : Bool :=
  [(0x1600000, 0x1800000), (0x1801000, 0x1802000), (0x1820400, 0x1820800), (0x1C00400, 0x1C00800), (0x1C12000, 0x1C14000),
   (0x1C22000, 0x1C24000), (0x2800000, 0x3000000), (0x3401000, 0x3402000)].any (fun p => decide (p.1 ≤ off) && decide (off < p.2))
/-- An access of master m at address a crosses the bridge; one without a path meets the default target of its own die. -/
def farTarget (s : State) (m a : Nat) : Bool :=
  hasPath m (targetNo a (target s a)) && match target s a with
  | .cellar => a / 2 ^ 27 != masterDie m
  | .hbm => hbmStack s a / 2 != masterDie m
  | .vault d => d != masterDie m
  | .mram | .rom => masterDie m != 0
  | .control => masterDie m != 0 || rightBlock (a - 0xF0000000)
  | .none => false
/-- An access of master m to [a, a + n) waits for a stopped bridge: the command that would serve it changes nothing.  For a die
that dozes the bridge endpoint of the other answers (R564).
(DEDUCED, log entry 126.) -/
def bridgeHolds (s : State) (m a n : Nat) : Bool :=
  bridgeDown s && !(s.die (1 - masterDie m)).doze && (unitsOf 64 a n).any (fun b => farTarget s m (64 * b))

/-! Counters and logs. -/

/-- A saturating error counter; reaching its limit sets an event bit. -/
def countHi (s : State) (r : RegName) (i n : Nat) (evt : RegName) (b : Nat) : State :=
  let s' := regCount s r i n
  if n ≠ 0 ∧ regGet s r i ≠ w64 m32 ∧ regGet s' r i = w64 m32 then regSetBits s' evt 0 (w64 (2 ^ b)) else s'
/-- A first-entry log keeps its entry until it is cleared (R351). -/
def logFirst (s : State) (r : RegName) (i : Nat) (v : W64) : State :=
  if bit (regGet s r i) 63 then s else regPut s r i (setBit v 63 true)

/-- The default target answers: it counts and logs the access (R354, R382). (DEDUCED, log entry 74.) -/
def decodeError (s : State) (ag : Agent) (a : Nat) (wr nopath rom : Bool) : State :=
  let d := if rom then 0 else masterDie ag.master
  let e := w64 (a % 2 ^ 48 + ag.master * 2 ^ 48 + wr.toNat * 2 ^ 52 + nopath.toNat * 2 ^ 53 + rom.toNat * 2 ^ 54)
  regSetBits (logFirst (regCount s .trDeccnt d 1) .trDeclog d e) .trEvt 0 (w64 (2 ^ d))

/-! The Cellar. -/

def State.bay (s : State) (b : Nat) : Bay := tget {} s.bays b
def State.setBay (s : State) (b : Nat) (x : Bay) : State := { s with bays := tset {} s.bays b x }
def bayOf (a : Nat) : Nat := a / 2 ^ 22
def sliceOf (a : Nat) : Nat := a / 2 ^ 25
/-- The bay is ON: no transition runs, its row does not hold it and its die is awake (R347, R348, R559, R564). -/
def bayOn (s : State) (b : Nat) : Bool :=
  let x := s.bay b
  x.power == .on && !x.busy && x.rowP == .on && !(s.die (b / 32)).doze

def isPoison (s : State) (w : Nat) : Bool := tget false s.poison w
def setPoison (s : State) (w : Nat) (v : Bool) : State := { s with poison := tset false s.poison w v }
/-- An access by a non-owner or to a bay that is not ON is logged (R342). (DEDUCED, log entry 70.) -/
def ownershipError (s : State) (ag : Agent) (a : Nat) (wr : Bool) : State :=
  let b := bayOf a
  let sl := sliceOf a
  let e := w64 (a + logCode ag.master * 2 ^ 28 + (s.bay b).force * 2 ^ 32 + wr.toNat * 2 ^ 36 + (!bayOn s b).toNat * 2 ^ 37)
  regSetBits (logFirst (regCount s .celOecnt sl 1) .celOelog sl e) .celEvt 0 (w64 (2 ^ (8 + sl)))
/-- The access may reach the array (R341, R342). -/
def cellarOk (s : State) (ag : Agent) (a : Nat) : Bool :=
  bayOn s (bayOf a) && (!ag.owned || (s.bay (bayOf a)).force == ownerCode (ag.ownAs.getD ag.master))

/-- An uncorrectable error found in the Cellar at address a; src is the code for the log, none for the debug port (R338).
(DEDUCED, log entry 68.) -/
def cellarUe (s : State) (a : Nat) (src : Option Nat) : State :=
  let sl := sliceOf a
  let s := regSetBits (regCount s .celUecnt sl 1) .celEvt 0 (w64 (2 ^ sl))
  match src with
  | some c => logFirst s .celUelog sl (w64 (a / 8 * 8 + c * 2 ^ 28))
  | none => s
def cellarCe (s : State) (a : Nat) : State := countHi s .celCecnt (sliceOf a) 1 .celEvt 18

def logSrc (ag : Agent) : Option Nat := if ag.master = mDebug then none else some (logCode ag.master)

/-- The words `ws` of the Cellar are read: what the check code finds in them is marked, corrected and counted, word by
word (R337, R338). (DESIGN CHOICE, log entry 67.) -/
def cellarCheck (s : State) (ws : List Nat) (src : Option Nat) (chk : Check) : State :=
  let s := foldS (ws.filter chk.ue.contains) (fun w s => setPoison s w true) s
  let fixed := ws.filter (fun w => chk.ce.contains w && !isPoison s w)
  let bad := ws.filter (isPoison s)
  foldS bad (fun w s => cellarUe s (w * 8) src) (foldS fixed (fun w s => cellarCe s (w * 8)) s)

/-- A read of [a, a + n) inside one aligned 64-byte block of the Cellar (R335 to R342). (DESIGN CHOICE, log entry 67.) -/
def cellarRead (s : State) (ag : Agent) (a n : Nat) (chk : Check) : State × Resp × List Byte :=
  if cellarOk s ag a then
    let s := cellarCheck s (unitsOf 8 a n) (logSrc ag) chk
    if (unitsOf 8 a n).any (isPoison s) then (s, .datErr, zeroBytes n) else (s, .ok, bytesGet s.mem a n)
  else (ownershipError s ag a false, .ownErr, zeroBytes n)

/-- Store bytes; a unit that is covered whole loses its mark (R338, R360). -/
def storeBytes (s : State) (u a : Nat) (bs : List Byte) : State :=
  let s := foldS ((unitsWhole u a bs.length).map (fun k => k * u / 8)) (fun w s => setPoison s w false) s
  { s with mem := bytesPut s.mem a bs }

/-- Units of size u that [a, a + n) touches and does not cover: a write of them is a read-merge-write (R335, R361). -/
def unitsPart (u a n : Nat) : List Nat := (unitsOf u a n).filter (fun k => !(unitsWhole u a n).contains k)

/-- A write of bytes inside one aligned 64-byte block of the Cellar: the writer sees OK in every case (R335, R342).
The words that it covers in part are read and checked first. -/
def cellarWrite (s : State) (ag : Agent) (a : Nat) (bs : List Byte) (chk : Check) : State × Resp :=
  if cellarOk s ag a then (storeBytes (cellarCheck s (unitsPart 8 a bs.length) (logSrc ag) chk) 8 a bs, .ok)
  else (ownershipError s ag a true, .ok)

/-- Words of the Cellar that a write transaction with byte enables (R375) touches and does not cover. -/
def partWords (runs : List (Nat × List Byte)) : List Nat :=
  ((runs.flatMap (fun r => unitsOf 8 r.1 r.2.length)).dedup).filter
    (fun w => ((runs.flatMap (fun r => (List.range r.2.length).map (· + r.1))).filter (fun a => a / 8 == w)).length ≠ 8)
/-- One write transaction of the Cellar with byte enables, as the runs of its enabled bytes: it is checked, counted and
logged once (R342, R375). -/
def cellarRuns (s : State) (ag : Agent) (runs : List (Nat × List Byte)) (chk : Check) : State :=
  match runs with
  | [] => s
  | (a, _) :: _ =>
    if cellarOk s ag a then
      runs.foldl (fun s r => storeBytes s 8 r.1 r.2) (cellarCheck s (partWords runs) (logSrc ag) chk)
    else ownershipError s ag a true

/-! HBM. -/

/-- One number for the DRAM row of an address: pseudo-channel, stack ID, bank and row (R357). -/
def hbmRow (s : State) (a : Nat) : Nat :=
  let (pc, l) := hbmPlace (a - hbmBase) (hbmSplit s)
  let q := l / 64
  let row := q / 3
  let bank := (l / 4 % 16) ^^^ (row % 16)
  ((pc * 3 + q % 3) * 16 + bank) * 16384 + row

/-- A corrected codeword: counted for its stack and its row (R359, R365). -/
def hbmCe (s : State) (a : Nat) : State :=
  let k := hbmStack s a
  let s := countHi s .hbmCecnt k 1 .hbmEvt (4 + k)
  { s with hbmRows := tset 0 s.hbmRows (hbmRow s a) (tget 0 s.hbmRows (hbmRow s a) + 1) }
def hbmUe (s : State) (a : Nat) (src : Option Nat) : State :=
  let k := hbmStack s a
  let s := regSetBits (regCount s .hbmUecnt k 1) .hbmEvt 0 (w64 (2 ^ k))
  match src with
  | some c => logFirst s .hbmUelog k (w64 (a / 64 * 64 + c * 2 ^ 48))
  | none => s

/-- The codeword of address a is read: what the check code finds is marked, corrected and counted (R359, R360). -/
def hbmCheck (s : State) (ag : Agent) (a : Nat) (chk : Check) : State :=
  let w := a / 64 * 8
  let s := if chk.ue.contains w then setPoison s w true else s
  if isPoison s w then hbmUe s a (logSrc ag) else if chk.ce.contains w then hbmCe s a else s

/-- A read inside one codeword (R359 to R361). -/
def hbmRead (s : State) (ag : Agent) (a n : Nat) (chk : Check) : State × Resp × List Byte :=
  let s := hbmCheck s ag a chk
  if isPoison s (a / 64 * 8) then (s, .datErr, zeroBytes n) else (s, .ok, bytesGet s.mem a n)
/-- A write inside one codeword: a write of all 64 bytes clears its mark, and a smaller one reads and checks the codeword
first (R360, R361). (DEDUCED, log entry 123.) -/
def hbmWrite (s : State) (ag : Agent) (a : Nat) (bs : List Byte) (chk : Check) : State × Resp :=
  (storeBytes (if (unitsPart 64 a bs.length).isEmpty then s else hbmCheck s ag a chk) 64 a bs, .ok)

/-! The protected targets (R540) and the other arrays. -/

/-- A request below the level that the target demands is counted (R540). -/
def violation (s : State) : State := regCount s .secViolcnt 0 1

/-- TAMPER_N is held low while PINEN = 1: the Vaults discard writes and return zeros (R551). -/
def vaultShut (s : State) : Bool := s.sec.held && bit (regGet s .secTampcfg 0) 0
def vaultPart (a : Nat) : Bool := decide (a % 0x100000 < 0x10000)      -- the Monitor part of Table 21.1

/-- MRAM and the Vaults correct a single error in the read path and answer an uncorrectable one of the words read with an error
(Table 20.1).  A word of MRAM keeps it until it is written whole. (DESIGN CHOICE, log entry 67.) -/
def checkedRead (s : State) (a n : Nat) (chk : Check) : State × Resp × List Byte :=
  let bad := (unitsOf 8 a n).filter (fun u => chk.ue.contains u || tget false s.poison u)
  if bad.isEmpty then (s, .ok, bytesGet s.mem a n)
  else (if target s a = .mram then foldS bad (fun u s => setPoison s u true) s else s, .datErr, zeroBytes n)
/-- Bytes are stored, and the 8-byte words that they cover hold no error any more. -/
def bytesStore (s : State) (a : Nat) (bs : List Byte) : State :=
  { s with mem := bytesPut s.mem a bs, poison := s.poison.filter (fun e => !(a ≤ e.1 * 8 && e.1 * 8 + 8 ≤ a + bs.length)) }

/-- A read at a target other than the control space, inside one aligned 64-byte block. -/
def memRead (s : State) (ag : Agent) (a n : Nat) (chk : Check) : State × Resp × List Byte :=
  let t := target s a
  if t ≠ .none ∧ !(hasPath ag.master (targetNo a t)) then
    (decodeError s ag a false true false, .decErr, zeroBytes n)
  else match t with
  | .cellar => if ag.master = 10 ∨ ag.master = 11 then (decodeError s ag a false true false, .decErr, zeroBytes n)
               else cellarRead s ag a n chk
  | .hbm => hbmRead s ag a n chk
  | .mram => checkedRead s a n chk
  | .vault d =>
    if (s.die d).doze then (s, .decErr, zeroBytes n)
    else if vaultPart a ∧ ag.level < 2 then (violation s, .ok, zeroBytes n)
    else if vaultShut s then (s, .ok, zeroBytes n)
    else checkedRead s a n chk
  | .rom => (s, .ok, (List.range n).map (fun i => Config.romByte (a - 0xFC000000 + i)))
  | .control => (s, .ok, zeroBytes n)
  | .none => (decodeError s ag a false false false, .decErr, zeroBytes n)

/-- A write at a target other than the control space, inside one aligned 64-byte block. -/
def memWrite (s : State) (ag : Agent) (a : Nat) (bs : List Byte) (chk : Check) : State × Resp :=
  let t := target s a
  if t ≠ .none ∧ !(hasPath ag.master (targetNo a t)) then (decodeError s ag a true true false, .decErr)
  else match t with
  | .cellar => if ag.master = 12 ∨ ag.master = 13 then (decodeError s ag a true true false, .decErr)
               else cellarWrite s ag a bs chk
  | .hbm => hbmWrite s ag a bs chk
  | .mram =>
    if ag.level < 2 then (violation s, .ok)
    else if 0xF8A00000 ≤ a then (s, .ok)
    else (bytesStore s a bs, .ok)
  | .vault d =>
    if (s.die d).doze then (s, .decErr)
    else if vaultPart a ∧ ag.level < 2 then (violation s, .ok)
    else if vaultShut s then (s, .ok)
    else ({ s with mem := bytesPut s.mem a bs }, .ok)
  | .rom => (decodeError s ag a true false true, .decErr)
  | .control => (s, .ok)
  | .none => (decodeError s ag a true false false, .decErr)

/-- A bit write (R615): the other seven bits of the byte keep their values. -/
def memBitWrite (s : State) (ag : Agent) (a k : Nat) (v : Bool) (chk : Check) : State × Resp :=
  memWrite s ag a [setBit (cellGet s.mem a) k v] chk

/-! Spans: a read or write of many bytes is cut into transactions inside aligned 64-byte blocks, in ascending order
(R375). -/

def spanWrite (ag : Agent) (chk : Check) : Nat → State → Nat → List Byte → Option (Nat × Resp) → State × Option (Nat × Resp)
  | 0, s, _, _, e => (s, e)
  | fuel + 1, s, a, bs, e =>
    if bs.isEmpty then (s, e)
    else
      let n := min bs.length (64 - a % 64)
      let (s, r) := memWrite s ag a (bs.take n) chk
      spanWrite ag chk fuel s (a + n) (bs.drop n) (if r = .ok then e else e.orElse (fun _ => some (a, r)))

/-- A span written whole; the answer names the first transaction that failed. -/
def writeSpan (s : State) (ag : Agent) (a : Nat) (bs : List Byte) (chk : Check) : State × Option (Nat × Resp) :=
  spanWrite ag chk (bs.length + 1) s a bs none

def spanRead (ag : Agent) (chk : Check) :
    Nat → State → Nat → Nat → List Byte → Option (Nat × Resp) → State × Option (Nat × Resp) × List Byte
  | 0, s, _, _, acc, e => (s, e, acc)
  | fuel + 1, s, a, n, acc, e =>
    if n = 0 then (s, e, acc)
    else
      let k := min n (64 - a % 64)
      let (s, r, bs) := memRead s ag a k chk
      spanRead ag chk fuel s (a + k) (n - k) (acc ++ bs) (if r = .ok then e else e.orElse (fun _ => some (a, r)))

/-- Number of transactions of a span. -/
def spanBlocks (a n : Nat) : Nat := if n = 0 then 0 else (a + n - 1) / 64 - a / 64 + 1
/-- A span read whole. -/
def readSpan (s : State) (ag : Agent) (a n : Nat) (chk : Check) : State × Option (Nat × Resp) × List Byte :=
  spanRead ag chk (spanBlocks a n) s a n [] none

/-! Commands on bays. -/

/-- The owner that another agent's write has replaced in this TCLK; 16 is no owner. -/
def overtaken (s : State) (b : Nat) : Nat :=
  match (s.bay b).passed with | some (r, t) => if t = s.tick then r else 16 | none => 16
/-- The result of an ownership write (R343): 0 done, 1 mismatch, 2 not permitted.  A Supervisor whose row a write of the same
TCLK has overtaken (`past`), and who expects its row, meets a mismatch (Table 12.12). (DEDUCED, log entry 125.) -/
def ownResult (owner past new expect : Nat) (w : OwnAgent) : Nat :=
  let ok := match w with
    | .cellarer => true
    | .handover => true
    | .core r l => decide (1 ≤ l) && (owner == r || (past == r && expect == r))
    | .host => false
  if !ok then 2
  else if 0xB ≤ new ∧ new ≤ 0xE then 2
  else if expect = 0xE then (if w = .cellarer then 0 else 2)
  else if expect = owner then 0 else 1

/-- DEDUCED, log entry 69. -/
def ownWrite (s : State) (b new expect : Nat) (w : OwnAgent) (core : Option Nat := none) : State :=
  let x := s.bay b
  let r := ownResult x.owner (overtaken s b) new expect w
  let past := match w with | .core _ _ => none | _ => some (x.owner, s.tick)
  if r = 0 then s.setBay b { x with owner := new, coming := x.coming ++ [(new, core)], passed := past, res := 0 }
  else regSetBits (s.setBay b { x with res := r }) .celEvt 0 (w64 (2 ^ 16))

/-- The oldest accepted ownership write of a bay comes into force (R344). -/
def ownForce (s : State) (b : Nat) : State :=
  let x := s.bay b
  match x.coming with
  | [] => s
  | n :: r => if updateWaits s b then s else s.setBay b { x with force := n.1, coming := r }
/-- An ownership write of core n is not accepted yet (R344). -/
def ownComing (s : State) (n : Nat) : Bool := s.bays.any (fun b => b.2.coming.any (fun x => x.2 == some n))

def bayPowerOf (n : Nat) : BayPower := if n = 0 then .on else if n = 1 then .ret else .off
def bayPowerCode : BayPower → Nat
  | .on => 0
  | .ret => 1
  | .off => 2

/-- A write to CEL_BPWRb (R347, R348). -/
def bayPowerWrite (s : State) (b st : Nat) : State :=
  let x := s.bay b
  if x.owner ≠ 0xF ∨ x.busy then regSetBits s .celEvt 0 (w64 (2 ^ 17))
  else if st % 4 = 3 ∨ bayPowerOf (st % 4) = x.power then s
  else s.setBay b { x with power := bayPowerOf (st % 4), busy := true, fromP := x.power }

def bayRange (b : Nat) : Nat × Nat := (b * 2 ^ 22, (b + 1) * 2 ^ 22)
/-- A bay's contents are lost: every word reads 0 with valid check bits when the bay leaves OFF (Table 12.4). -/
def bayLose (s : State) (b : Nat) : State :=
  let (lo, hi) := bayRange b
  { s with mem := bytesClear s.mem lo hi, poison := s.poison.filter (fun p => !(lo ≤ p.1 * 8 && p.1 * 8 < hi)) }

/-- A bay power transition ends (R348). -/
def bayPowerEnd (s : State) (b : Nat) : State :=
  let x := s.bay b
  if !x.busy || updateWaits s b then s
  else
    let s := s.setBay b { x with busy := false, fromP := x.power }
    if x.power = .off ∨ x.fromP = .off then bayLose s b else s

/-- The scrubber reads the 512 words of one word position of a slice (R339).  Only words that are marked or that the
check code names differ from words that are read without an error. -/
def scrubWords (s : State) (sl p : Nat) (chk : Check) : State :=
  let lo := (sl * 8 + p / 1024) * 2 ^ 19 + p % 1024 * 2 ^ 9
  let ws := ((tkeys s.poison ++ chk.ce ++ chk.ue).dedup).filter (fun w => lo ≤ w && w < lo + 512)
  cellarCheck s ws (some 0xF) chk

/-- The first word position of a slice at or after p, in ascending order and then from the start, whose bay is ON; none
where no bay of the slice is (R339). -/
def scrubNext (s : State) (sl p : Nat) : Option Nat :=
  if p < 8192 ∧ bayOn s (sl * 8 + p / 1024) then some p
  else (((List.range 8).map (fun j => (p / 1024 + 1 + j) % 8)).find? (fun k => bayOn s (sl * 8 + k))).map (· * 1024)

/-- One scrubber visit of a slice (R339): it reads the next position of a bay that is ON; going on to a lower one
completes a pass. (DEDUCED, log entry 124.) -/
def scrubVisit (s : State) (sl : Nat) (chk : Check) : State :=
  if !(bit (regGet s .celScrubCtrl 0) 0) then s
  else
    let p := tget 0 s.scrubPos sl
    match scrubNext s sl p with
    | none => s
    | some q =>
      let s := if q < p then regPut s .celScrubPass sl ((regGet s .celScrubPass sl + 1) &&& w64 m32) else s
      let s := scrubWords s sl q chk
      if q = 8191 then
        regPut { s with scrubPos := tset 0 s.scrubPos sl 0 } .celScrubPass sl ((regGet s .celScrubPass sl + 1) &&& w64 m32)
      else { s with scrubPos := tset 0 s.scrubPos sl (q + 1) }

/-- Clear the logs a LOGCLR write names (R350). -/
def celLogclr (s : State) (sl : Nat) (v : W64) : State :=
  let s := if bit v 0 then regPut s .celUelog sl 0 else s
  if bit v 1 then regPut s .celOelog sl 0 else s

/-! Commands on HBM. -/

/-- The row of an address reaches HBM_PPR_THR corrected codewords and is copied to its spare (R365). -/
def softRepair (s : State) (a : Nat) : State :=
  let thr := fld (regGet s .hbmPprThr 0) 0 16
  let row := hbmRow s a
  let k := hbmStack s a
  if target s a ≠ .hbm ∨ thr = 0 ∨ tget 0 s.hbmRows row < thr ∨ tget false s.hbmSoft row then s
  else
    let p := regGet s .hbmPpr k
    let s := regPut s .hbmPpr k (putFld p 12 12 (min (fld p 12 12 + 1) 4095))
    regSetBits { s with hbmSoft := tset false s.hbmSoft row true } .hbmEvt 0 (w64 (2 ^ (8 + k)))

/-- Training starts (R367): the range goes to the default target. -/
def hbmTrain (s : State) : State :=
  let st := regGet s .hbmStat 0
  if bit st 0 then s
  else regPut (regPut s .hbmStat 0 ((st &&& ~~~ (6 : W64)) ||| 1)) .hbmCtrl 0 1

/-- Stack of a row number (pseudo-channel / 32). -/
def rowStack (row : Nat) : Nat := row / 16384 / 16 / 3 / 32

/-- GLB_RAS_STAT.DEGRADED (R537). -/
def degrade (s : State) : State := regPut s .glbRasStat 0 0x10000

/-- Bank group of a row number (pseudo-channel, stack ID and bank / 4) (R357). -/
def rowGroup (row : Nat) : Nat := row / 16384 / 4

/-- Hard repair of the soft repairs of stack k at training, row by row: a row is repaired for good where its bank group's
one resource is left, and its soft repair is lost otherwise (R366). (DEDUCED, log entry 72.) -/
def hardRepair (s : State) (k : Nat) : State :=
  let rows := (tkeys s.hbmSoft).filter (fun r => rowStack r == k)
  let (hard, lost) := rows.foldl (fun (h : Table Bool × Bool) r =>
    if (tkeys h.1).any (fun q => rowGroup q == rowGroup r) then (h.1, true) else (tset false h.1 r true, h.2)) (s.hbmHard, false)
  let left := 384 - ((tkeys hard).filter (fun r => rowStack r == k)).length
  let s := regPut { s with hbmHard := hard } .hbmPpr k (w64 left)
  let s := if lost then regSetBits s .hbmEvt 0 (w64 (2 ^ (12 + k))) else s
  if lost || left == 0 then degrade s else s

/-- Training ends with the result word of each stack (HBM_TRAINk: PASS, NORESP, CHAN, LANEREP) (R367, R368). -/
def hbmTrainEnd (s : State) (w : Nat → W32) : State :=
  if !(bit (regGet s .hbmStat 0) 0) then s
  else
    let s := foldS [0, 1, 2, 3] (fun k s => hardRepair (regPut s .hbmTrain k ((w k).setWidth 64 &&& 0xFFF3)) k) s
    let pass := fun k => bit (w k) 0 && !bit (w k) 1
    let split := bit (regGet s .hbmCfg 0) 0
    let lo := if split then pass 0 && pass 1 else pass 0 && pass 1 && pass 2 && pass 3
    let hi := if split then pass 2 && pass 3 else lo
    let fail := (!pass 0).toNat + 2 * (!pass 1).toNat + 4 * (!pass 2).toNat + 8 * (!pass 3).toNat
    let st := w64 (2 * lo.toNat + 4 * hi.toNat + 8 * split.toNat + 16 * fail)
    let s := regPut (regPut s .hbmStat 0 st) .hbmCtrl 0 0
    let s := { s with hbmSoft := [], hbmRows := [], mem := bytesClear s.mem hbmBase 0x002800000000,
                      poison := s.poison.filter (fun p => p.1 * 8 < hbmBase) }
    if fail = 0 then s else degrade (regSetBits s .hbmEvt 0 (w64 (2 ^ 16)))

/-- A stack temperature crosses 85 °C (R363). -/
def stackTemp (s : State) (k : Nat) (temp : Byte) : State :=
  regPut s .hbmTemp k ((temp.setWidth 64) ||| (if (85 : Int) < temp.toInt then 0x100 else 0))

end Sys2Proof.Machine
end

