-- ==== Sys2Proof/Machine/Link.lean ====
section
/-! DEFINITION. The host link (chapter 15): its state, outbound requests, MSI-X, and the rejected accesses. -/
namespace Sys2Proof.Machine

/-! Link state (R393, Table 15.4). -/

def hlLdown : Nat := 0
def hlFlr : Nat := 1
def hlBadacc : Nat := 2
def hlCto : Nat := 3
def hlEvent (s : State) (b : Nat) : State := regSetBits s .glbHlEvt 0 (w64 (2 ^ b))

def State.setLink (s : State) (l : Link) : State := { s with link := l }
def Link.isUp (l : Link) : Bool := l.rate ≠ 0

/-- BAR2 is present (R395, Table 21.6). -/
def bar2Present (s : State) : Bool := decide (s.otp.lcs < 2)

def hlStatRead (s : State) : W64 :=
  let l := s.link
  w64 (l.rate + 16 * l.width + 512 * l.flit.toNat + 1024 * (bar2Present s).toNat)

/-- The highest width of the profile that both ends support. -/
def linkWidth (far : Nat) : Nat := if 16 ≤ far then 16 else if 8 ≤ far then 8 else if 4 ≤ far then 4 else if 2 ≤ far then 2 else 1

/-- Training reaches the highest common rate and width (R393); flit mode is the mode of 64.0 GT/s (Table 15.1).
(DEDUCED, log entry 77; DESIGN CHOICE, log entry 78.) -/
def linkTrain (s : State) (farRate farWidth : Nat) : State :=
  let r := max 1 (min 6 farRate)
  s.setLink { s.link with rate := r, width := linkWidth farWidth, flit := decide (r = 6) }

/-! Outbound requests (R399, R400). -/

def Link.add (l : Link) (kind : OutKind) (addr : W64) (len : Nat) (data : List Byte) : Link :=
  { l with out := l.out ++ [{ id := l.nextId, kind, addr, len, data }], nextId := l.nextId + 1 }
def OutReq.isWrite (q : OutReq) : Bool :=
  match q.kind with
  | .record _ _ => true
  | .pastRecord => true
  | .msix _ => true
  | .moveData _ => true
  | _ => false

/-- RK_r_DONE: the lowest SEQ whose record has not been issued (R436). -/
def ringDone (s : State) (r : Nat) : State :=
  let x := s.ring r
  let d : W32 := regGet32 s .rkRDone r
  let open_ := x.started.filter (fun e => !e.stale)
  let low := open_.foldl (fun (m : W32) e => if (e.seqNo - d).toNat < (m - d).toNat then e.seqNo else m) (regGet32 s .rkRCidx r)
  regPut s .rkRDone r (low.setWidth 64)

/-- A completion record has left on the link. -/
def recordIssued (s : State) (r : Nat) (q : W32) : State :=
  let x := s.ring r
  ringDone (s.setRing r { x with started := x.started.filter (fun e => !(e.seqNo == q && e.issued)) }) r

/-- The function may issue requests: Bus Master Enable is 1 and it is in D0 (R399, Table 15.1). -/
def Link.mayIssue (l : Link) : Bool := l.bme && !l.cfg.d3

/-- From the start of a warm device reset until the boot that follows it is complete nothing is sent (R572). -/
def bootHolds (s : State) : Bool := fld (regGet s .pwrBoot 0) 8 3 != 0 && fld (regGet s .pwrBoot 0) 0 3 != 5

/-- One request of the queue meets the link: while the link is up and the function may issue requests it is sent, a posted
write with a posted credit of the host (R389); while the link is down it is lost, a read as a timeout (R404); otherwise it
waits, as it does while the Left Bank dozes (R564). -/
def sendOne (s : State) (q : OutReq) : State :=
  let l := s.link
  let drop := { l with out := l.out.filter (fun x => x.id != q.id) }
  let keep := fun (x : OutReq) => { l with out := l.out.map (fun y => if y.id = q.id then x else y) }
  if q.sent then s
  else if !l.isUp then
    if q.isWrite then s.setLink drop
    else hlEvent (s.setLink (keep { q with sent := true, res := some (.fail 4) })) hlCto
  else if !l.mayIssue || (s.die 0).doze || bootHolds s || (q.isWrite && l.posted == some 0) then s
  else if q.isWrite then
    let s := s.setLink { drop with tx := l.tx ++ [⟨q.addr, q.data, q.attr⟩], posted := l.posted.map (· - 1) }
    match q.kind with
    | .record r k => recordIssued s r k
    | _ => s
  else s.setLink (keep { q with sent := true })

/-- Requests leave in their original order (R399); at most 16,384 reads are outstanding (R387, R392). -/
def pump (s : State) : State :=
  s.link.out.foldl (fun s q =>
    if !q.isWrite && s.link.isUp && decide (16384 ≤ (s.link.out.filter (fun x => x.sent && !x.isWrite && x.res.isNone)).length)
    then s else sendOne s q) s

/-- A new outbound request. -/
def request (s : State) (kind : OutKind) (addr : W64) (len : Nat) (data : List Byte) : State :=
  pump (s.setLink (s.link.add kind addr len data))

/-- Cut a read at Max_Read_Request_Size (R400), and at 4 KiB boundaries, which no request of the standard crosses. -/
def splitReads (mrrs : Nat) (addr : W64) : Nat → Nat → List (W64 × Nat)
  | 0, _ => []
  | fuel + 1, n =>
    if n = 0 then []
    else
      let k := min n (min mrrs (4096 - addr.toNat % 4096))
      (addr, k) :: splitReads mrrs (addr + w64 k) fuel (n - k)
/-- A read of n bytes leaves as the requests into which R400 splits it, each with a tag of its own. -/
def requestRead (s : State) (kind : OutKind) (addr : W64) (n : Nat) : State :=
  (splitReads s.link.mrrs addr n n).foldl (fun s p => request s kind p.1 p.2 []) s

/-- Cut a write at Max_Payload_Size and at 4 KiB boundaries of host memory (R400). -/
def splitWrites (mps : Nat) (addr : W64) : Nat → List Byte → List (W64 × List Byte)
  | 0, _ => []
  | fuel + 1, bs =>
    if bs.isEmpty then []
    else
      let n := min mps (4096 - addr.toNat % 4096)
      (addr, bs.take n) :: splitWrites mps (addr + w64 n) fuel (bs.drop n)

def findOut (s : State) (f : OutReq → Bool) : Option OutReq := s.link.out.find? f
def dropOut (s : State) (id : Nat) : State := s.setLink { s.link with out := s.link.out.filter (fun x => x.id != id) }

/-- What the requests of a read have brought once every one of them is answered: the data, or the failure code and the address
of the first that failed. -/
def readResult (s : State) (f : OutReq → Bool) : Option (Except (Nat × W64) (List Byte)) :=
  let qs := s.link.out.filter f
  if qs.isEmpty || qs.any (fun q => q.res.isNone) then none
  else
    let bad := fun (q : OutReq) => match q.res with | some (.fail c) => some (c, q.addr) | _ => none
    let good := fun (q : OutReq) => match q.res with | some (.data bs) => (bs ++ zeroBytes q.len).take q.len | _ => []
    match qs.findSome? bad with
    | some e => some (.error e)
    | none => some (.ok (qs.flatMap good))
def dropRead (s : State) (f : OutReq → Bool) : State := s.setLink { s.link with out := s.link.out.filter (fun x => !f x) }

/-! Advanced Error Reporting (R401, Table 15.1). -/

def aerPoisoned : Nat := 12
def aerAborted : Nat := 15
def aerUnexpected : Nat := 16
def aerMalformed : Nat := 18
def aerUnsupported : Nat := 20

/-- An error of Table 15.3: its status bit is set, and unless it is masked its header is logged and a message with its severity
is sent, where Device Control has that reported. -/
def Link.error (l : Link) (b : Nat) (header : BitVec 128) : Link :=
  let a := { l.aer with status := setBit l.aer.status b true, seen := l.aer.seen + 1 }
  if bit a.mask b then { l with aer := a }
  else
    let fatal := bit a.sev b
    let told := if fatal then bit l.cfg.report 1 else bit l.cfg.report 0 && (b != aerUnsupported || bit l.cfg.report 2)
    { l with aer := { a with log := if a.log.length < 4 then a.log ++ [⟨b, header⟩] else a.log
                             msgs := if told then a.msgs ++ [(b, fatal)] else a.msgs } }

/-- Header of a TLP: its first word, and the words that the link gives. -/
def tlpHeader (l : Link) (dw0 : W32) : BitVec 128 :=
  Config.tlpWord l.aer.seen 3 ++ Config.tlpWord l.aer.seen 2 ++ Config.tlpWord l.aer.seen 1 ++ dw0
/-- Header of a memory request of n bytes at an address. -/
def memHeader (l : Link) (wr : Bool) (addr : W64) (n : Nat) : BitVec 128 :=
  let dw0 := w32 ((if wr then 0x60000000 else 0x20000000) + (addr.toNat % 4 + n + 3) / 4 % 1024)
  w32 (addr.toNat % 2 ^ 32 / 4 * 4) ++ w32 (addr.toNat / 2 ^ 32) ++ Config.tlpWord l.aer.seen 1 ++ dw0

/-- Completions of one read are kept by offset. -/
def insertPart (p : Nat × List Byte) : List (Nat × List Byte) → List (Nat × List Byte)
  | [] => [p]
  | q :: ps => if p.1 ≤ q.1 then p :: q :: ps else q :: insertPart p ps
/-- The bytes from offset 0 on that the completions have brought without a gap. -/
def joinParts (ps : List (Nat × List Byte)) : List Byte :=
  ps.foldl (fun acc p => if p.1 ≤ acc.length then acc ++ p.2.drop (acc.length - p.1) else acc) []

/-- A read is answered; an orphan's completion is discarded and frees its tag (R403). -/
def answer (s : State) (id : Nat) (res : OutRes) : State :=
  match findOut s (fun q => q.id == id && q.sent && !q.isWrite && q.res.isNone) with
  | none => s.setLink (s.link.error aerUnexpected (tlpHeader s.link 0x4A000000))   -- no matching outstanding tag (Table 15.3)
  | some q =>
    if q.kind = .orphan then pump (dropOut s id)
    else pump (s.setLink { s.link with out := s.link.out.map (fun x => if x.id = id then { x with res := some res } else x) })

/-- A completion brings bytes of a read from an offset on.  A completer may split the data at any Read Completion Boundary and
send the parts in any order: the read is answered once all its bytes have come (R400). -/
def dataIn (s : State) (id : Nat) (o : Nat) (bs : List Byte) : State :=
  match findOut s (fun q => q.id == id && q.sent && !q.isWrite && q.res.isNone) with
  | none => answer s id (.data bs)
  | some q =>
    let ps := insertPart (o, bs) q.parts
    let all := joinParts ps
    if q.len ≤ all.length then answer s id (.data (all.take q.len))
    else s.setLink { s.link with out := s.link.out.map (fun x => if x.id = id then { x with parts := ps } else x) }

def outboundDone (s : State) (id : Nat) (r : LinkRes) : State :=
  match r with
  | .data bs o => dataIn s id o bs
  | .urca => answer s id (.fail 5)
  | .poisoned => answer (s.setLink (s.link.error aerPoisoned (tlpHeader s.link 0x4A004000))) id (.fail 6)
  | .credits none => pump (s.setLink { s.link with posted := none })
  | .credits (some n) => pump (s.setLink { s.link with posted := some (s.link.posted.getD 0 + n) })

/-- A request reaches the completion timeout (R400). -/
def outboundTimeout (s : State) (id : Nat) : State :=
  match findOut s (fun q => q.id == id && q.sent && !q.isWrite && q.res.isNone) with
  | none => s
  | some _ => hlEvent (answer s id (.fail 4)) hlCto

/-! MSI-X (R402). -/

def maskedEntry : MsixEntry := {}
def State.entry (s : State) (v : Nat) : MsixEntry := tget maskedEntry s.msix v
def State.setEntry (s : State) (v : Nat) (e : MsixEntry) : State := { s with msix := tset maskedEntry s.msix v e }
def pbaBit (s : State) (v : Nat) : Bool := tget false s.pba v
def setPba (s : State) (v : Nat) (b : Bool) : State := { s with pba := tset false s.pba v b }

/-- A message may leave now. -/
def msixOpen (s : State) (v : Nat) : Bool := s.link.msixEn && !s.link.fmask && !(s.entry v).masked
/-- The message of a vector as its entry stands. -/
def State.msixMsg (s : State) (v : Nat) : MsixMsg :=
  let e := s.entry v
  ⟨v, (e.addrHi ++ e.addrLo).setWidth 64, e.data⟩
def msixSend (s : State) (m : MsixMsg) : State :=
  request s (.msix m.vector) m.addr 4 (leBytes m.data.toNat 4)

/-- A source asks for a message: what the entry holds now is what it sends, whatever is written before it leaves (R402). -/
def msixAsk (s : State) (v : Nat) : State := { s with msixReq := s.msixReq ++ [s.msixMsg v] }
/-- The oldest request of a vector is delivered, or merged into its PBA bit. -/
def msixDeliver (s : State) (v : Nat) : State :=
  match s.msixReq.find? (fun m => m.vector == v) with
  | some m =>
    let s := { s with msixReq := s.msixReq.erase m }
    if msixOpen s v then msixSend s m else setPba s v true
  | none => s
/-- A set PBA bit whose vector is open sends one message and clears. -/
def msixRelease (s : State) (v : Nat) : State :=
  if pbaBit s v && msixOpen s v then msixSend (setPba s v false) (s.msixMsg v) else s

/-- One DW of an entry takes effect on its own: address low, address high, data, vector control. -/
def msixWrite (s : State) (v dw : Nat) (x : W32) : State :=
  let e := s.entry v
  match dw with
  | 0 => s.setEntry v { e with addrLo := x &&& 0xFFFFFFFC }
  | 1 => s.setEntry v { e with addrHi := x }
  | 2 => s.setEntry v { e with data := x }
  | _ => msixRelease (s.setEntry v { e with masked := bit x 0 }) v

def msixRead (s : State) (v dw : Nat) : W32 :=
  let e := s.entry v
  match dw with
  | 0 => e.addrLo
  | 1 => e.addrHi
  | 2 => e.data
  | _ => w32 e.masked.toNat

/-- 32 PBA bits. -/
def pbaWord (s : State) (k : Nat) : W32 :=
  (List.range 32).foldl (fun w j => if pbaBit s (32 * k + j) then setBit w j true else w) 0

/-- A write of Message Control. (DEDUCED, log entry 79.) -/
def msixControl (s : State) (enable mask : Bool) : State :=
  let s := s.setLink { s.link with msixEn := enable, fmask := mask }
  foldS (tkeys s.pba) (fun v s => msixRelease s v) s

/-! The configuration space (R392, R394, R395, R399, R400). (PRESUMED, log entry 140.) -/

def cfgVendor : W16 := 0x1FD7
def cfgDevice : W16 := 0x7820
def cfgRevision : Byte := 0xA1
def cfgClass : BitVec 24 := 0x120000

/-- Identities of the capabilities of Table 15.1: PCI Express, Power Management, MSI-X; AER, Device Serial Number, Data Link
Feature, Physical Layer 16.0, 32.0 and 64.0 GT/s. -/
def cfgCapability (k : Nat) : W32 :=
  ([0x10, 0x01, 0x11, 0x0001, 0x0003, 0x0025, 0x0026, 0x002A, 0x0031][k]?).getD 0

/-- Max_Payload_Size and Max_Read_Request_Size of a code, where Table 15.1 has it. -/
def sizeOf (code top old : Nat) : Nat := if code ≤ top then 128 * 2 ^ code else old
def sizeCode (n : Nat) : Nat := if n ≤ 128 then 0 else if n ≤ 256 then 1 else if n ≤ 512 then 2 else if n ≤ 1024 then 3 else if n ≤ 2048 then 4 else 5

/-- A DW of a 64-bit memory BAR: the address above its size; BAR0 is not prefetchable, BAR2 is (Table 15.2). -/
def barRead (s : State) (k : Nat) : W32 :=
  let c := s.link.cfg
  match k with
  | 0 => c.bar0.setWidth 32 ||| 0x4
  | 1 => (c.bar0 >>> 32).setWidth 32
  | 2 => if bar2Present s then c.bar2.setWidth 32 ||| 0xC else 0
  | 3 => if bar2Present s then (c.bar2 >>> 32).setWidth 32 else 0
  | _ => 0
def barWrite (s : State) (k : Nat) (v : W32) : State :=
  let c := s.link.cfg
  let put := fun (x : PciCfg) => s.setLink { s.link with cfg := x }
  match k with
  | 0 => put { c with bar0 := putFld c.bar0 0 32 (v &&& 0xFC000000).toNat }
  | 1 => put { c with bar0 := putFld c.bar0 32 32 v.toNat }
  | 2 => if bar2Present s then put { c with bar2 := putFld c.bar2 0 32 (v &&& 0xF0000000).toNat } else s
  | 3 => if bar2Present s then put { c with bar2 := putFld c.bar2 32 32 v.toNat } else s
  | _ => s

def cfgRead (s : State) (r : CfgReg) : W32 :=
  let l := s.link
  let c := l.cfg
  match r with
  | .ids => cfgDevice ++ cfgVendor
  | .command => w32 (2 * l.mse.toNat + 4 * l.bme.toNat + 0x100000)
  | .classRev => cfgClass ++ cfgRevision
  | .bar k => barRead s k
  | .rom => 0
  | .subsystem => c.subsys
  | .devCtl => w32 (2 * c.report.toNat + 32 * sizeCode l.mps + 4096 * sizeCode l.mrrs)
  | .devCtl2 => c.range.setWidth 32
  | .linkCtl => w32 (2 * c.l1.toNat)
  | .pmcs => if c.d3 then 3 else 0
  | .msixCtl => w32 (2047 * 65536 + 2 ^ 30 * l.fmask.toNat + 2 ^ 31 * l.msixEn.toNat)
  | .aerStatus => l.aer.status
  | .aerMask => l.aer.mask
  | .aerSev => l.aer.sev
  | .aerHeader e k => match l.aer.log[e.val]? with
    | some x => x.header.extractLsb' (32 * k.val) 32
    | none => 0
  | .serial hi => (if hi then Config.devid >>> 32 else Config.devid).setWidth 32
  | .capability k => cfgCapability k

/-- A write of 1 clears a bit of the AER status, and with it the headers that stand for it. -/
def aerClear (a : Aer) (v : W32) : Aer :=
  { a with status := a.status &&& ~~~ v, log := a.log.filter (fun e => !bit v e.error) }

/-- A configuration write; requests that it releases leave. -/
def cfgWrite (s : State) (r : CfgReg) (v : W32) : State :=
  let l := s.link
  let put := fun (c : PciCfg) => s.setLink { l with cfg := c }
  match r with
  | .command => pump (s.setLink { l with mse := bit v 1, bme := bit v 2 })
  | .bar k => barWrite s k v
  | .devCtl => s.setLink { l with mps := sizeOf (fld v 5 3) 2 l.mps, mrrs := sizeOf (fld v 12 3) 5 l.mrrs
                                  cfg := { l.cfg with report := BitVec.ofNat 3 (fld v 1 3) } }
  | .devCtl2 => put { l.cfg with range := v.setWidth 5 }
  | .linkCtl => put { l.cfg with l1 := bit v 1 }
  | .pmcs => if fld v 0 2 = 0 then pump (put { l.cfg with d3 := false }) else if fld v 0 2 = 3 then put { l.cfg with d3 := true } else s
  | .msixCtl => msixControl s (bit v 31) (bit v 30)
  | .aerStatus => s.setLink { l with aer := aerClear l.aer v }
  | .aerMask => s.setLink { l with aer := { l.aer with mask := v } }
  | .aerSev => s.setLink { l with aer := { l.aer with sev := v } }
  | _ => s

/-- The configuration is ready: at step 5 of the boot after PORST_N, in recovery, and where boot ends at the ROM (R574); a warm
device reset leaves it as it is (R572). -/
def cfgReady (s : State) : Bool :=
  fld (regGet s .pwrBoot 0) 0 3 == 5 || bit (regGet s .secBootstat 0) 12 || s.otp.lcs == 4 || fld (regGet s .pwrBoot 0) 8 3 != 0

/-- A configuration request of the host: a write of a value, or a read, which returns the register.  Until the configuration is ready it is answered with
Request Retry Status (R574). -/
def cfgAccess (s : State) (r : CfgReg) (x : Option W32) : State :=
  let put := fun (c : PciCfg) => s.setLink { s.link with cfg := c }
  if !s.link.isUp then s
  else if !cfgReady s then put { s.link.cfg with retry := true }
  else match x with
    | some v => cfgWrite (put { s.link.cfg with retry := false }) r v
    | none => put { s.link.cfg with retry := false, data := cfgRead s r }

/-! Rejected accesses (R12, R396, R406). -/

def badAccess (s : State) (off master len : Nat) (wr : Bool) : State :=
  let n := if len ≤ 8 then len - 1 else 0xF
  let e := w64 (off % 2 ^ 26 + master * 2 ^ 26 + wr.toNat * 2 ^ 30 + n * 2 ^ 31)
  hlEvent (logFirst (regCount s .glbBadaccCnt 0 1) .glbBadaccLog 0 e) hlBadacc

def badaccClear (s : State) (v : W64) : State := if bit v 0 then regPut s .glbBadaccLog 0 0 else s

/-! Telemetry (R408, R591). -/

def hottest (l : List Byte) : Byte := l.foldl (fun m t => if m.toInt < t.toInt then t else m) 0x80
/-- The offset of thermal sensor i in the calibration page, in 1/16 °C (Table 22.10). -/
def thermOffset (s : State) (i : Nat) : Int :=
  (BitVec.ofNat 16 (fld (regGet s .calPage (8 + i / 2)) (16 * (i % 2)) 16)).toInt
/-- The reading of sensor i in whole °C: what it measures and its offset (R591). (DESIGN CHOICE, log entry 175.) -/
def sensorRead (s : State) (i : Nat) (raw : BitVec 16) : Byte :=
  BitVec.ofInt 8 (max (-128) (min 127 ((raw.toInt + thermOffset s i) / 16)))
/-- Readings of the sensors from number i on. -/
def sensorsRead (s : State) (i : Nat) (l : List (BitVec 16)) : List Byte :=
  ((List.range l.length).zip l).map (fun p => sensorRead s (i + p.1) p.2)
/-- The hottest reading of all sensors. -/
def hottestOf (s : State) (t : Temps) : Byte := hottest (sensorsRead s 0 t.left ++ sensorsRead s 8 t.right)

/-- Health byte of Table 15.6. -/
def smbHealth (s : State) : Nat :=
  (decide (fld (regGet s .pwrBoot 0) 0 3 = 5)).toNat + 2 * (bit (regGet s .pwrOpp 0) 6).toNat
  + 4 * s.power.mcLogged.toNat
  + 8 * ((List.range 8).any (fun r => fld (regGet s .glbRasRow r) 0 4 != 0xF)).toNat
  + 16 * (bit (regGet s .calStat 0) 0).toNat + 32 * (fld (regGet s .hbmStat 0) 4 4 != 0 : Bool).toNat
  + 64 * (regGet s .secTampstat 0 != 0 : Bool).toNat

/-- The health byte and the life-cycle state as the always-on domain takes them at a refresh. -/
def smbNow (s : State) : Byte × Byte := (BitVec.ofNat 8 (smbHealth s), BitVec.ofNat 8 s.otp.lcs)
/-- The health byte and the life-cycle state that the port answers with: those refreshed last. -/
def smbLast (s : State) : Byte × Byte := s.power.seen.getD (smbNow s)

/-- A refresh of the port's values.  Before boot completes it brings the readings that R408 names for that time, with the health
byte and the life-cycle state of the moment; until it comes, a warm device reset leaves the values refreshed last (Table 22.13). -/
def smbRefresh (s : State) (rawLeft rawRight : List (BitVec 16)) (pkg vdd : W16) : State :=
  let seen := some (smbNow s)
  let left := sensorsRead s 0 rawLeft
  let right := sensorsRead s 8 rawRight
  if fld (regGet s .pwrBoot 0) 0 3 = 5 then
    let hot := hottest (left ++ right)
    let s := regPut s .pwrStat 0 (putFld (regGet s .pwrStat 0) 8 8 hot.toNat)
    { s with power := { s.power with tHot := hot, tLeft := hottest left, tRight := hottest right, pkg, vdd, seen } }
  else { s with power := { s.power with tHot := 0x80, tLeft := 0x80, tRight := 0x80, pkg := 0xFFFF, vdd := 0xFFFF, seen } }

def word2 (w : W16) : List Byte := leBytes w.toNat 2

/-- The data that the SMBus port answers with; none is a NACK (R408). (DEDUCED, log entry 48.) -/
def smbData (s : State) (t : SmbKind) (code : Byte) : Option (List Byte) :=
  let p := s.power
  match t with
  | .readByte =>
    if code = 0x00 then some [p.tHot]
    else if code = 0x01 then some [p.tLeft]
    else if code = 0x02 then some [p.tRight]
    else if code = 0x20 then some [(smbLast s).1]
    else if code = 0x21 then some [(smbLast s).2]
    else none
  | .readWord => if code = 0x10 then some (word2 p.pkg) else if code = 0x11 then some (word2 p.vdd) else none
  | .blockRead =>
    if code = 0x30 then some ([p.tHot, p.tLeft, p.tRight] ++ word2 p.pkg ++ word2 p.vdd ++ [(smbLast s).1]) else none
  | .writeByte => none
  | .sendByte => none

/-- The port's address: 0x58 plus the strap pins SMB_ADDR[1:0], which PWR_STRAP holds (R408). -/
def smbAddr (s : State) : BitVec 7 := BitVec.ofNat 7 (0x58 + fld (regGet s .pwrStrap 0) 1 2)

/-- Remainder of bytes by x^8 + x^2 + x + 1, most significant bit first: the PEC of SMBus. (PRESUMED, log entry 159.) -/
def crc8 (bs : List Byte) : Byte :=
  bs.foldl (fun r b => (List.range 8).foldl (fun (x : Byte) _ => if bit x 7 then (x <<< 1) ^^^ 0x07 else x <<< 1) (r ^^^ b)) 0
/-- The PEC byte of a read: over the address for the command byte, the code, the address for the read, the count of a block and
the data. -/
def smbPec (t : SmbTransaction) (code : Byte) (data : List Byte) : Byte :=
  let a : Byte := t.addr.setWidth 8 <<< 1
  crc8 ([a, code, a ||| 1] ++ (if t.kind = .blockRead then [BitVec.ofNat 8 data.length] else []) ++ data)

/-- The answer of the port, with the PEC byte at its end where the controller asks for it; at another address it does not
answer. (DEDUCED, log entry 48.) -/
def smbAnswer (s : State) (t : SmbTransaction) (code : Byte) : Option (List Byte) :=
  if t.addr = smbAddr s then (smbData s t.kind code).map (fun bs => if t.pec then bs ++ [smbPec t code bs] else bs) else none

/-- The port answers from the release of PORST_N on. -/
def smbRead (s : State) (t : SmbTransaction) (code : Byte) : State :=
  { s with power := { s.power with smb := if s.power.porst then none else smbAnswer s t code } }

end Sys2Proof.Machine
end

