-- ==== Sys2Proof/Machine/Rings.lean ====
section
/-! DEFINITION. Rings, doorbells and descriptor fetch (chapter 16, R410 to R420, R437 to R440). -/
namespace Sys2Proof.Machine

/-! Ring registers (Tables 16.1 and 16.2). -/

def ringSizeCode (s : State) (r : Nat) : Nat := fld (regGet s .rkRCfg r) 0 5
/-- S = 2^(SIZE − 1). -/
def ringSlots (s : State) (r : Nat) : Nat := 2 ^ (ringSizeCode s r - 1)
def ringClass (s : State) (r : Nat) : Nat := fld (regGet s .rkRCfg r) 5 2
def ringIrqen (s : State) (r : Nat) : Bool := bit (regGet s .rkRCfg r) 7
def ringVec (s : State) (r : Nat) : Nat := fld (regGet s .rkRCfg r) 8 11
def ringLive (x : Ring) : Bool := x.state == .running || x.state == .stopped

def rkDbovf : Nat := 0
def rkStaledb : Nat := 1
def rkTokovf : Nat := 2
def rkStop : Nat := 3
def rkCfgerr : Nat := 4
def rkCmdrej : Nat := 5
def rkEvent (s : State) (b : Nat) : State := regSetBits s .rkEvt 0 (w64 (2 ^ b))

/-- A write that changes SIZE from 0 enables the ring (R411). -/
def ringEnable (s : State) (r : Nat) : State :=
  let c := regGet s .rkRCidx r
  let s := regPut (regPut (regPut s .rkRPidx r c) .rkRDone r c) .rkRLstamp r 0
  let s := s.setRing r { (s.ring r) with state := .running, tokens := [], used := false, fetched := [],
                                         next := c.setWidth 32, metAt := none, engine := none, checked := false }
  { s with marks := tset false s.marks (r / 64) true }

/-- The Monitor is in recovery (SEC_BOOTSTAT.RECOV): it dispatches no descriptor (R542). -/
def recovering (s : State) : Bool := bit (regGet s .secBootstat 0) 12

/-- The life-cycle state allows rings (Table 21.6). -/
def ringsAllowed (s : State) : Bool := decide (s.otp.lcs < 3)

/-- A write of RK_r_CFG (R411): SIZE is frozen unless the ring is DISABLED. (DEDUCED, log entry 90.) -/
def ringCfgWrite (s : State) (r : Nat) (v : W64) : State :=
  let old := regGet s .rkRCfg r
  let w := regMerge (regRow .rkRCfg) old v
  if (s.ring r).state == .disabled then
    if fld w 0 5 ≠ 0 ∧ !ringsAllowed s then regPut s .rkRCfg r (putFld w 0 5 0)
    else
      let s := regPut s .rkRCfg r w
      if fld w 0 5 ≠ 0 then ringEnable s r else s
  else
    let s := if fld w 0 5 ≠ fld old 0 5 then rkEvent s rkCfgerr else s
    regPut s .rkRCfg r (putFld w 0 5 (fld old 0 5))

/-- A write of EPOCH, SQBASE, CQBASE or CIDX: frozen unless the ring is DISABLED (R411). -/
def ringFrozenWrite (s : State) (r : Nat) (n : RegName) (v : W64) : State :=
  if (s.ring r).state == .disabled then regCommit s n r v
  else if regMerge (regRow n) (regGet s n r) v = regGet s n r then s
  else rkEvent s rkCfgerr

def ringRegWrite (s : State) (r : Nat) (n : RegName) (v : W64) : State :=
  match n with
  | .rkRCfg => ringCfgWrite s r v
  | .rkREpoch | .rkRSqbase | .rkRCqbase | .rkRCidx => ringFrozenWrite s r n v
  | n => regCommit s n r v

def ringStateCode : RingState → Nat
  | .disabled => 0
  | .running => 1
  | .stopped => 2
  | .resetting => 3
def ringStatRead (s : State) (r : Nat) : W64 := w64 (ringStateCode (s.ring r).state + 256 * (s.ring r).tokens.length)

/-! Polls (R415, R417). -/

def pollSweep (s : State) : Nat := fld (regGet s .rkPoll 0) 16 10
def pollIntv (s : State) : Nat := fld (regGet s .rkPoll 0) 0 14

/-- The reads of n 8-byte words from `addr` on, cut at Max_Read_Request_Size (R400). -/
def readWords (s : State) (mk : Nat → Nat → OutKind) (addr : W64) (first n : Nat) : State :=
  let k := s.link.mrrs / 8
  foldS (List.range ((n + k - 1) / k)) (fun i s =>
    request s (mk (first + i * k) (min k (n - i * k))) (addr + w64 (8 * (first + i * k))) (8 * min k (n - i * k)) []) s

/-- A poll trigger: a poll starts, or the trigger merges into the one after the poll that runs.
(DESIGN CHOICE, log entry 91.) -/
def pollStart (s : State) : State :=
  if s.poll.running then { s with poll := { s.poll with again := true } }
  else
    let n := s.poll.count + 1
    let sweep := pollSweep s ≠ 0 && n % pollSweep s == 0
    let s := { s with poll := { running := true, count := n, start := s.tick, sweep, groups := List.range 128 } }
    readWords s .groups (regGet s .rkGrpbase 0) 0 128

/-- INTV × 100 ns after the start of the previous poll (50 ticks of 2 ns for each 100 ns). -/
def pollExpiry (s : State) : State :=
  if pollIntv s ≠ 0 ∧ s.poll.start + 50 * pollIntv s ≤ s.tick then pollStart s else s

/-- A poll with nothing left to read ends; a merged trigger starts the next. -/
def pollEnd (s : State) : State :=
  let p := s.poll
  if p.running && p.groups.isEmpty && p.doors.isEmpty then
    let s := { s with poll := { p with running := false, again := false } }
    if p.again then pollStart s else s
  else s

def leWord (bs : List Byte) (off n : Nat) : Nat := leNat ((bs.drop off).take n)

/-- A group word has been read, or its read has failed: when it differs from the one seen last, when the group is marked, or in
a sweep, the doorbell words of the group are read (R411, R415).  The mark that these reads answer is gone, one set from now on
is for the next poll. -/
def groupUse (s : State) (g : Nat) (w : Option W64) : State :=
  let seen := tget 0 s.groupSeen g
  let changed := w.any (· != seen) || tget false s.marks g || s.poll.sweep
  let p := { s.poll with groups := s.poll.groups.filter (fun x => x ≠ g) }
  if changed then
    let p := { p with doors := p.doors ++ (List.range 64).map (· + 64 * g), words := tset 0 p.words g (w.getD seen) }
    readWords { s with poll := p, marks := tset false s.marks g false } .doors (regGet s .rkDbbase 0) (64 * g) 64
  else { s with poll := p }

def coversGroup (g : Nat) (q : OutReq) : Bool :=
  q.res.isSome && (match q.kind with | .groups f n => decide (f ≤ g) && decide (g < f + n) | _ => false)
def coversDoor (r : Nat) (q : OutReq) : Bool :=
  q.res.isSome && (match q.kind with | .doors f n => decide (f ≤ r) && decide (r < f + n) | _ => false)
def groupsOf (q : OutReq) : List Nat := match q.kind with | .groups f n => (List.range n).map (· + f) | _ => []
def doorsOf (q : OutReq) : List Nat := match q.kind with | .doors f n => (List.range n).map (· + f) | _ => []

/-- A group-word read completes (R415); a failed read is counted and dropped, and only a sweep or a mark has the doorbell words of
its groups read. -/
def groupDone (s : State) (g : Nat) : State :=
  if !(s.poll.running && s.poll.groups.contains g) then s
  else match findOut s (coversGroup g) with
  | none => s
  | some q => match q.res with
    | some (.data bs) =>
      let first := (groupsOf q).headD 0
      let s := groupUse s g (some (w64 (leWord bs (8 * (g - first)) 8)))
      let s := if (groupsOf q).any (s.poll.groups.contains ·) then s else dropOut s q.id
      pollEnd s
    | _ =>
      let s := hlEvent (dropOut s q.id) hlCto
      pollEnd (foldS ((groupsOf q).filter (s.poll.groups.contains ·)) (fun k s => groupUse s k none) s)

/-- A doorbell word is accepted or ignored (R416). (DEDUCED, log entry 54.) -/
def doorUse (s : State) (r : Nat) (w : W64) : State :=
  let x := s.ring r
  let pidx : W32 := w.setWidth 32
  let epoch : W32 := w.extractLsb' 32 32
  let old := regGet32 s .rkRPidx r
  if !ringLive x then s
  else if epoch ≠ regGet32 s .rkREpoch r then rkEvent s rkStaledb
  else if pidx = old then s
  else
    let span := (pidx - regGet32 s .rkRDone r).toNat
    if (pidx - old).toNat ≤ span ∧ span ≤ ringSlots s r then regPut s .rkRPidx r (pidx.setWidth 64)
    else rkEvent s rkDbovf

/-- Once every doorbell word of a group has been read, its group word is recorded. -/
def groupRecord (s : State) (g : Nat) : State :=
  if s.poll.doors.any (fun r => r / 64 == g) then s
  else { s with groupSeen := tset 0 s.groupSeen g (tget 0 s.poll.words g) }

/-- A doorbell word read completes; of a failed read nothing is used, and the next poll reads the group again (R415). -/
def doorDone (s : State) (r : Nat) : State :=
  if !(s.poll.running && s.poll.doors.contains r) then s
  else match findOut s (coversDoor r) with
  | none => s
  | some q => match q.res with
    | some (.data bs) =>
      let first := (doorsOf q).headD 0
      let s := doorUse s r (w64 (leWord bs (8 * (r - first)) 8))
      let s := { s with poll := { s.poll with doors := s.poll.doors.filter (fun x => x ≠ r) } }
      let s := if (doorsOf q).any (s.poll.doors.contains ·) then s else dropOut s q.id
      pollEnd (groupRecord s (r / 64))
    | _ =>
      let s := hlEvent (dropOut s q.id) hlCto
      let g := r / 64
      let seen := tget 0 s.groupSeen g
      let s := { s with poll := { s.poll with doors := s.poll.doors.filter (fun x => !(doorsOf q).contains x)
                                              words := tset 0 s.poll.words g seen }
                        marks := tset false s.marks g true }
      pollEnd s

/-! Descriptor fetch (R420). -/

def fetchReq (r : Nat) (q : OutReq) : Bool := match q.kind with | .fetch k _ _ => k == r | _ => false
/-- Descriptors that are fetched and have not started, those of reads under way among them (R420). -/
def fetchedTotal (s : State) : Nat :=
  (s.rings.map (fun x => x.2.fetched.length)).sum +
  (((s.link.out.filterMap (fun q => match q.kind with | .fetch k _ n => some (k, n) | _ => none)).dedup).map (·.2)).sum

/-- How many descriptors the next read of a ring takes: at most 8, those that are available, that the ring and the
engine have room for, and that lie before the end of the ring's slots. -/
def fetchCount (s : State) (r : Nat) : Nat :=
  let x := s.ring r
  let avail := (regGet32 s .rkRPidx r - x.next).toNat
  let toEnd := ringSlots s r - x.next.toNat % ringSlots s r
  min 8 (min avail (min toEnd (min (16 - x.fetched.length) (4096 - fetchedTotal s))))

/-- DESIGN CHOICE, log entry 81. -/
def descFetch (s : State) (r : Nat) : State :=
  let x := s.ring r
  let n := fetchCount s r
  if !ringLive x || n == 0 || (findOut s (fetchReq r)).isSome then s
  else requestRead s (.fetch r x.next n) (regGet s .rkRSqbase r + w64 (64 * (x.next.toNat % ringSlots s r))) (64 * n)

/-- The descriptors of a read of n slots. -/
def descList (q : W32) (bs : List Byte) (n : Nat) : List Desc :=
  (List.range n).map (fun i => { seqNo := q + w32 i, bytes := (bs.drop (64 * i)).take 64 })

/-- A descriptor fetch completes, or fails: then its first descriptor stands for the failure (R420).
(DEDUCED, log entry 82.) -/
def descFetchDone (s : State) (r : Nat) : State :=
  match readResult s (fetchReq r), findOut s (fetchReq r) with
  | some res, some q =>
    let x := s.ring r
    let s := dropRead s (fetchReq r)
    if !ringLive x then s
    else match q.kind, res with
    | .fetch _ q0 n, .ok bs => s.setRing r { x with fetched := x.fetched ++ descList q0 bs n, next := q0 + w32 n }
    | .fetch _ q0 _, .error (code, a) =>
      let d : Desc := { seqNo := q0, fail := some (1 + 16 * code, a) }
      s.setRing r { x with fetched := x.fetched ++ [d], next := q0 + 1 }
    | _, _ => s
  | _, _ => s

/-! Launch tokens (R422). -/

def tokenPut (s : State) (r : Nat) (t : Token) : State :=
  let x := s.ring r
  if ringLive x && decide (x.tokens.length < 16) then s.setRing r { x with tokens := x.tokens ++ [t] }
  else rkEvent s rkTokovf

/-! Records and their interrupts (R433 to R437). -/

/-- Address and bytes of the completion record of SEQ q (Table 16.13): `body` is bytes 0 to 19. -/
def recordOf (s : State) (r : Nat) (q mcver : W32) (o : Outcome) : W64 × List Byte :=
  let sz := ringSizeCode s r
  let phase := 1 - q.toNat / 2 ^ (sz - 1) % 2
  let ringw := r + 8192 * phase + 16384 * o.taint.toNat + 32768 * (decide (o.status = 0x10)).toNat
  (regGet s .rkRCqbase r + w64 (32 * (q.toNat % ringSlots s r)),
   (o.body ++ zeroBytes 20).take 20 ++ leBytes mcver.toNat 4 ++ leBytes q.toNat 4 ++ leBytes ringw 2 ++
     leBytes o.status 1 ++ leBytes o.detail 1)

/-- A ring stops (R423): RK_EVT.STOP is set and RK_STOPLOG takes the first stop. -/
def ringStop (s : State) (r : Nat) (q : W32) (o : Outcome) : State :=
  let x := s.ring r
  if x.state != .running then s
  else
    let e := w64 (r + o.status * 2 ^ 16 + o.detail * 2 ^ 24 + q.toNat * 2 ^ 32)
    let log := regGet s .rkStoplog 0
    let s := if bit log 15 then s else regPut s .rkStoplog 0 (setBit e 15 true)
    rkEvent (s.setRing r { x with state := .stopped, metAt := none }) rkStop

def stopsRing (o : Outcome) (halt : Bool) : Bool :=
  o.status == 0x20 || o.status == 0x21 || o.status == 0x40 || (halt && o.status != 0 && o.status != 0x12)

/-- The moderation of R437 for one record written: true asks for a message. -/
def moderate (s : State) (r : Nat) (irq : Bool) : State :=
  if !ringIrqen s r then s
  else
    let x := s.ring r
    let p := x.pend + 1
    let cnt := max 1 (fld (regGet s .rkRMod r) 0 8)
    if irq || decide (cnt ≤ p) then msixAsk (s.setRing r { x with pend := 0 }) (ringVec s r)
    else s.setRing r { x with pend := p, since := if x.pend = 0 then s.tick else x.since }

/-- The oldest pending record has waited MODTIME µs (500 ticks each). -/
def modTimeout (s : State) (r : Nat) : State :=
  let x := s.ring r
  let t := fld (regGet s .rkRMod r) 8 16
  if ringIrqen s r && t != 0 && x.pend != 0 && decide (x.since + 500 * t ≤ s.tick) then
    msixAsk (s.setRing r { x with pend := 0 }) (ringVec s r)
  else s

/-- The record of a completed descriptor is written (R433): it waits for the link in its place, and counts for
moderation. -/
def recordWrite (s : State) (r : Nat) (q : W32) : State :=
  let x := s.ring r
  match (if s.power.rkDead then none else x.started.find? (fun e => e.seqNo == q && !e.issued && e.done.isSome)) with
  | none => s
  | some e => match e.done with
    | none => s
    | some (_, a, bs) =>
      let mark := fun (y : Started) => if y == e then { y with issued := true } else y
      -- the record of a descriptor from before a reset moves no DONE
      let s := s.setRing r { x with started := if e.stale then x.started.erase e else x.started.map mark }
      let s := request s (if e.stale then .pastRecord else .record r q) a 32 bs
      moderate s r (e.bytes.getD 1 0 &&& 4 != 0)

def rkLogClear (s : State) (v : W64) : State := if bit v 0 then regPut s .rkStoplog 0 0 else s

end Sys2Proof.Machine
end

