-- ==== Sys2Proof/Machine/Axis.lean ====
section
/-! DEFINITION. Axis time (chapter 02): pins and filters, the axis sources, interpolation, the Axis Bus and
the commands that act on an axis. -/
namespace Sys2Proof.Machine

/-- The die that computes axis n (R23). -/
def axisDie (n : Nat) : Nat := n / 16
/-- Position of local pin k (0–31 TP, 32–39 LV) of a die among the 80 timing inputs. -/
def pinIx (die k : Nat) : Nat := die * 40 + k

/-! Fields of the axis registers (Tables 2.13 to 2.15). -/
def axCfgOf (s : State) (n : Nat) : W64 := regGet s .axCfg n
def axEn (s : State) (n : Nat) : Bool := bit (axCfgOf s n) 0
def axMode (s : State) (n : Nat) : Nat := fld (axCfgOf s n) 1 4
def axFilt (s : State) (n : Nat) : Nat := fld (axCfgOf s n) 5 3
def axRatek (s : State) (n : Nat) : Nat := fld (axCfgOf s n) 8 3
def axZmode (s : State) (n : Nat) : Nat := fld (axCfgOf s n) 11 2
def axZgate (s : State) (n : Nat) : Nat := fld (axCfgOf s n) 13 2
def axDirinv (s : State) (n : Nat) : Bool := bit (axCfgOf s n) 15
def axEdgeKind (s : State) (n : Nat) : Nat := fld (axCfgOf s n) 16 2
def axLostOnErr (s : State) (n : Nat) : Bool := bit (axCfgOf s n) 18
def axDzok (s : State) (n : Nat) : Bool := bit (axCfgOf s n) 19
def axIn (s : State) (n j : Nat) : Nat := fld (regGet s .axSrc n) (8 * j) 6
def axBase (s : State) (n : Nat) : Nat := fld (regGet s .axSrc n) 24 5
def axMinper (s : State) (n : Nat) : Nat := fld (regGet s .axAux n) 0 24
def axPort (s : State) (n : Nat) : Nat := fld (regGet s .axAux n) 24 2
def axRaxis (s : State) (n : Nat) : Nat := fld (regGet s .axAux n) 26 5

/-- Status bits of Table 2.17. -/
def stQerr : Nat := 8
def stFsfault : Nat := 9
def stFrmerr : Nat := 10
def stSeqgap : Nat := 11
def stTmout : Nat := 12
def stPshort : Nat := 13
def stCfgerr : Nat := 14
def stIdx : Nat := 15
def stDozelost : Nat := 16

def modCore (s : State) (n : Nat) (f : AxisCore → AxisCore) : State :=
  s.setAxis n { s.axis n with core := f (s.axis n).core }
def axStat (s : State) (n b : Nat) : State := regSetBits s .axStat n (w64 (1 <<< b))
/-- An axis with the marks of this tick: those of an earlier one are gone. -/
def axMarks (s : State) (n : Nat) : Axis :=
  let x := s.axis n
  if x.marked = s.tick then x else { x with marked := s.tick, hits := 0, told := false }
/-- An event of this tick's stage sets a status bit: a write of the same stage does not clear it (R8, R617).
(DEDUCED, log entry 165.) -/
def axHit (s : State) (n b : Nat) : State :=
  let x := axMarks s n
  axStat (s.setAxis n { x with hits := x.hits ||| w64 (1 <<< b) }) n b
/-- A discarded edge or frame sets its status bit and counts in ERRCNT. -/
def axErr (s : State) (n b : Nat) : State := regCount (axHit s n b) .axErrcnt n 1

def isLost (x : AxState) : Bool := x == .lost || x == .lostIndex

/-- The axis enters LOST (R67): it keeps its value, and entering sets its bit in AX_EVT. -/
def axLose (s : State) (n : Nat) (how : AxState) : State :=
  let c := (s.axis n).core
  let s1 := modCore s n (fun c => { c with state := how })
  if isLost c.state then s1
  else
    let t := regSetBits s1 .axEvt (axisDie n) (w64 (1 <<< (n % 16)))
    t.setAxis n { axMarks t n with told := decide (s.reports.length < t.reports.length) }

/-! Pins (R41 to R44). -/

/-- Sampled pad level of pin i, j ticks ago (history, newest first), after INV; an open pair reads 1 after INV (R586). -/
def pinSample (s : State) (i j : Nat) : Bool :=
  ((s.openHist.drop j).head?.getD 0).getLsbD i || ((s.pinHist.drop j).head?.getD 0).getLsbD i != bit (regGet s .axPin i) 0

/-- The filtered level of pin i: the level first sampled ten ticks ago is taken when FILT + 1 consecutive
samples show it, else the level in force stays (R41, R44, Table 2.3). -/
def filtered (s : State) (i filt : Nat) (old : Bool) : Bool :=
  let l := pinSample s i 10
  if (List.range (filt + 1)).all (fun j => pinSample s i (10 - j) == l) then l else old

/-- The level that the filter of pin i has in force, found by running it over the samples that are kept.
(DESIGN CHOICE, log entry 121.) -/
def settled (s : State) (i filt : Nat) : Bool :=
  (List.range 21).foldl (fun old k =>
    let l := pinSample s i (30 - k)
    if (List.range (filt + 1)).all (fun j => pinSample s i (30 - k - j) == l) then l else old) (pinSample s i 30)

/-- The filtered level of input code c (Table 2.4): code 63 reads as 0. -/
def inputLevel (s : State) (die c filt : Nat) (old : Bool) : Bool :=
  if c < 40 then filtered s (pinIx die c) filt old else false

/-- FSFAULT of pin i: an LV pair open for 1 µs or longer with FSDET = 1 (Table 23.5, R586). -/
def fsFault (s : State) (i : Nat) : Bool :=
  bit (regGet s .axPin i) 13 && decide (32 ≤ i % 40) && decide (500 ≤ tget 0 s.lvOpen i)

/-! Interpolation (R59). -/

/-- `accept` of R59, in a tick with an accepted edge or frame. -/
def axAccept (ratek : Nat) (c : AxisCore) (erev : Bool) (newpos inc : W64) : AxisCore :=
  let dt := c.since + 1
  let start := erev != c.rev || c.nedge == 0
  let inst := w64 (inc.toNat * 65536 / dt)
  { c with
    rate := if start then 0 else if c.nedge = 1 then inst else c.rate + (inst - c.rate).sshiftRight ratek
    nedge := if start then 1 else 2
    rev := erev, pos := newpos, step := inc, since := 0, stalled := false
    fresh := false, edge := true, edgecnt := c.edgecnt + 1 }

/-- `tick` of R59, in every tick.  A LOAD applied in this tick makes the value of the tick the loaded one (R65). -/
def axInterp (stallt : Nat) (c : AxisCore) : AxisCore :=
  let since := if !c.edge && c.since < 0xFFFFFF then c.since + 1 else c.since
  let stall := stallt != 0 && decide (stallt < since)
  let rate := if stall then 0 else c.rate
  let lim := if c.step = 0 then 0 else (c.step - 1).toNat
  let ahead := w64 (min (rate.toNat * since / 65536 % 2 ^ 64) lim)
  let cand := if c.rev then c.pos - ahead else c.pos + ahead
  let back := sdiff cand c.disp
  let cand := if (!c.rev && back < 0) || (c.rev && back > 0) then c.disp else cand
  let shift := match c.held with | some v => v - cand | none => 0
  { c with
    since := since, rate := rate, nedge := if stall then 0 else c.nedge, stalled := c.stalled || stall
    pos := c.pos + shift, disp := cand + shift, edge := false, held := none, illegal := false }

/-- Rate 0 and no edge seen, at value v: enable, and LOAD or an index load out of LOST (R63, R65, R616). -/
def axRestart (c : AxisCore) (v : W64) : AxisCore :=
  { c with pos := v, disp := v, step := 0, rate := 0, since := 0, nedge := 0, stalled := false, fresh := true,
           edge := false, held := none }

/-! Sources. -/

/-- Decode one quadrature transition from the levels decoded last to the filtered levels (R45 to R47, R616).
(DEDUCED, log entry 19.) -/
def quadStep (s : State) (n : Nat) : State :=
  let x := s.axis n
  let c := x.core
  if c.in0 == x.f0 && c.in1 == x.f1 then s
  else
    let s := modCore s n (fun c => { c with in0 := x.f0, in1 := x.f1 })
    if c.in0 != x.f0 && c.in1 != x.f1 then
      -- illegal transition (R47)
      let s := axErr (modCore s n (fun c => { c with illegal := true })) n stQerr
      if axLostOnErr s n && c.state == .run then axLose s n .lost else s
    else
      -- Table 2.6: from (A, B), a change of A alone is forward when the new A differs from B, of B alone when equal
      let fwd := if c.in0 != x.f0 then x.f0 != x.f1 else x.f0 == x.f1
      let rev := (!fwd) != axDirinv s n
      if c.state == .run then
        let inc := regGet s .axInc n
        let move := c.fresh || rev == c.rev
        let p := if move then (if rev then c.pos - inc else c.pos + inc) else c.pos
        modCore s n (fun c => axAccept (axRatek s n) c rev p inc)
      else modCore s n (fun c => { c with rev := rev, edgecnt := c.edgecnt + 1 })

/-- The qualified index level (ZGATE). -/
def zQualified (gate : Nat) (x : Axis) : Bool :=
  x.f2 && (gate % 2 == 0 || x.f0) && (gate / 2 == 0 || x.f1)

/-- A rising edge of the qualified index level (R48, R66, R616, Table 2.7, Table 2.11). (DEDUCED, log entry 14.) -/
def indexStep (s : State) (n : Nat) : State :=
  let x := s.axis n
  let c := x.core
  let q := zQualified (axZgate s n) x
  let s := modCore s n (fun c => { c with zq := q })
  if !q || c.zq || c.illegal || axZmode s n == 0 then s
  else
    let s := axHit (modCore s n (fun c => { c with zcap := c.pos })) n stIdx
    if c.state == .lostIndex || (axZmode s n == 3 && c.state == .run) then
      let p := if c.rev then regGet s .axZval n + regGet s .axInc n else regGet s .axZval n
      modCore s n (fun c =>
        if c.state == .run then { c with zerr := c.zcap - p, pos := p, disp := p, jump := true }
        else { axRestart c p with zerr := c.zcap - p, state := .run, jump := true })
    else s

/-- An accepted STEP or pulse edge is of the kind EDGE selects (Table 2.13). -/
def edgeKind (kind : Nat) (level : Bool) : Bool := kind == 2 || (kind == 0 && level) || (kind == 1 && !level)

/-- Decode a STEP edge (R49). -/
def stepStep (s : State) (n : Nat) : State :=
  let x := s.axis n
  let c := x.core
  if c.in0 == x.f0 then s
  else
    let s := modCore s n (fun c => { c with in0 := x.f0, in1 := x.f1 })
    if c.state == .run && edgeKind (axEdgeKind s n) x.f0 then
      let rev := x.f1 != axDirinv s n
      let inc := regGet s .axInc n
      modCore s n (fun c => axAccept (axRatek s n) c rev (if rev then c.pos - inc else c.pos + inc) inc)
    else s

/-- Decode a periodic pulse edge, or discard it under MINPER (R50). -/
def pulseStep (s : State) (n : Nat) : State :=
  let x := s.axis n
  let c := x.core
  if c.in0 == x.f0 then s
  else
    let s := modCore s n (fun c => { c with in0 := x.f0 })
    if c.state == .run && edgeKind (axEdgeKind s n) x.f0 then
      if (match c.pulse with | some t => decide (t < axMinper s n) | none => false) then axErr s n stPshort
      else modCore s n (fun c =>
        { axAccept (axRatek s n) c false (c.pos + 0x10000) 0x10000 with pulse := some 0 })
    else s

/-- The CRC of a TSI frame over bit times 1 to 72 (R53). -/
def tsiCrc (f : BitVec 90) : W16 :=
  (List.range 72).foldl (fun crc i =>
    let fb := crc.getLsbD 15 != f.getLsbD (i + 1)
    let crc := crc <<< 1
    if fb then crc ^^^ 0x1021 else crc) 0xFFFF

/-- LOAD on a counting or frame axis (R65): the value becomes v and JUMP is set; out of LOST the axis runs with rate 0.
(DEDUCED, log entry 167.) -/
def loadCore (v : W64) (c : AxisCore) : AxisCore :=
  if isLost c.state then { axRestart c v with state := .run, jump := true, held := some v, quiet := 0 }
  else { c with pos := c.pos + (v - c.disp), disp := v, ext := 0, fresh := true, jump := true, held := some v }

/-- An accepted MOTION frame at position v, or the first frame of an axis in LOST (R54, R58, R63, R67). A frame that takes
the axis out of LOST starts again with rate 0 and one edge seen, whatever rate and interval the axis had.
(DESIGN CHOICE, log entry 150.) -/
def motionCore (ratek : Nat) (v : W64) (c : AxisCore) : AxisCore :=
  let d := sdiff v c.pos
  let rev := if d < 0 then true else if d > 0 then false else c.rev
  let c' := axAccept ratek c rev v (w64 d.natAbs)
  if isLost c.state then
    { axRestart c v with state := .run, rev := rev, nedge := 1, edge := true, fresh := false, jump := true,
                         edgecnt := c.edgecnt + 1, quiet := 0 }
  else { c' with quiet := 0 }

/-- An accepted RELOAD frame (R54): position and value become v, rate and direction stay, and interpolation starts
again from v. (DEDUCED, log entry 167.) -/
def reloadCore (v : W64) (c : AxisCore) : AxisCore :=
  if isLost c.state then
    { axRestart c v with state := .run, jump := true, edgecnt := c.edgecnt + 1, quiet := 0 }
  else { c with pos := v, disp := v, since := 0, edge := true, jump := true, edgecnt := c.edgecnt + 1, quiet := 0 }

/-- A frame acts on an axis, before a LOAD of the same stage (Table 2.11). -/
def frameOn (s : State) (n : Nat) (f : AxisCore → AxisCore) : State :=
  let x := s.axis n
  match x.loadFrom, x.core.held with
  | some c, some v => s.setAxis n { x with core := loadCore v (f c), loadFrom := some (f c) }
  | _, _ => modCore s n f
def motionFrame (s : State) (n : Nat) (v : W64) : State := frameOn s n (motionCore (axRatek s n) v)

/-- A received TSI frame: discarded, or accepted as MOTION or RELOAD (R52 to R54). A sequence gap is a SEQ that does not
follow that of the last accepted frame since the enable; the first frame has none to follow. (DESIGN CHOICE, log entry 151.) -/
def tsiFrame (s : State) (n : Nat) (f : BitVec 90) : State :=
  let ty := fld f 1 4
  let seq := fld f 5 4
  let v := w64 (fld f 9 64)
  if f.getLsbD 0 || !f.getLsbD 89 || ty > 1 || fld f 73 16 != (tsiCrc f).toNat then axErr s n stFrmerr
  else
    let gap := match (s.axis n).core.seqNo with | some p => seq != (p + 1) % 16 | none => false
    let s := if gap then axErr s n stSeqgap else s
    frameOn s n (fun c =>
      (if ty == 0 then motionCore (axRatek s n) v else reloadCore v) { c with seqNo := some seq })

/-- The VALUEs of a remote axis whose stage has come act in their order of arrival (R58, R512). -/
def remoteStep (s : State) (n : Nat) : State :=
  let x := s.axis n
  let s := s.setAxis n { x with frames := x.frames.filter (fun p => s.tick < p.1) }
  (x.frames.filter (fun p => p.1 ≤ s.tick)).foldl (fun s p => motionFrame s n p.2) s

/-- One bit of the TSI wires: data is sampled at an accepted rising edge of the clock; a frame starts with a 0 after
idle and ends with its 90th bit (R51, R52). -/
def tsiBit (s : State) (n : Nat) : State :=
  let x := s.axis n
  let rise := x.f0 && !x.core.in0
  let s := modCore s n (fun c => { c with in0 := x.f0, in1 := x.f1 })
  if !rise || (x.core.tsiCnt == 0 && x.f1) then s
  else
    let b := x.core.tsiBits ||| (BitVec.ofNat 90 x.f1.toNat <<< x.core.tsiCnt)
    if x.core.tsiCnt == 89 then
      tsiFrame (modCore s n (fun c => { c with tsiBits := 0, tsiCnt := 0 })) n b
    else modCore s n (fun c => { c with tsiBits := b, tsiCnt := x.core.tsiCnt + 1 })

/-- An LVDS failsafe fault puts a counting axis in LOST (R67, Table 2.10). (DESIGN CHOICE, log entry 122.) -/
def failsafe (s : State) (n : Nat) : State :=
  if axEn s n && decide (1 ≤ axMode s n) && decide (axMode s n ≤ 3) then axLose (axStat s n stFsfault) n .lost else s

/-- The axis takes a pin as an input that has a failsafe fault. -/
def hasFault (s : State) (n : Nat) (test : Nat → Bool) : Bool :=
  (List.range 3).any (fun j => axIn s n j < 40 && test (pinIx (axisDie n) (axIn s n j)))

/-- The source step of the tick for pin events not carried out yet: the edge first, then the index event (R71).
(DEDUCED, log entry 13.) -/
def sourceStep (s : State) (n : Nat) : State :=
  if !axEn s n then s
  else match axMode s n with
    | 1 => indexStep (quadStep s n) n
    | 2 => stepStep s n
    | 3 => pulseStep s n
    | 4 => tsiBit s n
    | 7 => remoteStep s n
    | _ => s

/-! Derived axes (R56, R57). -/

/-- A die that runs, whose AX0 counter the axes that step use: the counters of two running dies are equal (R70). -/
def runDie (s : State) : Nat := if (s.die 0).doze then 1 else 0

/-- The base value in the tick being computed, in the unit of the base. AX0 is not delayed on the Axis Bus, so its value
in the tick of use is six ticks (12 counts) ahead. -/
def baseValue (s : State) (b : Nat) (ahead : Nat) : W64 :=
  if b = 0 then (s.die (runDie s)).ax0 + w64 (ahead * 131072) else (s.axis b).core.disp

def derivedValue (num : Int) (den : Nat) (c : AxisCore) (bv : W64) : W64 :=
  c.anchor + iw64 ((sdiff bv c.bref * num).fdiv den)

def axNum (s : State) (n : Nat) : Int := (regGet32 s .axNum n).toInt
def axDen (s : State) (n : Nat) : Nat := (regGet32 s .axDen n).toNat

/-- The rebase of a derived axis: k = d / DEN truncated; the value does not change. -/
def rebase (num : Int) (den : Nat) (c : AxisCore) (bv : W64) : AxisCore :=
  let d := sdiff bv c.bref
  if d.natAbs < 2 ^ 56 then c
  else
    let k := d.tdiv den
    { c with anchor := c.anchor + iw64 (k * num), bref := c.bref + iw64 (k * den) }

/-- STATE, DIR and JUMP of the base axis. -/
def baseBus (s : State) (b : Nat) : BusVal :=
  if b = 0 then { state := .run, jump := (s.die (runDie s)).ax0jump }
  else if (s.die (axisDie b)).doze then { state := .lost, rev := (s.axis b).core.rev }
  else { state := (s.axis b).core.state, rev := (s.axis b).core.rev, jump := (s.axis b).core.jump }

/-- A derived axis takes its value by the formula in every tick, in LOST too. (DEDUCED, log entry 168.) -/
def derivedStep (s : State) (n : Nat) : State :=
  let b := axBase s n
  let bv := baseValue s b 6
  let bb := baseBus s b
  let num := axNum s n
  let c := (s.axis n).core
  let s := if isLost bb.state && !isLost c.state then axLose s n .lost else s
  -- an axis that returns to RUN carries JUMP, its base with it or not (R448)
  let back := isLost (s.axis n).core.state && !isLost bb.state
  modCore s n (fun c =>
    let c := if c.reanchor then { c with bref := bv, reanchor := false } else c
    let c := rebase num (axDen s n) c bv
    { c with disp := derivedValue num (axDen s n) c bv
             state := if isLost bb.state then .lost else bb.state
             rev := bb.rev != decide (num < 0), jump := c.jump || bb.jump || back })

/-! The tick (R59, R617, Table 2.3). -/

/-- Tick 11: interpolation of one axis. -/
def interpStep (s : State) (n : Nat) : State :=
    let m := axMode s n
    if m = 6 then derivedStep s n
    else
      let c := (s.axis n).core
      if isLost c.state then modCore s n (fun c => { c with edge := false, held := none, illegal := false })
      else if m = 5 || m = 0 then modCore s n (fun c => { c with disp := c.pos, held := none })
      else
        let s := modCore s n (axInterp (fld (regGet s .axStallt n) 0 24))
        if m = 4 || m = 7 then
          let tmo := fld (regGet s .axTmo n) 0 20
          if tmo != 0 && decide (tmo * 500 ≤ (s.axis n).core.quiet) then axLose (axStat s n stTmout) n .lost else s
        else s

/-- Tick 12: what the unit launches for one axis (Table 2.2). -/
def busOf (c : AxisCore) : BusVal := { value := c.disp, state := c.state, rev := c.rev, jump := c.jump }

/-- The start of a tick for one axis: time since the last pulse edge and the last frame (R50, R67), the software rate of
one tick, and the levels that this tick's decode stage sees (R44, R55). -/
def sourceRate (s : State) (n : Nat) : State :=
  let x := s.axis n
  let c := { x.core with jump := false, pulse := x.core.pulse.map (fun t => min (t + 1) 0x1000000)
                         quiet := x.core.quiet + 1 }
  let x := { x with pre := c, core := c, loadFrom := none, preStat := regGet s .axStat n, preErr := regGet s .axErrcnt n,
                     preEvt := bit (regGet s .axEvt (axisDie n)) (n % 16) }
  let x :=
    if axEn s n && axMode s n == 5 then
      let r := (regGet s .axSwrate n).toInt
      let e := BitVec.ofNat 80 (c.pos.toNat * 65536 + c.ext.toNat) + BitVec.ofInt 80 r
      { x with core := { c with pos := w64 (e.toNat / 65536), ext := BitVec.ofNat 16 e.toNat
                                rev := if r < 0 then true else if r > 0 then false else c.rev } }
    else x
  let d := axisDie n
  let f := axFilt s n
  s.setAxis n { x with f0 := inputLevel s d (axIn s n 0) f x.f0, f1 := inputLevel s d (axIn s n 1) f x.f1,
                       f2 := inputLevel s d (axIn s n 2) f x.f2 }

/-- The enabled axes of the dies that are not in DOZE: every other axis holds its value. -/
def liveAxes (s : State) : List Nat :=
  (List.range 32).filter (fun n => n ≠ 0 && axEn s n && !(s.die (axisDie n)).doze)

/-- How many derived axes lie between axis n and a base that is not derived: bases are computed first, so that an axis
takes the value of the same tick (R56). A base that becomes a derived axis after the enable is followed through the chain.
(DESIGN CHOICE, log entry 152.) -/
def baseDepth (s : State) : Nat → Nat → Nat
  | 0, _ => 0
  | f + 1, n => if n ≠ 0 && axEn s n && axMode s n == 6 then baseDepth s f (axBase s n) + 1 else 0

/-- The update and interpolation stages of all axes, and the launch of the snapshot: counting, software and frame axes
first, then the derived axes, which take the base value of the same tick (R40, R56). (DESIGN CHOICE, log entry 119.) -/
def axesTick (s : State) : State :=
  let l := liveAxes s
  let s := foldS l (fun n s => sourceStep s n) s
  let drv := l.filter (fun n => axEn s n && axMode s n == 6)
  let drv := if drv.isEmpty then [] else (List.range 32).flatMap (fun k => drv.filter (fun n => baseDepth s 32 n == k + 1))
  let s := foldS (l.filter (fun n => !(axEn s n && axMode s n == 6))) (fun n s => interpStep s n) s
  let s := foldS drv (fun n s => interpStep s n) s
  let shot := (List.range 32).foldl (fun t n =>
    let b := busOf (s.axis n).core
    let b := if (s.die (axisDie n)).doze && n ≠ 0 then { b with state := .lost, jump := false } else b
    tset {} t n b) []
  let line := s.busLine ++ [shot]
  if line.length ≤ 5 then { s with busLine := line }
  else { s with bus := line.head?.getD [], busLine := line.tail }

/-- What every consumer of a die uses for axis n in this tick (R39); AX0 is the die's own counter (R37, R70). -/
def busVal (s : State) (die n : Nat) : BusVal :=
  if n = 0 then { value := (s.die die).ax0, state := .run, jump := (s.die die).ax0jump } else tget {} s.bus n

/-- The level a pad carries when an output drives it, before timers (R43, R450, R587): FUNC 1 follows the alarm latch after
INV, FUNC 3 drives low, FUNC 4 high, whatever INV holds. -/
def padDriven (s : State) (i : Nat) (oc : Bool) (ext : Bool) : Bool :=
  let p := regGet s .axPin i
  match fld p 1 3 with
  | 1 => s.latch.getLsbD i != bit p 0
  | 2 => oc != bit p 0
  | 3 => false
  | 4 => true
  | _ => ext

/-! Set-up writes and commands (R63 to R66). -/

/-- EN changes from 0 to 1 (R63): an axis that goes from OFF to RUN carries JUMP in that tick (R448). (DEDUCED, log entry 18.) -/
def axEnable (s : State) (n : Nat) : State :=
  let d := axisDie n
  let lv := fun j => if axIn s n j < 40 then settled s (pinIx d (axIn s n j)) (axFilt s n) else false
  let x := s.axis n
  let m := axMode s n
  let v := regGet s .axLoadv n
  let c0 := axRestart { x.core with ext := 0, rev := false, pulse := none, seqNo := none, quiet := 0, jump := false,
                                    illegal := false, in0 := lv 0, in1 := lv 1, tsiBits := 0, tsiCnt := 0 } v
  let x1 := { x with f0 := lv 0, f1 := lv 1, f2 := lv 2, frames := [], loadFrom := none }
  let c1 := { c0 with zq := zQualified (axZgate s n) x1, state := .run, jump := true }
  if m = 6 then
    s.setAxis n { x1 with core := { c1 with anchor := regGet s .axOffs n, reanchor := true
                                            disp := regGet s .axOffs n } }
  else
    let s := s.setAxis n { x1 with core := c1 }
    if m = 1 && axZmode s n == 2 then axLose s n .lostIndex
    else if m = 4 || m = 7 then axLose s n .lost
    else s

/-- The status bits that an edge, a frame or an index event sets. -/
def stEvents : W64 := w64 (1 <<< stQerr ||| 1 <<< stFrmerr ||| 1 <<< stSeqgap ||| 1 <<< stPshort ||| 1 <<< stIdx)

/-- The report of the loss of an axis, the last one of its kind, is taken back. -/
def untell (s : State) (n : Nat) : State :=
  let l := s.reports.reverse
  let is := fun (r : Report) => r.src == 1 && r.code == n % 16 && r.info0 == w64 (axisDie n)
  { s with reports := (l.takeWhile (fun r => !is r) ++ (l.dropWhile (fun r => !is r)).drop 1).reverse }

/-- What the events of this tick set in AX_n_STAT, AX_n_ERRCNT and AX_EVT, and their report, is taken back: they are not counted,
since the axis goes OFF first (Table 2.11). -/
def axUnmark (s : State) (n : Nat) : State :=
  let x := s.axis n
  let st := regGet s .axStat n
  let lost := x.core.illegal && axLostOnErr s n && x.pre.state == .run && !x.preEvt
  let s := regPut s .axStat n (st &&& (x.preStat ||| ~~~ stEvents))
  let s := regPut s .axErrcnt n (w64 (min (regGet s .axErrcnt n).toNat x.preErr.toNat))
  let s := if lost && (axMarks s n).told then untell s n else s
  if lost then regPut s .axEvt (axisDie n) (regGet s .axEvt (axisDie n) &&& ~~~ w64 (1 <<< (n % 16))) else s

/-- EN goes to 0: the axis is OFF with the value it had in the tick before the write (R64, Table 2.11).
(DEDUCED, log entry 166.) -/
def axDisable (s : State) (n : Nat) : State :=
  let s := axUnmark s n
  let x := s.axis n
  s.setAxis n { x with frames := [], loadFrom := none, hits := 0, told := false, core := { x.pre with state := .off, edge := false, held := none, jump := false, stalled := false } }

/-- A write of AX_n_CFG (R38, R57, R64). -/
def axCfgWrite (s : State) (n : Nat) (v : W64) : State :=
  if n = 0 then s
  else
    let old := axCfgOf s n
    let w := regMerge (regRow .axCfg) old v
    let en := bit old 0
    let newMode := fld w 1 4
    let s := if en && newMode != fld old 1 4 then axStat s n stCfgerr else s
    let w := if en then putFld w 1 4 (fld old 1 4) else w
    let b := axBase s n
    let badBase := fld w 1 4 == 6 && (b == n || axMode s b == 6)
    if !en && bit w 0 && badBase then axStat (regPut s .axCfg n (putFld w 0 1 0)) n stCfgerr
    else
      let s := regPut s .axCfg n w
      if !en && bit w 0 then axEnable s n
      else if en && !bit w 0 then axDisable s n
      else s

/-- A write of AX_n_SRC or AX_n_AUX: source fields are frozen while EN = 1 (R64). -/
def axFrozenWrite (s : State) (n : Nat) (r : RegName) (frozen : W64) (v : W64) : State :=
  let old := regGet s r n
  let w := regMerge (regRow r) old v
  if axEn s n && (w &&& frozen) != (old &&& frozen) then
    axStat (regPut s r n ((w &&& ~~~ frozen) ||| (old &&& frozen))) n stCfgerr
  else regPut s r n w

/-- A write of NUM or DEN re-anchors an enabled derived axis at its current value and base value (R56): the value that the
ratio in force gives for the base value, with what this stage has already done to either. -/
def axRatioWrite (s : State) (n : Nat) (r : RegName) (v : W64) : State :=
  let bv := baseValue s (axBase s n) 5
  let s := if axEn s n && axMode s n == 6 then
      modCore s n (fun c => if c.reanchor then c
        else { c with anchor := derivedValue (axNum s n) (axDen s n) c bv, bref := bv })
    else s
  regCommit s r n v

/-- A write of OFFS adds the change to the anchor of an enabled derived axis and sets JUMP (R56). -/
def axOffsWrite (s : State) (n : Nat) (v : W64) : State :=
  let d := v - regGet s .axOffs n
  let s := if axEn s n && axMode s n == 6 then
      modCore s n (fun c => { c with anchor := c.anchor + d, jump := true })
    else s
  regPut s .axOffs n v

/-- CTRL.LOAD (R65): the value becomes LOADV and JUMP is set; out of LOST the axis runs with rate 0. -/
def axLoad (s : State) (n : Nat) : State :=
  if n = 0 || !axEn s n || axMode s n == 6 then s
  else
    let v := regGet s .axLoadv n
    let x := s.axis n
    s.setAxis n { x with core := loadCore v x.core, loadFrom := some (x.loadFrom.getD x.core) }

/-- CTRL.LOAD on a software axis: the hidden fraction bits are cleared (R55). -/
def axLoadSoft (s : State) (n : Nat) : State :=
  modCore s n (fun c => { c with pos := regGet s .axLoadv n, disp := regGet s .axLoadv n, ext := 0, jump := true })

def axLoadCmd (s : State) (n : Nat) : State :=
  if axEn s n && axMode s n == 5 && n ≠ 0 then axLoadSoft s n else axLoad s n

/-- CTRL.REINDEX (R66). -/
def axReindexCmd (s : State) (n : Nat) : State :=
  if axEn s n && axMode s n == 1 && axZmode s n != 0 then axLose s n .lostIndex else s

/-- CTRL.ADVANCE of a software axis (R55). -/
def axAdvanceCmd (s : State) (n : Nat) : State :=
  if axEn s n && axMode s n == 5 then
    let a := (regGet s .axLoadv n).toInt
    modCore s n (fun c => { c with pos := c.pos + iw64 a
                                   rev := if a < 0 then true else if a > 0 then false else c.rev })
  else s

/-- A write of AX_n_CTRL: LOAD, then REINDEX, then ADVANCE (Table 2.11); no effect on AX0 (R38). -/
def axCtrlWrite (s : State) (n : Nat) (v : W64) : State :=
  if n = 0 then s
  else
    let s := if bit v 0 then axLoadCmd s n else s
    let s := if bit v 1 then axReindexCmd s n else s
    if bit v 2 then axAdvanceCmd s n else s

/-- The source step of the stage in which a write acts comes before the write (R617): the edges, index event and frames
of the tick, on an axis that counts. -/
def axStage (s : State) (n : Nat) : State := if (s.die (axisDie n)).doze then s else sourceStep s n

/-- A write of AX_n_CFG that clears EN: the axis goes OFF before the events of the tick (Table 2.11). -/
def axOffWrite (s : State) (n : Nat) (r : RegName) (v : W64) : Bool :=
  r == .axCfg && axEn s n && !bit (regMerge (regRow r) (regGet s r n) v) 0

/-- A write of AX_n_STAT clears the bits written as 1, but not one that an event of the same stage has set (R8). -/
def axStatWrite (s : State) (n : Nat) (v : W64) : State := regCommit s .axStat n (v &&& ~~~ (axMarks s n).hits)

/-- A committed write to one of the axis registers. (DEDUCED, log entry 17.) -/
def axRegWrite (s : State) (n : Nat) (r : RegName) (v : W64) : State :=
  let s := if axOffWrite s n r v then s else axStage s n
  match r with
  | .axCfg => axCfgWrite s n v
  | .axSrc => axFrozenWrite s n .axSrc 0x1F3F3F3F v
  | .axAux => axFrozenWrite s n .axAux 0x7F000000 v
  | .axCtrl => axCtrlWrite s n v
  | .axNum => axRatioWrite s n .axNum v
  | .axDen => axRatioWrite s n .axDen v
  | .axOffs => axOffsWrite s n v
  | .axStat => axStatWrite s n v
  | r => regCommit s r n v

/-! Reads. -/

/-- Rate magnitude (R618), along a chain of at most `f` bases. -/
def axRateOf (s : State) : Nat → Nat → W64
  | 0, _ => 0
  | f + 1, n =>
    if n = 0 then 0x200000000
    else if !axEn s n || (s.axis n).core.state == .off then 0
    else if axMode s n == 5 then w64 (regGet s .axSwrate n).toInt.natAbs
    else if axMode s n == 6 then
      w64 (min ((axRateOf s f (axBase s n)).toNat * (axNum s n).natAbs / axDen s n) m64)
    else (s.axis n).core.rate
def axRate (s : State) (n : Nat) : W64 := axRateOf s 32 n

def axStateCode (x : AxState) : Nat := match x with | .off => 0 | .run => 1 | .lost => 2 | .lostIndex => 3

def axStatRead (s : State) (n : Nat) : W64 :=
  let c := (s.axis n).core
  let st := if n = 0 then 1 else axStateCode c.state
  regGet s .axStat n ||| w64 (st + 4 * c.rev.toNat + 8 * c.stalled.toNat)

def axStateRead (s : State) (die : Nat) : W64 :=
  (List.range 16).foldl (fun a j => a ||| w64 (fld (axStatRead s (die * 16 + j)) 0 2 <<< (2 * j))) 0

def axPinRead (s : State) (i : Nat) : W64 :=
  regGet s .axPin i ||| w64 ((pinSample s i 2).toNat <<< 16) ||| w64 ((fsFault s i).toNat <<< 17)

/-- TERM and FSDET are ignored on TP pins (Table 2.18). -/
def axPinWrite (s : State) (i : Nat) (v : W64) : State :=
  let w := regMerge (regRow .axPin) (regGet s .axPin i) v
  regPut s .axPin i (if i % 40 < 32 then w &&& ~~~ 0x3000 else w)

end Sys2Proof.Machine
end

