-- ==== Sys2Proof/Machine/Alarm.lean ====
section
/-! DEFINITION. Axis alarms (chapter 17): arming, the crossing test, firings and the pin latches. -/
namespace Sys2Proof.Machine

def alarmDie (n : Nat) : Nat := n / 1024

/-! Fields of the alarm registers (Table 17.7). -/
def alAxis (s : State) (n : Nat) : Nat := fld (regGet s .alCfg n) 0 5
/-- 0 FWD, 1 BWD, 2 BOTH. -/
def alDir (s : State) (n : Nat) : Nat := fld (regGet s .alCfg n) 5 2
def alPastf (s : State) (n : Nat) : Bool := bit (regGet s .alCfg n) 7
def alAct (s : State) (n j : Nat) : Bool := bit (regGet s .alCfg n) (8 + j)
def alHyst (s : State) (n : Nat) : Int := (regGet s .alHyst n).toNat

/-- A status bit of the alarm, with the die's event bit (Table 17.6: 0 LATE, 1 CFGERR, 2 SERR). -/
def alEvent (s : State) (n statBit evtBit : Nat) : State :=
  regSetBits (regSetBits s .alStat n (w64 (1 <<< statBit))) .alEvt (alarmDie n) (w64 (1 <<< evtBit))
def alCfgerr (s : State) (n : Nat) : State := alEvent s n 10 1

/-- The combinations of direction and interval that R444 allows. -/
def alComboOk (dir : Nat) (intv : W64) : Bool :=
  match dir with
  | 0 => decide (0 ≤ intv.toInt)
  | 1 => decide (intv.toInt ≤ 0)
  | 2 => intv == 0
  | _ => false

/-- Insert an action into the queue of deliveries: by tick, then ascending alarm number, then in the order of
Table 17.3 (R449). -/
def actRank (k : ActKind) : Nat :=
  match k with
  | .ring => 0 | .pin => 1 | .timer => 2 | .egress => 3 | .core => 4 | .stamp => 5 | .poll => 6
def actKey (a : Action) : Nat := (a.due * 2048 + a.alarm) * 8 + actRank a.kind
def actInsert (a : Action) : List Action → List Action
  | [] => [a]
  | b :: r => if actKey a < actKey b then a :: b :: r else b :: actInsert a r

/-- The actions of one firing (Table 17.3): each takes the routing word in force (R445); pins act at f + 4, timers at the
first TMRCLK edge at or after f + 4, everything else at f + 40 (R449). -/
def firingActions (s : State) (n : Nat) (a : Alarm) : List Action :=
  let mk := fun (kind : ActKind) (due : Nat) (word : W64) =>
    ({ due, alarm := n, kind, stamp := a.next, axis := alAxis s n, k := a.k, word := word.setWidth 32
       base := regGet s .alSbase n } : Action)
  let f := s.tick
  let opt := fun (j : Nat) (x : Action) => if alAct s n j then [x] else []
  opt 0 (mk .ring (f + 40) (regGet s .alRoute n)) ++ opt 1 (mk .pin (f + 4) (regGet s .alPin n)) ++
  opt 2 (mk .timer ((f + 5) / 2 * 2) (regGet s .alRoute n)) ++ opt 3 (mk .egress (f + 40) (regGet s .alRoute n)) ++
  opt 4 (mk .core (f + 40) (regGet s .alCore n)) ++ opt 5 (mk .stamp (f + 40) (regGet s .alSlog n)) ++
  opt 6 (mk .poll (f + 40) 0)

/-- Carry out the firing that the crossing test of this tick has marked: `act` and the statements after it in R446. -/
def alarmFire (s : State) (n : Nat) : State :=
  let a := s.alarm n
  match a.mark with
  | none => s
  | some m =>
    let s := { s with actions := (firingActions s n a).foldl (fun l x => actInsert x l) s.actions }
    let s := trace s 3 0 n (a.next.setWidth 32)
    let s := regSetBits s .alStat n 0x100
    let s := if m.late then regCount (alEvent s n 9 0) .alLatecnt n 1 else s
    let intv := regGet s .alIntv n
    let a := { a with mark := none, obs := m.obs, k := a.k + 1 }
    let a :=
      if alDir s n = 2 then { a with armf := false, armb := false }
      else if intv = 0 then { a with state := .done }
      else
        let nx := a.next + intv
        let d2 := sdiff m.obs nx
        { a with next := nx, pend := if alDir s n = 0 then decide (0 ≤ d2) else decide (d2 ≤ 0) }
    s.setAlarm n a

/-- The crossing test of one alarm in one tick (R446 to R448). A firing is marked and carried out by `alarmFire`. -/
def alarmTest (s : State) (n : Nat) : State :=
  let a := s.alarm n
  if a.state != .active then s
  else
    let v := busVal s (alarmDie n) (alAxis s n)
    if v.state != .run then s.setAlarm n { a with held := true }
    else
      let dir := alDir s n
      let fw := dir != 1
      let bw := dir != 0
      let d := sdiff v.value a.next
      let h := alHyst s n
      let late := a.pend || v.jump || (s.die (alarmDie n)).woke
      let forced := a.first && alPastf s n && dir != 2 && ((fw && decide (0 ≤ d)) || (bw && decide (d ≤ 0)))
      let a := { a with held := false, first := false }
      let a := if forced then { a with armf := fw, armb := bw } else a
      let late := late || forced
      if fw && a.armf && decide (0 ≤ d) then s.setAlarm n { a with mark := some ⟨true, late, v.value⟩ }
      else if bw && a.armb && decide (d ≤ 0) then s.setAlarm n { a with mark := some ⟨false, late, v.value⟩ }
      else s.setAlarm n { a with pend := false, armf := a.armf || (fw && decide (d < -h))
                                 armb := a.armb || (bw && decide (h < d)) }

/-- The alarms that are evaluated: those of a die that is not in DOZE. -/
def liveAlarms (s : State) : List Nat := (tkeys s.alarms).filter (fun n => !(s.die (alarmDie n)).doze)

/-- Every firing marked in the last tick is carried out, in ascending alarm number. (DESIGN CHOICE, log entry 92.) -/
def alarmsFlush (s : State) : State := foldS (tkeys s.alarms) (fun n s => alarmFire s n) s
def alarmsTest (s : State) : State := foldS (liveAlarms s) (fun n s => alarmTest s n) s

/-- ARM (R443, R444). A firing of this tick has been made and keeps its actions. -/
def alArm (s : State) (n : Nat) : State :=
  let s := alarmFire s n
  if alComboOk (alDir s n) (regGet s .alIntv n) then
    s.setAlarm n { s.alarm n with state := .active, k := 0, next := regGet s .alTarget n, armf := false, armb := false,
                                  first := true, pend := false }
  else alCfgerr s n

/-- DISARM (R443). (DEDUCED, log entry 94.) -/
def alDisarm (s : State) (n : Nat) : State :=
  let s := alarmFire s n
  s.setAlarm n { s.alarm n with state := .idle }

/-- The words that are frozen while the alarm is ACTIVE (R445). -/
def alFrozen (r : RegName) : Bool :=
  match r with
  | .alCfg | .alHyst | .alTarget | .alIntv => true
  | _ => false

/-- A write of an alarm set-up word (R445); a firing of this tick uses the old word. -/
def alWordWrite (s : State) (n : Nat) (r : RegName) (v : W64) : State :=
  let s := alarmFire s n
  if alFrozen r && (s.alarm n).state == .active then alCfgerr s n else regCommit s r n v

/-- A write of AL_n_CTRL: with both bits set, ARM. -/
def alCtrlWrite (s : State) (n : Nat) (v : W64) : State :=
  if bit v 0 then alArm s n else if bit v 1 then alDisarm s n else s

def alStatRead (s : State) (n : Nat) : W64 :=
  let a := s.alarm n
  let st := match a.state with | .idle => 0 | .active => 1 | .done => 2
  regGet s .alStat n ||| w64 (st + 4 * a.armf.toNat + 8 * a.armb.toNat + 16 * a.held.toNat)

/-! Pin latches (R450). -/

def actPin (a : Action) : Nat := pinIx (alarmDie a.alarm) (fld a.word 0 6)
def actPinOp (a : Action) : Nat := fld a.word 6 2
def actPw (a : Action) : Nat := fld a.word 8 16

def setLatch (s : State) (i : Nat) (b : Bool) : State := { s with latch := setBit s.latch i b }

/-- The new value of one latch in the tick `now`, from every alarm that acts on it and from a pulse that ends.
(DEDUCED, log entry 93.) -/
def latchTick (s : State) (i now : Nat) : State :=
  let mine := fun (a : Action) => a.kind == .pin && a.due == now && actPin a == i
  let acts := s.actions.filter mine
  let pulses := acts.filter (fun a => actPinOp a == 0 && actPw a != 0)
  let ended := tget 0 s.pulses i == now && now != 0
  let old := s.latch.getLsbD i
  let toggles := (acts.filter (fun a => actPinOp a == 3)).length
  let v :=
    if !pulses.isEmpty || acts.any (fun a => actPinOp a == 1) then true
    else if acts.any (fun a => actPinOp a == 2) || ended then false
    else old != (toggles % 2 == 1)
  let s := { s with actions := s.actions.filter (fun a => !mine a) }
  let s := if ended then { s with pulses := tset 0 s.pulses i 0 } else s
  let s := match pulses.getLast? with
    | some a => { s with pulses := tset 0 s.pulses i (now + actPw a) }
    | none => s
  setLatch s i v

/-- An action waits for a stopped die bridge (R530); a core action acts on its own die before that. -/
def actWaits (s : State) (a : Action) : Bool := bridgeDown s && actFar a && (a.kind != .core || a.near)

/-- The first action of a kind of one alarm that is due. -/
def dueAction (s : State) (n : Nat) (k : ActKind) : Option Action :=
  s.actions.find? (fun a => a.alarm == n && a.kind == k && decide (a.due ≤ s.tick) && !actWaits s a)

/-- The actions of a kind that are due and that the first one of alarm n does not overtake: those for the same target up to it,
in the order of R449. (DEDUCED, log entry 147.) -/
def dueActions (s : State) (n : Nat) (k : ActKind) (target : Action → Nat) : List Action :=
  match dueAction s n k with
  | none => []
  | some a => s.actions.filter (fun b => b.kind == k && decide (b.due ≤ s.tick) && !actWaits s b && target b == target a && decide (actKey b ≤ actKey a))

def dropAction (s : State) (a : Action) : State := { s with actions := s.actions.erase a }

/-- A pin action that is due acts on its latch, together with every other action on that pin in its tick. -/
def alarmPin (s : State) (n : Nat) : State :=
  match dueAction s n .pin with
  | some a => latchTick s (actPin a) a.due
  | none => s

/-- A running pulse that has reached its end. -/
def pulseStop (s : State) (i : Nat) : State :=
  let e := tget 0 s.pulses i
  if e != 0 && decide (e ≤ s.tick) then latchTick s i e else s

end Sys2Proof.Machine
end

