-- ==== Sys2Proof/Machine/Timer.lean ====
section
/-! DEFINITION. General timers and capture (chapter 18): the native machine of R465, its make-up after DOZE and
the K5410 compatibility machine. -/
namespace Sys2Proof.Machine

def timerDie (n : Nat) : Nat := n / 32
/-- The timer of the same die with local number j (R460). -/
def localTimer (n j : Nat) : Nat := n / 32 * 32 + j % 32

/-! Fields (Table 18.8). -/
def tmMode (s : State) (n : Nat) : Nat := fld (regGet s .tmrCfg n) 0 2
def tmOpm (s : State) (n : Nat) : Bool := bit (regGet s .tmrCfg n) 2
def tmPreload (s : State) (n : Nat) : Bool := bit (regGet s .tmrCfg n) 3
def tmClksel (s : State) (n : Nat) : Nat := fld (regGet s .tmrCfg n) 4 2
def tmClkpin (s : State) (n : Nat) : Nat := fld (regGet s .tmrCfg n) 6 6
def tmClkedge (s : State) (n : Nat) : Nat := fld (regGet s .tmrCfg n) 12 2
def tmClkax (s : State) (n : Nat) : Nat := fld (regGet s .tmrCfg n) 14 5
def tmFrz (s : State) (n : Nat) : Bool := bit (regGet s .tmrCfg n) 19
def tmCompat (s : State) (n : Nat) : Bool := bit (regGet s .tmrCfg n) 20
def tmOcm (s : State) (n x : Nat) : Nat := fld (regGet s .tmrOcfg n) (4 * x) 3
def tmOcinit (s : State) (n x : Nat) : Bool := bit (regGet s .tmrOcfg n) (4 * x + 3)
def tmSms (s : State) (n : Nat) : Nat := fld (regGet s .tmrSlv n) 0 3
def tmTrgkind (s : State) (n : Nat) : Bool := bit (regGet s .tmrSlv n) 3
def tmTrgsel (s : State) (n : Nat) : Nat := fld (regGet s .tmrSlv n) 4 6
def tmTrginv (s : State) (n : Nat) : Bool := bit (regGet s .tmrSlv n) 10
def tmMms (s : State) (n : Nat) : Nat := fld (regGet s .tmrSlv n) 11 3
def tmCapen (s : State) (n : Nat) : Bool := bit (regGet s .tmrCapcfg n) 0
def tmCappin (s : State) (n : Nat) : Nat := fld (regGet s .tmrCapcfg n) 1 6
def tmFilt (s : State) (n : Nat) : Nat := fld (regGet s .tmrCapcfg n) 8 3
def k5Cappin (s : State) (n : Nat) : Nat := fld (regGet s .k5Pin n) 0 6

/-- A native timer that its die's DOZE does not stop. -/
def tmNative (s : State) (n : Nat) : Bool := !tmCompat s n && !(s.die (timerDie n)).doze
/-- The timer is held in debug halt (R476). -/
def tmHeld (s : State) (n : Nat) : Bool := tmFrz s n && dieHalted s (timerDie n)

/-- Interrupt source TIRQj on each core of the set of TMR_n_IRQ (R473). -/
def tirq (s : State) (n : Nat) : State :=
  let w := regGet s .tmrIrq n
  foldS (coreSet (fld w 0 8) (fld w 8 8)) (fun c s => raiseFrom s (timerDie n) c (8 + fld w 16 3)) s

/-- A status bit, its device event bit where it has one, and its interrupt where IRQEN enables it. -/
def tmEvent (s : State) (n statBit : Nat) (evt irq : Option Nat) : State :=
  let s := regSetBits s .tmrStat n (w64 (1 <<< statBit))
  let s := match evt with | some e => regSetBits s .tmrEvt 0 (w64 (1 <<< e)) | none => s
  match irq with
  | some e => if bit (regGet s .tmrIrqen n) e then tirq s n else s
  | none => s

def tmCfgerr (s : State) (n : Nat) : State := tmEvent s n 17 (some 2) none

/-- Output x of the timer (R470, Table 18.4): the PWM and force modes are evaluated in every cycle. -/
def ocLevel (s : State) (n x : Nat) : Bool :=
  let t := s.timer n
  let cmp := if x = 0 then t.cmp0A else t.cmp1A
  match tmOcm s n x with
  | 4 => decide (t.cnt.toNat < cmp.toNat)
  | 5 => !decide (t.cnt.toNat < cmp.toNat)
  | 6 => false
  | 7 => true
  | _ => if x = 0 then t.oc0 else t.oc1

/-- What a pin with FUNC = 2 follows (R471, R479). -/
def timerPin (s : State) (n x : Nat) : Bool :=
  if tmCompat s n then (x == 0 && (s.timer n).k5out) else ocLevel s n x

/-- While the period in force is 0 the counter holds 0 (R468). -/
def Timer.held (t : Timer) : Timer := if t.perA = 0 then { t with cnt := 0 } else t

/-- The written values of PSC, PER, CMP0 and CMP1 come into force together (R466). -/
def tmTransfer (s : State) (n : Nat) : State :=
  s.setTimer n (Timer.held { s.timer n with pscA := regGet32 s .tmrPsc n, perA := regGet32 s .tmrPer n
                                            cmp0A := regGet32 s .tmrCmp0 n, cmp1A := regGet32 s .tmrCmp1 n })

/-- A TRGO event of timer n reaches every TRGI that names it in the next TMRCLK cycle (R472). -/
def tmTrgoEvent (s : State) (n mms : Nat) : State :=
  if tmMms s n ≠ mms then s
  else foldS ((List.range 32).map (localTimer n))
    (fun m s => if !tmTrgkind s m && localTimer m (tmTrgsel s m) == n && tmSms s m + tmClksel s m != 0
                then s.setTimer m { s.timer m with trgNext := true } else s) s

/-- A compare match of CMPx at the new count (R470). -/
def tmMatch (s : State) (n x : Nat) : State :=
  let t := s.timer n
  let t := match tmOcm s n x with
    | 1 => if x = 0 then { t with oc0 := true } else { t with oc1 := true }
    | 2 => if x = 0 then { t with oc0 := false } else { t with oc1 := false }
    | 3 => if x = 0 then { t with oc0 := !t.oc0 } else { t with oc1 := !t.oc1 }
    | _ => t
  let s := tmEvent (s.setTimer n t) n (9 + x) none (some (1 + x))
  tmTrgoEvent s n (1 + x)

def tmCompare (s : State) (n : Nat) : State :=
  let t := s.timer n
  let s := if t.cnt = t.cmp0A then tmMatch s n 0 else s
  if t.cnt = t.cmp1A then tmMatch s n 1 else s

/-- The counter step of one timer tick (`tick` of R465). An update event is marked and carried out by `tmUpdate`, with the
comparison at the count it leaves. -/
def tmTick (s : State) (n : Nat) : State :=
  let t := s.timer n
  if !t.tickDue || (s.die (timerDie n)).doze then s
  else
    let t := { t with tickDue := false }
    if t.latepend then
      s.setTimer n { t with latepend := false, cnt := 0, down := false, uevDue := some true }
    else match tmMode s n with
      | 0 => if t.cnt = t.perA - 1 then s.setTimer n { t with cnt := 0, uevDue := some false }
             else tmCompare (s.setTimer n { t with cnt := t.cnt + 1 }) n
      | 1 => if t.cnt = 0 then s.setTimer n { t with uevDue := some false }
             else tmCompare (s.setTimer n { t with cnt := t.cnt - 1 }) n
      | _ =>
        if !t.down then
          tmCompare (s.setTimer n { t with cnt := t.cnt + 1, down := t.cnt + 1 == t.perA }) n
        else if t.cnt - 1 = 0 then s.setTimer n { t with cnt := 0, down := false, uevDue := some false }
        else tmCompare (s.setTimer n { t with cnt := t.cnt - 1 }) n

/-- The update event (R465 to R467): preloads transfer, a down counter reloads, UEVF is raised, a one-shot timer stops, and
the new count is compared.  In DOZE nothing of this happens (R477). -/
def tmUpdate (s : State) (n : Nat) : State :=
  match if (s.die (timerDie n)).doze then none else (s.timer n).uevDue with
  | none => s
  | some late =>
    let s := tmTransfer s n
    let t := s.timer n
    let cnt := if tmMode s n = 1 && !late then (if t.perA = 0 then 0 else t.perA - 1) else t.cnt
    let s := s.setTimer n { t with uevDue := none, cnt := cnt, run := t.run && !tmOpm s n }
    let s := tmEvent s n 8 none (some 0)
    let s := if late then tmEvent s n 13 (some 1) (some 5) else s
    tmCompare (tmTrgoEvent s n 0) n

/-- What is due on the timer is carried out before anything else acts on it. -/
def tmSettle (s : State) (n : Nat) : State := tmUpdate (tmTick s n) n

/-! Commands (R469). -/

def tmStop (s : State) (n : Nat) : State := s.setTimer n { s.timer n with run := false }
def tmReset (s : State) (n : Nat) : State :=
  let s := tmTransfer s n
  let t := s.timer n
  s.setTimer n { t with cnt := if tmMode s n = 1 && t.perA ≠ 0 then t.perA - 1 else 0
                        pscnt := 0, down := false, latepend := false
                        oc0 := tmOcinit s n 0, oc1 := tmOcinit s n 1 }
/-- A count at or past the period in force marks the timer for a late update (R467). -/
def tmLateMark (s : State) (n : Nat) (count : W32) : State :=
  let t := s.timer n
  if t.perA.toNat ≤ count.toNat then s.setTimer n { t with latepend := true } else s
/-- The same of the counter, once a period comes into force: the timer never runs on past it. (DEDUCED, log entry 170.) -/
def tmLateCount (s : State) (n : Nat) : State :=
  if (s.timer n).perA = 0 then s else tmLateMark s n (s.timer n).cnt
/-- DEDUCED, log entry 95. -/
def tmLoad (s : State) (n : Nat) : State :=
  tmLateMark (s.setTimer n (Timer.held { s.timer n with cnt := regGet32 s .tmrLoad n })) n (regGet32 s .tmrLoad n)
def tmStart (s : State) (n : Nat) : State :=
  let s := if (s.timer n).run then s else tmLateCount (tmTransfer s n) n
  s.setTimer n { s.timer n with run := true }

/-! Capture (R474, R475). -/

/-- One accepted edge of CAPPIN. -/
def tmCaptureEdge (s : State) (n : Nat) (rising : Bool) : State :=
  let cfg := regGet s .tmrCapcfg n
  if !bit cfg 0 then s
  else
    let t := s.timer n
    if rising != bit cfg 7 then s.setTimer n { t with capr := some t.cnt }
    else match t.capr with
      | none => s
      | some r =>
        let s := s.setTimer n { t with capr := none, capPair := (t.cnt ++ r : BitVec 64), new := true }
        let s := if bit (regGet s .tmrIrqen n) 3 then tirq s n else s
        if t.new then tmEvent s n 12 (some 0) (some 4) else s

/-- The oldest edge that is due is captured, if it is of the kind named, with the counter as it stands at the start of the cycle. -/
def tmCapture (s : State) (n : Nat) (rising : Bool) : State :=
  let s := tmSettle s n
  let t := s.timer n
  match t.capDue with
  | [] => s
  | e :: rest => if tmNative s n && e == rising then tmCaptureEdge (s.setTimer n { t with capDue := rest }) n e else s
def tmCaptureAll (s : State) (n : Nat) : State := (s.timer n).capDue.foldl (fun s e => tmCapture s n e) s

/-- What comes before a command in the cycle: what is due on the timer, and the captures, which take the counter as it stands at
the start of the cycle (R474). -/
def tmBefore (s : State) (n : Nat) : State := tmCaptureAll (tmSettle s n) n

/-! Commands by register and by alarm. -/

/-- A write of TMR_n_CTRL: STOP, RESET, LOAD, START; commands act on a native timer only. -/
def tmCtrlWrite (s : State) (n : Nat) (v : W64) : State :=
  if tmCompat s n then s
  else
    let s := tmBefore s n
    let s := if bit v 1 then tmStop s n else s
    let s := if bit v 2 then tmReset s n else s
    let s := if bit v 3 then tmLoad s n else s
    if bit v 0 then tmStart s n else s

/-- An alarm's TIMER action: 0 start, 1 stop, 2 reset, 3 reset and start, 4 gate open, 5 gate close.  A timer of a die in DOZE does
nothing (R477). (DEDUCED, log entry 171.) -/
def tmAlarmAction (s : State) (n tact : Nat) : State :=
  if !tmNative s n then s
  else
    let s := tmBefore s n
    match tact with
    | 0 => tmStart s n
    | 1 => tmStop s n
    | 2 => tmReset s n
    | 3 => tmStart (tmReset s n) n
    | 4 => s.setTimer n { s.timer n with gatel := true }
    | 5 => s.setTimer n { s.timer n with gatel := false }
    | _ => s

/-! One TMRCLK cycle (R465). -/

/-- The trigger output as a level, of a native timer whose TRGO is a level (R472); a compatibility timer ignores its MMS (R479). -/
def tmTrgoLevel (s : State) (m : Nat) : Bool :=
  if tmCompat s m then false
  else match tmMms s m with
  | 3 => (s.timer m).run
  | 4 => ocLevel s m 0
  | 5 => ocLevel s m 1
  | _ => false

/-- The level of the trigger input in this cycle: the TRGO of the local timer TRGSEL as it was in the last cycle, or the
filtered level of the local pin TRGSEL. -/
def tmTrgi (s : State) (n : Nat) : Bool :=
  let t := s.timer n
  let m := localTimer n (tmTrgsel s n)
  (if tmTrgkind s n then t.trgIn else if tmMms s m < 3 then t.trgPend else (s.timer m).trgoAt) != tmTrginv s n

/-- Whole counts that the clocking axis has moved forward since the previous cycle (Table 18.1, R463). -/
def tmAxisCount (s : State) (n : Nat) : Nat :=
  let v := busVal s (timerDie n) (tmClkax s n)
  let d := (fld v.value 16 48 + 2 ^ 48 - (s.timer n).lastAx.toNat) % 2 ^ 48
  if v.state == .run && decide (d < 2 ^ 47) then d else 0

/-- One source event reaches the prescaler (R465, R468). -/
def tmSourceEvent (s : State) (n : Nat) : State :=
  let t := s.timer n
  if t.perA = 0 then s.setTimer n t.held
  else if t.pscnt + 1 ≤ t.pscA.toNat then s.setTimer n { t with pscnt := t.pscnt + 1 }
  else s.setTimer n { t with pscnt := 0, tickDue := true }

/-- Source events that the selected source brings in one cycle (Table 18.1). -/
def tmSourceCount (clksel pins : Nat) (rise : Bool) (counts : Nat) : Nat :=
  match clksel with
  | 0 => 1
  | 1 => pins
  | 2 => rise.toNat
  | _ => counts

/-- At most one event is delivered; more set SRCMISS (R463). -/
def tmSources (s : State) (n k : Nat) : State :=
  let s := if 2 ≤ k then tmEvent s n 16 (some 4) none else s
  if k = 0 then s else tmSourceEvent s n

/-! Pins (R43, R464): a timer reads the pads through the filter of R44 with its own FILT. -/

def tmPinLevel (s : State) (n pin : Nat) (old : Bool) : Bool := inputLevel s (timerDie n) pin (tmFilt s n) old
/-- The level in force of a pin that a timer begins to read. (DESIGN CHOICE, log entry 121.) -/
def tmPinSettled (s : State) (n pin : Nat) : Bool := if pin < 40 then settled s (pinIx (timerDie n) pin) (tmFilt s n) else false

/-- An accepted edge is of the kind that CLKEDGE selects. -/
def clkEdgeKind (kind : Nat) (rising : Bool) : Bool := kind == 2 || (kind == 0) == rising

/-- The timer reads some pin. -/
def tmReadsPin (s : State) (n : Nat) : Bool := tmCompat s n || tmClksel s n == 1 || tmTrgkind s n || tmCapen s n

/-- One AXCLK tick of the pins that a timer reads: level changes that the filters accept are kept for the TMRCLK cycle that starts
next, or for the SYSCLK cycle that receives them. -/
def tmPins (s : State) (n : Nat) : State :=
  let t := s.timer n
  if !tmReadsPin s n || (s.die (timerDie n)).doze then s
  else if tmCompat s n then
    let l := tmPinLevel s n (k5Cappin s n) t.capLvl
    s.setTimer n { t with capLvl := l, k5cap := t.k5cap || (l != t.capLvl && l != bit (regGet s .k5Ctl n) 4) }
  else
    let c := if tmClksel s n = 1 then tmPinLevel s n (tmClkpin s n) t.clkLvl else t.clkLvl
    let g := if tmTrgkind s n then tmPinLevel s n (tmTrgsel s n) t.trgLvl else t.trgLvl
    let p := if tmCapen s n then tmPinLevel s n (tmCappin s n) t.capLvl else t.capLvl
    s.setTimer n { t with clkLvl := c, trgLvl := g, capLvl := p
                          clkNext := t.clkNext + (c != t.clkLvl && clkEdgeKind (tmClkedge s n) c).toNat
                          riseNext := t.riseNext || (g != t.trgLvl && g != tmTrginv s n)
                          capNext := if p != t.capLvl then t.capNext ++ [p] else t.capNext }

/-- The boundary of a TMRCLK cycle: TRGO events and levels of the cycle that ends reach the trigger inputs (R472), and the edges
accepted since the last boundary reach the timer (R464). -/
def tmBoundary (s : State) (n : Nat) : State :=
  let t := s.timer n
  s.setTimer n { t with trgPend := t.trgNext, trgNext := false, trgoAt := tmTrgoLevel s n, taken := none
                        clkEdges := t.clkEdges + t.clkNext, clkNext := 0, trgRise := t.trgRise || t.riseNext, riseNext := false
                        capDue := t.capDue ++ t.capNext, capNext := [], trgIn := t.trgLvl }

/-! Reads of the capture unit (R475). -/

/-- A read of CAP_PAIR, or of its low half, returns the pair and clears NEW. -/
def tmCapRead (s : State) (n : Nat) : W64 := if tmCompat s n then 0 else (s.timer n).capPair
def tmClearNew (s : State) (n : Nat) : State := s.setTimer n { s.timer n with new := false }

/-! The cycle. -/

/-- The timer counts: it runs, no gate and no halt holds it (R465, R476). -/
def tmCounts (s : State) (n : Nat) : Bool :=
  let t := s.timer n
  t.run && t.gatel && !(tmSms s n == 1 && !t.trgi) && !tmHeld s n

/-- The trigger input of the cycle is taken: a rise resets or starts the timer.  With the state goes whether it rose, and
whether that leaves the cycle without a tick. -/
def tmInput (s : State) (n : Nat) : State × Bool × Bool :=
  let t := s.timer n
  let lvl := tmTrgi s n
  let rise := (lvl && !t.trgi) || t.trgRise
  let s := s.setTimer n { t with trgi := lvl, trgPend := false, trgRise := false }
  if tmHeld s n || !rise then (s, false, false)
  else if tmSms s n = 2 then (tmReset s n, true, true)
  else if tmSms s n = 3 then (s.setTimer n { s.timer n with run := true }, true, false)
  else (s, true, false)

/-- One TMRCLK cycle of a native timer. -/
def tmCycle (s : State) (n : Nat) : State :=
  let s := tmSettle s n
  if !tmNative s n then s
  else
    let s := tmCaptureAll s n
    let (s, rise, stop) := match (s.timer n).taken with
      | some z => (s, false, z)
      | none => tmInput s n
    let t := s.timer n
    let axn := tmAxisCount s n
    let ax := (busVal s (timerDie n) (tmClkax s n)).value >>> 16
    let pins := t.clkEdges
    let s := s.setTimer n { t with taken := none, clkEdges := 0, lastAx := if tmClksel s n = 3 then ax else t.lastAx }
    if stop || !tmCounts s n then s else tmSources s n (tmSourceCount (tmClksel s n) pins rise axn)

/-- A change of TRGI of the kind named acts ahead of the rest of its cycle (R472): a rising edge resets or starts the timer, or is a source event
of CLKSEL 2. -/
def tmTrigger (s : State) (n : Nat) (rising : Bool) : State :=
  let s := tmBefore s n
  let t := s.timer n
  if !tmNative s n || t.taken.isSome || (tmTrgi s n == t.trgi && !t.trgRise) || ((tmTrgi s n && !t.trgi) || t.trgRise) != rising then s
  else
    let (s, rise, stop) := tmInput s n
    let clocked := tmClksel s n == 2 && rise && !stop && tmCounts s n
    let s := s.setTimer n { s.timer n with taken := some (stop || clocked) }
    if clocked then tmSourceEvent s n else s

/-! Set-up writes (R461, R466 to R468). -/

/-- With PRELOAD = 0, or while the period in force is 0, a written value comes into force at once. -/
def tmPeriodWrite (s : State) (n : Nat) (r : RegName) (v : W64) : State :=
  let s := tmBefore s n
  let s := regCommit s r n v
  let t := s.timer n
  if tmPreload s n && t.perA ≠ 0 then s
  else
    let w := regGet32 s r n
    let t := match r with
      | .tmrPsc => { t with pscA := w }
      | .tmrPer => { t with perA := w }
      | .tmrCmp0 => { t with cmp0A := w }
      | _ => { t with cmp1A := w }
    let s := s.setTimer n t.held
    if r == .tmrPer then tmLateCount s n else s

/-- A write of TMR_n_CFG: fields frozen while RUN = 1, and COMPAT frozen while either machine runs (R461). -/
def tmCfgWrite (s : State) (n : Nat) (v : W64) : State :=
  let s := tmSettle s n
  let old := regGet s .tmrCfg n
  let w := regMerge (regRow .tmrCfg) old v
  let run := (s.timer n).run
  let frozen : W64 := (if run then 0x7FFF7 &&& ~~~ 0x8 else 0) |||
    (if run || bit (regGet s .k5Ctl n) 0 then 0x100000 else 0)
  let w' := (w &&& ~~~ frozen) ||| (old &&& frozen)
  let s := if (w &&& frozen) != (old &&& frozen) then tmCfgerr s n else s
  let s := regPut s .tmrCfg n w'
  -- a change of mode changes the pin that is captured
  let s := if (w' ^^^ old) &&& 0x100000 = 0 then s
    else s.setTimer n { s.timer n with capLvl := tmPinSettled s n (if tmCompat s n then k5Cappin s n else tmCappin s n)
                                       capDue := [], capNext := [], k5cap := false }
  if (w' ^^^ old) &&& 0x7FFF0 = 0 then s
  else s.setTimer n { s.timer n with clkLvl := tmPinSettled s n (tmClkpin s n), clkEdges := 0, clkNext := 0
                                     lastAx := (busVal s (timerDie n) (tmClkax s n)).value >>> 16 }

/-- OCx keeps its level when the mode changes (Table 18.4, mode 0). -/
def tmOcfgWrite (s : State) (n : Nat) (v : W64) : State :=
  let s := tmSettle s n
  let s := s.setTimer n { s.timer n with oc0 := ocLevel s n 0, oc1 := ocLevel s n 1 }
  regCommit s .tmrOcfg n v

/-- A timer number above 31 is reserved in TRGSEL (Table 18.8). -/
def tmSlvWrite (s : State) (n : Nat) (v : W64) : State :=
  let s := tmSettle s n
  let w := regMerge (regRow .tmrSlv) (regGet s .tmrSlv n) v
  let w := if !bit w 3 && decide (32 ≤ fld w 4 6) then putFld w 4 6 (fld (regGet s .tmrSlv n) 4 6) else w
  let old := regGet s .tmrSlv n
  let s := regPut s .tmrSlv n w
  if (w ^^^ old) &&& 0x3F8 = 0 then s
  else
    let l := tmPinSettled s n (tmTrgsel s n)
    s.setTimer n { s.timer n with trgLvl := l, trgIn := l, trgRise := false, riseNext := false }

/-- Setting CAPEN forgets a first edge seen before (R474); in compatibility mode only FILT means something (R479). -/
def tmCapcfgWrite (s : State) (n : Nat) (v : W64) : State :=
  if tmCompat s n then regCommit s .tmrCapcfg n v else
  let s := tmBefore s n
  let old := regGet s .tmrCapcfg n
  let s := regCommit s .tmrCapcfg n v
  let w := regGet s .tmrCapcfg n
  let s := if (w ^^^ old) &&& 0x7F = 0 then s
    else s.setTimer n { s.timer n with capLvl := tmPinSettled s n (tmCappin s n), capDue := [], capNext := [] }
  if !bit old 0 && bit w 0 then s.setTimer n { s.timer n with capr := none } else s

def tmStatRead (s : State) (n : Nat) : W64 :=
  if tmCompat s n then 0
  else
    let t := s.timer n
    regGet s .tmrStat n ||| w64 (t.run.toNat + 2 * t.down.toNat + 4 * t.gatel.toNat + 8 * (ocLevel s n 0).toNat +
      16 * (ocLevel s n 1).toNat + 2048 * t.new.toNat + 16384 * (decide (t.perA = 0)).toNat)

/-! DOZE make-up (R477). -/

/-- How many of the ticks 1 to T, in a sequence of length L, fall on position i. -/
def occurs (T L i : Nat) : Nat := if i = 0 then T / L else if T < i then 0 else (T - i) / L + 1

/-- Position of a count in the sequence of a mode (Table 18.2), as the indexes where that count stands. -/
def seqIx (mode per c : Nat) : List Nat :=
  match mode with
  | 0 => if c < per then [c] else []
  | 1 => if c < per then [per - 1 - c] else []
  | _ => if c = 0 then [0] else if c < per then [c, 2 * per - c] else if c = per then [per] else []
def seqLen (mode per : Nat) : Nat := if mode < 2 then per else 2 * per
/-- Count and direction (true down) at index i of the sequence. -/
def seqAt (mode per i : Nat) : Nat × Bool :=
  match mode with
  | 0 => (i, false)
  | 1 => (per - 1 - i, false)
  | _ => if i < per then (i, false) else (2 * per - i, true)
def seqPos (mode per c : Nat) (down : Bool) : Nat :=
  match mode with
  | 0 => c
  | 1 => per - 1 - c
  | _ => if down then 2 * per - c else c

/-- Matches passed on output x in a stretch of T ticks from index i: flag and level. -/
def tmPassed (s : State) (n x mode per i T cmp : Nat) : State :=
  let L := seqLen mode per
  let hits := ((seqIx mode per cmp).map (fun j => occurs (i + T) L j - occurs i L j)).sum
  if hits = 0 then s
  else
    let s := regSetBits s .tmrStat n (w64 (1 <<< (9 + x)))
    let t := s.timer n
    let old := if x = 0 then t.oc0 else t.oc1
    let v := match tmOcm s n x with | 1 => true | 2 => false | 3 => old != (hits % 2 == 1) | _ => old
    s.setTimer n (if x = 0 then { t with oc0 := v } else { t with oc1 := v })

/-- A match at the count that a missed update event leaves: flag and output, no event. -/
def tmMarkMatch (s : State) (n x : Nat) : State :=
  let t := s.timer n
  if t.cnt ≠ (if x = 0 then t.cmp0A else t.cmp1A) then s
  else
    let v := fun (old : Bool) => match tmOcm s n x with | 1 => true | 2 => false | 3 => !old | _ => old
    let s := regSetBits s .tmrStat n (w64 (1 <<< (9 + x)))
    s.setTimer n (if x = 0 then { t with oc0 := v t.oc0 } else { t with oc1 := v t.oc1 })

/-- Advance the counter by k source events without reaching an update event, or past any number of them. -/
def tmAdvance (s : State) (n k : Nat) : State × Nat :=
  let t := s.timer n
  let mode := tmMode s n
  let per := t.perA.toNat
  if per = 0 then (s.setTimer n { t with cnt := 0 }, 0)
  else
    let ticks := (t.pscnt + k) / (t.pscA.toNat + 1)
    let L := seqLen mode per
    let i := seqPos mode per t.cnt.toNat t.down
    let s := s.setTimer n { t with pscnt := (t.pscnt + k) % (t.pscA.toNat + 1) }
    let s := tmPassed s n 0 mode per i ticks t.cmp0A.toNat
    let s := tmPassed s n 1 mode per i ticks t.cmp1A.toNat
    let p := seqAt mode per ((i + ticks) % L)
    (s.setTimer n { s.timer n with cnt := w32 p.1, down := p.2 }, (i + ticks) / L)

/-- The make-up of one timer by n source events at wake. -/
def tmMakeup (s : State) (n k : Nat) : State :=
  let s := tmSettle s n
  let t := s.timer n
  let mode := tmMode s n
  let per := t.perA.toNat
  if per = 0 then s
  else
    -- source events up to the first update event
    let i := seqPos mode per t.cnt.toNat t.down
    let toUev := if t.latepend then 1 else seqLen mode per - i
    let ev := toUev * (t.pscA.toNat + 1) - t.pscnt
    if k < ev then (tmAdvance s n k).1
    else
      let s := if t.latepend then s else (tmAdvance s n (ev - (t.pscA.toNat + 1))).1
      -- the first missed update event
      let s := s.setTimer n { s.timer n with latepend := false, pscnt := 0, cnt := 0, down := false }
      let s := if t.latepend then regSetBits s .tmrEvt 0 2 else s
      let s := if t.latepend then regSetBits s .tmrStat n 0x2000 else s
      let s := tmTransfer s n
      let t2 := s.timer n
      let s := s.setTimer n { t2 with cnt := if mode = 1 && !t.latepend && t2.perA ≠ 0 then t2.perA - 1 else 0 }
      let s := tmMarkMatch (tmMarkMatch s n 0) n 1
      let r := if tmOpm s n then (s.setTimer n { s.timer n with run := false }, 0) else tmAdvance s n (k - ev)
      let s := regCount r.1 .tmrMissed n (1 + r.2)
      let s := tmEvent s n 15 (some 3) none
      tmTrgoEvent (tmEvent s n 8 none (some 0)) n 0

/-- The timers that are made up at wake (R477). -/
def tmMadeUp (s : State) (n : Nat) : Bool :=
  let t := s.timer n
  t.run && t.gatel && tmClksel s n == 0 && tmSms s n != 1 && !tmCompat s n

/-! K5410 compatibility machine (R479, R480). -/

def k5Running (s : State) (n : Nat) : Bool := tmCompat s n && bit (regGet s .k5Ctl n) 0

/-- A flag of K5_n_STS is set; with its enable bit it raises TIRQ, during DOZE only at wake. -/
def k5Flag (s : State) (n b : Nat) (enable : Option Nat) : State :=
  let s := regSetBits s .k5Sts n (w64 (1 <<< b))
  if (s.die (timerDie n)).doze then s.setTimer n { s.timer n with k5late := setBit (s.timer n).k5late b true }
  else match enable with
  | some e => if bit (regGet s .k5Ctl n) e then tirq s n else s
  | none => s

/-- At wake the flags that were set during DOZE raise their interrupts. -/
def k5Wake (s : State) (n : Nat) : State :=
  let f := (s.timer n).k5late
  let s := s.setTimer n { s.timer n with k5late := 0 }
  let due := fun (b : Nat) => bit f b && bit (regGet s .k5Sts n) b && bit (regGet s .k5Ctl n) (b + 1)
  if tmCompat s n && (due 0 || due 1 || due 2) then tirq s n else s

/-- A flag that is set and enabled raises its interrupt when TMR_n_IRQ is written. -/
def k5Pending (s : State) (n : Nat) : State :=
  let c := regGet s .k5Ctl n
  let f := regGet s .k5Sts n
  if tmCompat s n && ((bit f 0 && bit c 1) || (bit f 1 && bit c 2) || (bit f 2 && bit c 3)) then tirq s n else s

/-- The wrap sets OVFF. -/
def k5Wrap (s : State) (n : Nat) : State :=
  if (s.timer n).k5wrap then k5Flag (s.setTimer n { s.timer n with k5wrap := false }) n 1 (some 2) else s

/-- A count that became K5_n_CMP sets CMPF and toggles or raises the compare output. -/
def k5Match (s : State) (n : Nat) : State :=
  let t := s.timer n
  if t.k5match then
    let out := if bit (regGet s .k5Ctl n) 5 then !t.k5out else true
    k5Flag (s.setTimer n { t with k5match := false, k5out := out }) n 0 (some 1)
  else s

def k5Settle (s : State) (n : Nat) : State := k5Match (k5Wrap s n) n

/-- The count takes a new value. -/
def k5SetCount (s : State) (n : Nat) (c : W32) (wrap : Bool) : State :=
  s.setTimer n { s.timer n with k5cnt := c, k5wrap := wrap, k5match := c == regGet32 s .k5Cmp n }

/-- A capture edge that is due latches the count; pins are not sampled in DOZE. -/
def k5Capture (s : State) (n : Nat) : State :=
  let s := k5Settle s n
  if (s.timer n).k5cap && tmCompat s n then
    let again := bit (regGet s .k5Sts n) 2
    let s := regPut (s.setTimer n { s.timer n with k5cap := false }) .k5Cap n ((s.timer n).k5cnt.setWidth 64)
    let s := if again then k5Flag s n 3 none else s
    k5Flag s n 2 (some 3)
  else s

/-- One SYSCLK cycle: a raised compare pulse ends, a capture edge latches the count, a written count takes effect, and every
PRE + 1 cycles a running timer adds 1. (DEDUCED, log entry 141.) -/
def k5Tick (s : State) (n : Nat) : State :=
  let s := k5Capture s n
  let t := s.timer n
  let s := if !bit (regGet s .k5Ctl n) 5 && t.k5out then s.setTimer n { t with k5out := false } else s
  let t := s.timer n
  match t.k5next with
  | some v => if tmCompat s n then k5SetCount (s.setTimer n { t with k5next := none }) n v false else s
  | none =>
    if !k5Running s n then s
    else if t.k5psc < fld (regGet s .k5Ctl n) 8 8 then s.setTimer n { t with k5psc := t.k5psc + 1 }
    else k5SetCount (s.setTimer n { t with k5psc := 0 }) n (t.k5cnt + 1) (t.k5cnt == 0xFFFFFFFF)

/-- Writes of the compatibility registers; they are ignored while COMPAT is 0 (R480). -/
def k5Write (s : State) (n : Nat) (r : RegName) (v : W64) : State :=
  if !tmCompat s n then s
  else
    let s := k5Settle s n
    match r with
    | .k5Ctl =>
      let old := regGet s .k5Ctl n
      let w := regMerge (regRow .k5Ctl) old v
      let w := if bit old 0 then putFld w 8 8 (fld old 8 8) else w
      regPut s .k5Ctl n (setBit w 0 (bit old 0 || bit v 0))
    | .k5Cnt => s.setTimer n { s.timer n with k5next := some (v.setWidth 32) }
    | .k5Pin =>
      let s := regCommit s .k5Pin n v
      s.setTimer n { s.timer n with capLvl := tmPinSettled s n (k5Cappin s n) }
    | r => regCommit s r n v

/-- A write of K5_n_STS: what is due sets its flag in the same cycle, and stays set (R8). -/
def k5StsWrite (s : State) (n : Nat) (v : W64) : State := if tmCompat s n then k5Settle (regCommit s .k5Sts n v) n else s

def k5Read (s : State) (n : Nat) (r : RegName) : W64 :=
  if !tmCompat s n then 0
  else match r with
    | .k5Cnt => (s.timer n).k5cnt.setWidth 64
    | .k5Sts => regGet s .k5Sts n ||| w64 (16 * (bit (regGet s .k5Ctl n) 0).toNat)
    | r => regGet s r n

/-- A committed write to one of the native registers. (DEDUCED, log entry 96.) -/
def tmRegWrite (s : State) (n : Nat) (r : RegName) (v : W64) : State :=
  match r with
  | .tmrCfg => tmCfgWrite s n v
  | .tmrPsc | .tmrPer | .tmrCmp0 | .tmrCmp1 => tmPeriodWrite s n r v
  | .tmrOcfg => tmOcfgWrite s n v
  | .tmrSlv => tmSlvWrite s n v
  | .tmrCapcfg => tmCapcfgWrite s n v
  | .tmrIrq => k5Pending (regCommit s .tmrIrq n v) n
  | .tmrCtrl => tmCtrlWrite s n v
  | .tmrStat => tmBefore (regCommit s .tmrStat n v) n     -- what the write's own cycle sets stays set (R8)
  | r => regCommit (tmBefore s n) r n v

end Sys2Proof.Machine
end

