-- ==== Sys2Proof/Machine/Window.lean ====
section
/-! DEFINITION. Fields of object descriptors and the descriptor windows of alarms, timers and channels (R430, Table 16.8). -/
namespace Sys2Proof.Machine

def dByte (d : List Byte) (i : Nat) : Nat := (d.getD i 0).toNat
/-- n bytes from byte i on, little-endian. -/
def dWord (d : List Byte) (i n : Nat) : Nat := leNat ((d.drop i).take n)
def dZero (d : List Byte) (i n : Nat) : Bool := dWord d i n == 0

def dType (d : List Byte) : Nat := dByte d 0
/-! Object descriptors (Table 16.8). -/
def oObj (d : List Byte) : Nat := dWord d 2 2
def oOp (d : List Byte) : Nat := dByte d 4
def oMask (d : List Byte) : Nat := dWord d 8 4
def oWord (d : List Byte) (j : Nat) : W32 := w32 (dWord d (16 + 4 * j) 4)
def oSel (d : List Byte) (j : Nat) : Bool := (oMask d).testBit j

/-- Register and half that word j of a window stands for (R457, R482, R517); none is a reserved word. -/
def windowWord (ty j : Nat) : Option (RegName × Bool) :=
  let l : List (Option (RegName × Bool)) := match ty with
    | 5 => [some (.alCfg, false), some (.alHyst, false), some (.alTarget, false), some (.alTarget, true),
            some (.alIntv, false), some (.alIntv, true), some (.alRoute, false), some (.alPin, false),
            some (.alCore, false), some (.alSlog, false), some (.alSbase, false), some (.alSbase, true)]
    | 6 => [some (.tmrCfg, false), some (.tmrPsc, false), some (.tmrPer, false), some (.tmrCmp0, false),
            some (.tmrCmp1, false), some (.tmrOcfg, false), some (.tmrSlv, false), some (.tmrCapcfg, false),
            some (.tmrIrq, false), some (.tmrIrqen, false), some (.tmrLoad, false)]
    | 7 => [some (.vglEgCfg, false), some (.vglEgLen, false), some (.vglEgSrc, false), some (.vglEgSrc, true)]
    | _ => [some (.vglInCfg, false), some (.vglInNslot, false), some (.vglInBase, false), some (.vglInBase, true),
            some (.vglInOrigin, false), some (.vglInOrigin, true), some (.vglInPitch, false), some (.vglInPitch, true),
            some (.vglInSlotsz, false)]
  (l[j]?).getD none

/-- A word sets a reserved bit or holds a reserved encoding (R430). -/
def wordBad (ty j : Nat) (v : W32) : Bool :=
  match windowWord ty j with
  | none => v != 0
  | some (r, hi) =>
    let row := regRow r
    let m := w64 row.rw
    let x : W64 := if hi then (v.setWidth 64) <<< 32 else v.setWidth 64
    (x &&& ~~~ m) != 0 || (!hi && rwMask row x != m)
    || (r == .tmrSlv && !bit x 3 && decide (32 ≤ fld x 4 6))

/-- The value a window register takes from the selected words (R430). -/
def windowMerge (ty : Nat) (d : List Byte) (r : RegName) (old : W64) : W64 :=
  (List.range 12).foldl (fun v j => match windowWord ty j with
    | some (q, hi) => if oSel d j && q == r then putFld v (if hi then 32 else 0) 32 (oWord d j).toNat else v
    | none => v) old

/-- The registers that a descriptor writes, in window order. -/
def windowRegs (ty : Nat) (d : List Byte) : List RegName :=
  (((List.range 12).filter (oSel d)).filterMap (fun j => (windowWord ty j).map (·.1))).eraseDups

/-- The window words applied to the register file alone. -/
def windowPut (s : State) (ty : Nat) (d : List Byte) : State :=
  (windowRegs ty d).foldl (fun s r => regPut s r (oObj d) (windowMerge ty d r (regGet s r (oObj d)))) s

end Sys2Proof.Machine
end

