-- ==== Sys2Proof/Machine/Vgl.lean ====
section
/-! DEFINITION. Ports of the Vangoak Link (chapter 19): training, flits, replay, credits, link messages and time
synchronisation. -/
namespace Sys2Proof.Machine

def portDie (p : Nat) : Nat := p / 4
def chanDie (c : Nat) : Nat := c / 128
def vglEvent (s : State) (b : Nat) : State := regSetBits s .vglEvt 0 (w64 (2 ^ b))
def portEn (s : State) (p : Nat) : Bool := bit (regGet s .vglCfg p) 0
def ax0Of (s : State) (die : Nat) : W64 := (s.die die).ax0

/-! Flits (R490, R491). -/

/-- One bit of the reflected CRC-32. -/
def crc32Bit (c : W32) : W32 := if c.getLsbD 0 then (c >>> 1) ^^^ 0xEDB88320 else c >>> 1
def crc32Byte (c : W32) (b : Byte) : W32 :=
  let c := c ^^^ b.setWidth 32
  crc32Bit (crc32Bit (crc32Bit (crc32Bit (crc32Bit (crc32Bit (crc32Bit (crc32Bit c)))))))
/-- CRC-32 of a list of bytes: preset all ones, final inversion. -/
def crc32 (l : List Byte) : W32 := ~~~ (l.foldl crc32Byte 0xFFFFFFFF)

/-- The fields of a flit header (Table 19.3). -/
structure FlitHead where
  kind : Nat := 0
  vc   : Nat := 0
  som  : Bool := false
  eom  : Bool := false
  plen : Nat := 0
  sq   : Nat := 0
  ack  : Nat := 0
  ackv : Bool := false
  cvc  : Nat := 0
  ccnt : Nat := 0
  rpl  : Bool := false
  rest : Nat := 0
  deriving DecidableEq, Repr

def headBytes (h : FlitHead) : List Byte :=
  leBytes (h.kind + h.vc * 2 ^ 2 + h.som.toNat * 2 ^ 4 + h.eom.toNat * 2 ^ 5 + h.plen * 2 ^ 6 + h.sq * 2 ^ 14 +
    h.ack * 2 ^ 26 + h.ackv.toNat * 2 ^ 38 + h.cvc * 2 ^ 39 + h.ccnt * 2 ^ 41 + h.rpl.toNat * 2 ^ 49) 8

/-- The 256 bytes of a flit. -/
def flitBytes (h : FlitHead) (payload : List Byte) : List Byte :=
  let b := headBytes h ++ (payload ++ zeroBytes 244).take 244
  b ++ leBytes (crc32 b).toNat 4

def headOf (b : List Byte) : FlitHead :=
  let n := w64 (leNat (b.take 8))
  { kind := fld n 0 2, vc := fld n 2 2, som := bit n 4, eom := bit n 5, plen := fld n 6 8, sq := fld n 14 12,
    ack := fld n 26 12, ackv := bit n 38, cvc := fld n 39 2, ccnt := fld n 41 8, rpl := bit n 49, rest := fld n 50 14 }
def crcGood (b : List Byte) : Bool := (crc32 (b.take 252)).toNat == leNat ((b.drop 252).take 4)

/-- A flit with a good CRC that is a protocol error (R492). -/
def headBad (h : FlitHead) : Bool :=
  h.kind == 3 || h.rest != 0 ||
  (if h.kind == 1 then h.plen == 0 || decide (244 < h.plen)
   else h.plen != 0 || h.sq != 0 || h.vc != 0 || h.som || h.eom || h.rpl)

/-! Codewords (R486, R487): RS(544,514) over GF(2^10).  The field, the generator and the places of bits in a symbol are those of
IEEE 802.3. (PRESUMED, log entry 143.) -/

def gfDouble (a : BitVec 10) : BitVec 10 := if a.getLsbD 9 then (a <<< 1) ^^^ 9 else a <<< 1
/-- Product in GF(2^10) with x^10 + x^3 + 1. -/
def gfMul (a b : BitVec 10) : BitVec 10 :=
  ((List.range 10).foldl (fun (r : BitVec 10 × BitVec 10) i =>
    (if b.getLsbD i then r.1 ^^^ r.2 else r.1, gfDouble r.2)) (0, a)).1
/-- The generator without its leading 1, from x^29 down. (PRESUMED, log entry 143.) -/
def rsGen : List (BitVec 10) :=
  [575, 552, 187, 230, 552, 1, 108, 565, 282, 249, 593, 132, 94, 720, 495, 385, 942, 503, 883, 361, 788, 610, 193, 392, 127, 185,
    158, 128, 834, 523]
/-- One message symbol enters the division; the remainder stands with x^29 first. -/
def rsStep (rem : List (BitVec 10)) (m : BitVec 10) : List (BitVec 10) :=
  let f := m ^^^ rem.headD 0
  (rem.tail ++ [0]).zipWith (fun r g => r ^^^ gfMul f g) rsGen
/-- The 30 check symbols of a message. -/
def rsCheck (msg : List (BitVec 10)) : List (BitVec 10) := msg.foldl rsStep (List.replicate 30 0)
/-- Symbols of 10 bits from bytes, least significant bit first: four from five bytes. -/
def symbols : List Byte → List (BitVec 10)
  | a :: b :: c :: d :: e :: r =>
    let n := leNat [a, b, c, d, e]
    [BitVec.ofNat 10 n, BitVec.ofNat 10 (n / 2 ^ 10), BitVec.ofNat 10 (n / 2 ^ 20), BitVec.ofNat 10 (n / 2 ^ 30)] ++ symbols r
  | _ => []
/-- A codeword: marker, counter, 512 symbols of flits and 30 check symbols. -/
def codeword (odd : Bool) (count : Nat) (bs : List Byte) : List (BitVec 10) :=
  let msg := (if odd then 0x155 else 0x2AA) :: BitVec.ofNat 10 count :: symbols bs
  msg ++ rsCheck msg
/-- The symbols that lane l carries (R487): those at places l, l + 4 and so on. -/
def laneSymbols (word : List (BitVec 10)) (l : Nat) : List (BitVec 10) :=
  (List.range 136).map (fun k => word.getD (4 * k + l) 0)
/-- A flit leaves: five of them, 10,240 bits, make a pair of codewords; the first of a pair has an even counter. -/
def Port.emit (x : Port) (flit : List Byte) : Port :=
  let q := x.fill ++ flit
  if q.length < 1280 then { x with sent := flit, fill := q }
  else { x with
    sent := flit, fill := [], cw := (x.cw + 2) % 1024
    code := [codeword x.odd x.cw (q.take 640), codeword (!x.odd) (x.cw + 1) (q.drop 640)] }
/-- Codeword transmission begins (Table 19.2, ALIGN) with a pair. (DESIGN CHOICE: its counter and marker are free, log entry 143.) -/
def Port.codeBegin (x : Port) (p : Nat) : Port :=
  let a := Config.codewordStart p x.starts
  { x with starts := x.starts + 1, cw := 2 * a.1 % 1024, odd := a.2, fill := [], code := [], rxAt := 0, rxLost := false }

/-- What the transmit lanes of a port carry (Table 19.2). -/
inductive LineSignal where
  | idle | prbs31 | codewords
  deriving DecidableEq, Repr
def lineSignal (s : State) (p : Nat) : LineSignal :=
  match (s.port p).ls with
  | .down => if portEn s p then .prbs31 else .idle
  | .eq => .prbs31
  | _ => .codewords

/-! Messages (R500, R501). -/

/-- The header of Table 19.6. -/
def msgHeader (ty sid flags len : Nat) (stamp : W64) : List Byte :=
  leBytes ty 1 ++ leBytes sid 1 ++ leBytes flags 1 ++ [0] ++ leBytes len 4 ++ leBytes stamp.toNat 8
def mType (m : List Byte) : Nat := (m.getD 0 0).toNat
def mSid (m : List Byte) : Nat := (m.getD 1 0).toNat
def mFlags (m : List Byte) : Nat := (m.getD 2 0).toNat
def mLen (m : List Byte) : Nat := leNat ((m.drop 4).take 4)
def mStamp (m : List Byte) : W64 := w64 (leNat ((m.drop 8).take 8))

/-- The message breaks Table 19.7, or bits of its header that are 0 are not. -/
def msgBad (m : List Byte) (vc : Nat) : Bool :=
  mFlags m / 2 != 0 || m.getD 3 0 != 0 ||
  (match mType m with
   | 1 => vc != 0 || decide (262144 < mLen m)
   | 2 => vc != 1 || decide (262144 < mLen m)
   | 3 => (vc != 0 && vc != 2) || decide (262144 < mLen m)
   | 4 => vc != 3 || mLen m != 48
   | 5 => vc != 2 || mLen m != 16
   | 6 => vc != 2 || mLen m != 0
   | _ => true)

/-- Cut a message into flits of 244 payload bytes. -/
def cutFlits (vc : Nat) (chan : Option Nat) (mgmt : Bool) (sync : Option Nat) : Nat → Bool → List Byte → List Flit
  | 0, _, _ => []
  | fuel + 1, first, bs =>
    let last := decide (bs.length ≤ 244)
    { vc, som := first, eom := last, payload := bs.take 244, chan, mgmt, sync } ::
      (if last then [] else cutFlits vc chan mgmt sync fuel false (bs.drop 244))
def msgFlits (vc : Nat) (chan : Option Nat) (mgmt : Bool) (sync : Option Nat) (m : List Byte) : List Flit :=
  cutFlits vc chan mgmt sync (m.length / 244 + 2) true m

def Port.put (x : Port) (vc : Nat) (l : List Flit) : Port := { x with txq := tset [] x.txq vc (tget [] x.txq vc ++ l) }

/-- A LINK_MGMT message (R513): ADVERT of our own credits (Table 19.5) or RETRAIN. -/
def advertMsg : List Byte :=
  msgHeader 5 0 0 16 0 ++ [1, 1, 0, 0] ++ leBytes 48 2 ++ leBytes 128 2 ++ leBytes 16 2 ++ leBytes 8 2 ++ zeroBytes 4

/-- Credits the K7820 advertises for each VC (Table 19.5). -/
def rxCredits (vc : Nat) : Nat := match vc with | 0 => 48 | 1 => 128 | 2 => 16 | _ => 8

/-! Link state (R488, R489). -/

def lstateCode : LState → Nat
  | .down => 0
  | .eq => 1
  | .align => 2
  | .config => 3
  | .up => 4

def vglStatRead (s : State) (p : Nat) : W64 :=
  let x := s.port p
  w64 (lstateCode x.ls + 8 * x.slow.toNat + 16 * x.fark.toNat + 32 * x.delay.isSome.toNat)
def vglCredRead (s : State) (p : Nat) : W64 :=
  let x := s.port p
  w64 ((List.range 4).foldl (fun a v => a + min 255 (tget 0 x.cred v) * 256 ^ v) 0)

def portState (s : State) (p : Nat) (x : Port) : State :=
  let old := (s.port p).ls
  let s := s.setPort p x
  if old = x.ls then s else trace s 5 (lstateCode x.ls) p 0

/-! Ingest channels whose message is cut short, and egress frames that are lost. -/

def inPort (s : State) (c : Nat) : Nat := fld (regGet s .vglInCfg c) 0 3
def inVc (s : State) (c : Nat) : Nat := fld (regGet s .vglInCfg c) 3 2
def inSid (s : State) (c : Nat) : Nat := fld (regGet s .vglInCfg c) 8 8
def inEn (s : State) (c : Nat) : Bool := bit (regGet s .vglInStat c) 0
def egPort (s : State) (c : Nat) : Nat := fld (regGet s .vglEgCfg c) 0 3
def egEn (s : State) (c : Nat) : Bool := bit (regGet s .vglEgStat c) 0
def State.egress (s : State) (c : Nat) : Egress := tget {} s.egresses c
def State.setEgress (s : State) (c : Nat) (x : Egress) : State := { s with egresses := tset {} s.egresses c x }

/-- Ingest status bits: OOR 8, OVERSIZE 9, DUP 10, TRUNC 11, CFGERR 12 (Table 19.12). -/
def inStatus (s : State) (c b : Nat) : State := vglEvent (regSetBits s .vglInStat c (w64 (2 ^ b))) 24
/-- Egress status bits: RDERR 8, DROP 9, CFGERR 10. -/
def egStatus (s : State) (c b : Nat) : State := vglEvent (regSetBits s .vglEgStat c (w64 (2 ^ b))) 25
/-- A dropped trigger or a lost frame (R507). -/
def egDrop (s : State) (c : Nat) : State := egStatus (regCount s .vglEgDropcnt c 1) c 9

/-! Validity (R518), matching and slots (R502). -/

def cellarEnd : Nat := 0x10000000

def inBase (s : State) (c : Nat) : Nat := (regGet s .vglInBase c).toNat
def inNslot (s : State) (c : Nat) : Nat := (regGet s .vglInNslot c).toNat
def inSlotsz (s : State) (c : Nat) : Nat := (regGet s .vglInSlotsz c).toNat
def inPitch (s : State) (c : Nat) : Int := (regGet s .vglInPitch c).toInt
def inHdrw (s : State) (c : Nat) : Bool := bit (regGet s .vglInCfg c) 5
def inWrap (s : State) (c : Nat) : Bool := bit (regGet s .vglInCfg c) 6

/-- Another enabled channel matches the same port, stream and virtual channel. -/
def inClash (s : State) (c : Nat) : Bool :=
  (List.range 256).any (fun d => d ≠ c && inEn s d && inPort s d == inPort s c && inSid s d == inSid s c && inVc s d == inVc s c)

def inValid (s : State) (c : Nat) : Bool :=
  portDie (inPort s c) == chanDie c && inVc s c != 3 &&
  decide (1 ≤ inNslot s c) && decide (inNslot s c ≤ 2 ^ 24) &&
  inBase s c % 64 == 0 && decide (1 ≤ inPitch s c) &&
  inSlotsz s c % 64 == 0 && decide (64 ≤ inSlotsz s c) && decide (inSlotsz s c ≤ 2 ^ 22) &&
  decide (inBase s c + inNslot s c * inSlotsz s c ≤ cellarEnd) && !inClash s c

def egVc (s : State) (c : Nat) : Nat := fld (regGet s .vglEgCfg c) 3 2
def egSid (s : State) (c : Nat) : Nat := fld (regGet s .vglEgCfg c) 8 8
def egLen (s : State) (c : Nat) : Nat := (regGet s .vglEgLen c).toNat
def egSrc (s : State) (c : Nat) : Nat := (regGet s .vglEgSrc c).toNat
def egValid (s : State) (c : Nat) : Bool :=
  portDie (egPort s c) == chanDie c && (egVc s c == 0 || egVc s c == 2) && decide (egLen s c ≤ 16384) &&
  egSrc s c % 8 == 0 && (egLen s c == 0 || decide (egSrc s c + egLen s c ≤ cellarEnd))

/-- The enabled channel that matches a message. -/
def inMatch (s : State) (p vc : Nat) (m : List Byte) : Option Nat :=
  (List.range 256).find? (fun c => inEn s c && inPort s c == p && inVc s c == vc && inSid s c == mSid m)
def isFrame (m : List Byte) : Bool := mType m == 1 || mType m == 2 || mType m == 3

/-- Slot of a stamp (R502): none is out of range.  The index before wrapping comes with it. (DEDUCED, log entry 98.) -/
def inSlot (s : State) (c : Nat) (stamp : W64) : Int × Option Nat :=
  let i := (sdiff stamp (regGet s .vglInOrigin c)).fdiv (inPitch s c)
  let n : Int := inNslot s c
  if 0 ≤ i ∧ i < n then (i, some i.toNat)
  else if inWrap s c then (i, some (i.fmod n).toNat)
  else (i, none)

/-- The placement of a matched message, or its discard. -/
def inDecide (s : State) (c : Nat) (m : List Byte) : State × Fate :=
  let bad := fun (b : Nat) => (regCount (inStatus s c b) .vglInErrcnt c 1, Fate.drop)
  let (i, k) := inSlot s c (mStamp m)
  match k with
  | none => bad 8
  | some k =>
    let hdr := if inHdrw s c then 16 else 0
    if inSlotsz s c < hdr + mLen m then bad 9
    else
      let g : Ingest := tget {} s.ingests c
      let s := if g.last = some i then inStatus s c 10 else s
      ({ s with ingests := tset {} s.ingests c { g with last := some i } }, .place c (inBase s c + k * inSlotsz s c) hdr)

/-! Descriptor words (R508, R519). -/

/-- EN bits of the two kinds of channel. -/
def inSetEn (s : State) (c : Nat) (b : Bool) : State := regPut s .vglInStat c (setBit (regGet s .vglInStat c) 0 b)
def egSetEn (s : State) (c : Nat) (b : Bool) : State := regPut s .vglEgStat c (setBit (regGet s .vglEgStat c) 0 b)
/-- An EGRESS or INGEST descriptor's words and OP take effect: OP 1 enables the channel after them, OP 2 disables it. -/
def egObject (s : State) (d : List Byte) : State :=
  let n := oObj d
  let s := windowPut (if oOp d = 2 then egSetEn s n false else s) 7 d
  if oOp d = 1 then egSetEn s n true else s
def inObject (s : State) (d : List Byte) : State :=
  let n := oObj d
  let s := windowPut (if oOp d = 2 then inSetEn s n false else s) 8 d
  if oOp d = 1 then inSetEn s n true else s
/-- The words of a descriptor would leave an enabled channel invalid (R518, R519). -/
def chanBad (s : State) (d : List Byte) : Bool :=
  let n := oObj d
  if dType d = 7 then (oOp d == 1 || (oOp d == 0 && egEn s n)) && !egValid (windowPut s 7 d) n
  else (oOp d == 1 || (oOp d == 0 && inEn s n)) && !inValid (windowPut s 8 d) n
/-- The words of a started descriptor take effect together.  One that would by now leave an enabled channel invalid changes nothing
and is refused (R519). -/
def owedPut (s : State) (o : Owed) : State :=
  if chanBad s o.bytes then
    let x := s.ring o.ring
    s.setRing o.ring { x with started := x.started.map (fun e => if e.seqNo == o.seqNo && !e.stale then { e with refused := true } else e) }
  else if dType o.bytes = 7 then egObject s o.bytes else inObject s o.bytes
/-- The channel holds no frame any more: the words that wait for that take effect (R508). -/
def egFree (s : State) (c : Nat) : State := (s.egress c).owed.foldl owedPut (s.setEgress c {})
/-- A message boundary of an ingest channel: the same (R519). -/
def inFree (s : State) (c : Nat) : State :=
  let g : Ingest := tget {} s.ingests c
  if g.owed.isEmpty then s
  else g.owed.foldl owedPut { s with ingests := tset {} s.ingests c { g with owed := [] } }

/-- A message of a channel is abandoned: its header stays unwritten (R502). -/
def cutOff (s : State) (c : Nat) : State := inFree (regCount (inStatus s c 11) .vglInErrcnt c 1) c
/-- The link goes down before a message has been placed: of one in placement, and of one that a channel matches and that would be
placed, TRUNC is set. -/
def truncate (s : State) (p vc : Nat) (m : RxMsg) : State :=
  match m.fate with
  | .place c _ _ => cutOff s c
  | .drop => s
  | .open =>
    if m.bytes.length < 16 || !isFrame m.bytes || msgBad m.bytes vc then s
    else match inMatch s p vc m.bytes with
      | none => s
      | some c => match inDecide s c m.bytes with
        | (s, .place _ _ _) => cutOff s c
        | (s, _) => s

/-- The port returns to DOWN from any state: buffers, credits and the delay are gone (R489, R498, R511). -/
def portClear (s : State) (p : Nat) : State :=
  let x := s.port p
  let s := x.rx.foldl (fun s t => t.2.foldl (fun s m => truncate s p t.1 m) s) s
  let s := regPut s .vglDelay p 0
  let mine := fun (k : EgState) => (tkeys s.egresses).filter (fun c => (s.egress c).port == p && (s.egress c).state == k && !(s.egress c).lost)
  let s := foldS (mine .sending) (fun c s => egDrop (egFree s c) c) s
  -- a frame that is still being read is lost too; its channel is free once its reads have returned
  let s := foldS (mine .reading) (fun c s => egDrop (s.setEgress c { s.egress c with lost := true }) c) s
  portState s p { ls := .down, slow := x.slow, fails := x.fails, hold := x.hold, fark := x.fark, starts := x.starts }

/-- The wait of 100 µs after a failure in any state (R488); an attempt that does not reach UP counts as failed.
(DEDUCED, log entry 120.) -/
def portHold (s : State) (p : Nat) (attempt : Bool) : State :=
  let x := s.port p
  s.setPort p { x with fails := if x.slow || !attempt then x.fails else x.fails + 1, hold := true }

/-- A port that is not DOWN returns to DOWN (R489): the return of an UP port is counted, and LDOWN is set unless EN = 0 causes
it; the port trains again after 100 µs. -/
def portFall (s : State) (p : Nat) (byEn : Bool) : State :=
  let x := s.port p
  let s := if x.ls == .up then
      let s := regCount s .vglTrncnt p 1
      if byEn then s else vglEvent s p
    else s
  let s := portClear s p
  if byEn || x.ls == .down then s else portHold s p (x.ls != .up)

def portProto (s : State) (p : Nat) : State := portFall (vglEvent s (8 + p)) p false

/-- A failed attempt (R488): the port waits 100 µs, and after three at 112 Gbit/s it may fall back. -/
def portFail (s : State) (p : Nat) : State := portHold (portClear s p) p true

/-- One step of Table 19.2. -/
def portTrain (s : State) (p : Nat) (ok : Bool) : State :=
  let x := s.port p
  if !portEn s p then s
  else match x.ls with
  | .down =>
    if x.hold || !ok then s
    else
      let fall := bit (regGet s .vglCfg p) 2 && decide (3 ≤ x.fails)
      portState s p { x with ls := .eq, slow := bit (regGet s .vglCfg p) 1 || fall }
  | .eq => if ok then portState s p (({ x with ls := .align } : Port).codeBegin p) else portFail s p
  | .align =>
    if ok then portState s p (({ x with ls := .config } : Port).put 2 (msgFlits 2 none true none advertMsg)) else portFail s p
  | .config =>
    if !ok then portFail s p
    else if x.advIn && x.advOk then
      portState s p { x with txq := tset [] x.txq 2 ((tget [] x.txq 2).filter (fun f => !f.mgmt))    -- ADVERTs are of CONFIG
                             ls := .up, fails := 0, cred := x.adv, heard := s.tick, moved := s.tick, beat := s.tick }
    else s.setPort p (x.put 2 (msgFlits 2 none true none advertMsg))      -- an ADVERT every 1 µs
  | .up => s

/-- 100 µs after a failure the port trains again (R488). -/
def portRetry (s : State) (p : Nat) : State :=
  let x := s.port p
  if x.ls == .down && x.hold then s.setPort p { x with hold := false } else s

/-- The life-cycle state allows the Vangoak Link (Table 21.6). -/
def vglLive (s : State) : Bool := decide (s.otp.lcs < 3)

/-- A write of VGL_p_CFG: EN = 0 takes the port DOWN; EN stays 0 where the life-cycle state allows no VGL.
(DESIGN CHOICE, log entry 97.) -/
def vglCfgWrite (s : State) (p : Nat) (v : W64) : State :=
  let was := portEn s p
  let s := regCommit s .vglCfg p (if vglLive s then v else setBit v 0 false)
  if was && !portEn s p then
    let s := portFall s p true
    s.setPort p { (s.port p) with fails := 0, hold := false }
  else s

/-! Sending (R493 to R499, R509). -/

/-- Sequence number behind E: the last DATA flit accepted. -/
def Port.ackSeq (x : Port) : Nat := (x.expect + 4095) % 4096

/-- The VC whose credits are returned next, and how many (R490: 0 to 255). -/
def Port.creditOut (x : Port) : Nat × Nat :=
  match (List.range 4).find? (fun v => tget 0 x.ccnt v ≠ 0) with
  | some v => (v, min 255 (tget 0 x.ccnt v))
  | none => (0, 0)

/-- AX0 at an instant inside the tick, in 2^-16 ns after its start (R509). (DESIGN CHOICE, log entry 163.) -/
def ax0At (s : State) (p : Nat) (sub : BitVec 17) : W64 := ax0Of s (portDie p) + sub.setWidth 64

/-- TIME_SYNC instants and values are filled in as the flit departs (R509, R510). -/
def syncFill (s : State) (p : Nat) (sub : BitVec 17) (f : Flit) : Flit :=
  match f.sync with
  | none => f
  | some n =>
    let d := portDie p
    let now := ax0At s p sub
    let hd := msgHeader 4 0 0 48 now
    let kind := (f.payload.getD 16 0).toNat
    let body := f.payload.drop 16
    let b := busVal s d n
    let body := if kind = 0 then
        let r := axRate s n
        let r := if b.rev then 0 - r else r
        [0, BitVec.ofNat 8 (n + 32 * min 2 (axStateCode b.state))] ++ zeroBytes 6 ++ leBytes b.value.toNat 8 ++
          leBytes r.toNat 8 ++ zeroBytes 24
      else if kind = 1 then body.take 24 ++ leBytes now.toNat 8 ++ zeroBytes 16
      else body.take 40 ++ leBytes now.toNat 8
    { f with payload := hd ++ body }

/-- The fields that every flit carries: acknowledgement and credits. -/
def Port.head (x : Port) (h : FlitHead) : FlitHead :=
  let (v, n) := x.creditOut
  { h with ack := if x.any then x.ackSeq else 0, ackv := x.any, cvc := v, ccnt := n }
def Port.took (x : Port) : Port :=
  let (v, n) := x.creditOut
  { x with ccnt := tset 0 x.ccnt v (tget 0 x.ccnt v - n) }

def dataHead (f : Flit) (sq : Nat) (rpl : Bool) : FlitHead :=
  { kind := 1, vc := f.vc, som := f.som, eom := f.eom, plen := f.payload.length, sq, rpl }

/-- Priorities of R499 for new DATA flits; a CONFIG port sends LINK_MGMT only. -/
def Port.nextVc (x : Port) : Option Nat :=
  if 128 ≤ x.held.length then none
  else [3, 2, 0, 1].find? (fun v => match tget [] x.txq v with
    | [] => false
    | f :: _ => f.mgmt || (x.ls == .up && tget 0 x.cred v ≠ 0))

/-- The flit slot: a NAK, a replay, a DATA flit, or IDLE (R499). -/
def flitOut (s : State) (p : Nat) (sub : BitVec 17) : State :=
  let x := s.port p
  if x.ls = .down ∨ x.ls = .eq then s
  else if x.nak then
    s.setPort p (({ x.took with nak := false } : Port).emit (flitBytes (x.head { kind := 2 }) []))
  else match x.replay with
  | q :: r =>
    match x.held.find? (fun h => h.sq == q) with
    | none => s.setPort p { x with replay := r }
    | some h =>
      let held := x.held.map (fun y => if y.sq = q then { y with replays := y.replays + 1 } else y)
      let s := regCount s .vglRplcnt p 1
      s.setPort p (({ x.took with replay := r, held } : Port).emit (flitBytes (x.head (dataHead h.flit q true)) h.flit.payload))
  | [] => match x.nextVc with
    | none => s.setPort p (x.took.emit (flitBytes (x.head {}) []))
    | some v => match tget [] x.txq v with
      | [] => s
      | f :: r =>
        let f := syncFill s p sub f
        let cred := if f.mgmt then x.cred else tset 0 x.cred v (tget 0 x.cred v - 1)
        let ping := if f.sync.isSome && f.payload.getD 16 0 = 1 then some (ax0At s p sub) else x.ping
        let adv := if f.mgmt && x.ls == .config then x.advSeq ++ [x.sq] else x.advSeq
        let y : Port := { x.took with txq := tset [] x.txq v r, cred, ping, advSeq := adv, sq := (x.sq + 1) % 4096
                                      held := x.held ++ [{ sq := x.sq, flit := f }]
                                      moved := if x.held.isEmpty then s.tick else x.moved }
        s.setPort p (y.emit (flitBytes (x.head (dataHead f x.sq false)) f.payload))

/-- An ACK of a releases every held flit up to and including a (R493). -/
def Port.acked (x : Port) (a now : Nat) : Port :=
  match x.held.findIdx? (fun h => h.sq == a) with
  | none => x
  | some i =>
    let gone := x.held.take (i + 1)
    { x with held := x.held.drop (i + 1), moved := now
             replay := x.replay.filter (fun q => !gone.any (fun h => h.sq == q))
             advOk := x.advOk || gone.any (fun h => x.advSeq.contains h.sq)
             advSeq := x.advSeq.filter (fun q => !gone.any (fun h => h.sq == q)) }

/-- Every held flit is to be sent again; after 16 replays of one flit the port goes DOWN (R495, R496). -/
def replayAll (s : State) (p : Nat) : State :=
  let x := s.port p
  if x.held.any (fun h => decide (16 ≤ h.replays)) then portFall s p false
  else s.setPort p { x with replay := x.held.map (·.sq), moved := s.tick }

/-- A received NAK (R495). -/
def nakIn (s : State) (p : Nat) (ack : Option Nat) : State :=
  let x := s.port p
  if x.ls = .config ∨ x.ls = .up then
    let x := match ack with | some a => x.acked a s.tick | none => x
    replayAll (s.setPort p x) p
  else s

/-- No ACK has moved on for 4 µs (2,000 ticks) while flits are held. -/
def replayTimer (s : State) (p : Nat) : State :=
  let x := s.port p
  if !x.held.isEmpty && decide (x.moved + 2000 ≤ s.tick) then replayAll s p else s

/-! Receiving (R494, R498, R500). -/

/-- A message of which the first flit has come. -/
def firstFlit (h : FlitHead) (payload : List Byte) (now : W64) (tick : Nat) : RxMsg :=
  { bytes := payload, whole := h.eom, rpl := h.rpl, arrived := now, at_ := tick, flits := [(0, payload.length)] }
/-- EOM stands on the last flit of the message and on no other: on the one that brings byte 16 + LEN (R500, R501). -/
def RxMsg.framed (m : RxMsg) : Bool :=
  let n := m.bytes.length
  if n < 16 then !m.whole else if m.whole then n == 16 + mLen m.bytes else decide (n < 16 + mLen m.bytes)
/-- An accepted DATA flit joins the message of its VC; none: its framing breaks R500. -/
def Port.join (x : Port) (h : FlitHead) (payload : List Byte) (now : W64) (tick : Nat) : Option Port :=
  let l := tget [] x.rx h.vc
  let put := fun (l : List RxMsg) (m : RxMsg) => if m.framed then some { x with rx := tset [] x.rx h.vc (l ++ [m]) } else none
  match (l.getLast?).filter (fun m => !m.whole) with
  | some m =>
    if h.som then none
    else put l.dropLast { m with
      bytes := m.bytes ++ payload, whole := h.eom, rpl := m.rpl || h.rpl
      flits := m.flits ++ [(m.bytes.length, m.bytes.length + payload.length)] }
  | none => if h.som then put l (firstFlit h payload now tick) else none

/-- Credits given back by the far end; more than it advertised is a protocol error (R498). -/
def Port.credited (x : Port) (v n : Nat) : Option Port :=
  if x.ls != .up || n == 0 then some x
  else
    let c := tget 0 x.cred v + n
    if tget 0 x.adv v < c then none else some { x with cred := tset 0 x.cred v c }

/-- Table 19.4 for a flit that is not discarded by its CRC. -/
def flitGood (s : State) (p : Nat) (sub : BitVec 17) (b : List Byte) : State :=
  let h := headOf b
  let x := { s.port p with heard := s.tick }
  if headBad h then portProto s p
  else
    let x := if h.ackv then x.acked h.ack s.tick else x
    match x.credited h.cvc h.ccnt with
    | none => portProto s p
    | some x =>
      if h.kind = 2 then nakIn (s.setPort p x) p (if h.ackv then some h.ack else none)
      else if h.kind = 0 then s.setPort p x
      else
        let d := (h.sq + 4096 - x.expect) % 4096
        if d = 0 then
          match ({ x with expect := (x.expect + 1) % 4096, any := true, nakked := false } : Port).join h
              ((b.drop 8).take h.plen) (ax0At s p sub) s.tick with
          | some x => s.setPort p x
          | none => portProto s p
        else if d < 2048 then s.setPort p (if x.nakked then x else { x with nak := true, nakked := true })
        else s.setPort p x

/-- A codeword is decoded ahead of the first and of the third flit of its pair; the third has bits in both (R486, R487). -/
def Port.decodes (x : Port) : Bool := x.rxAt == 0 || x.rxAt == 2
/-- A codeword that the flit has bits in is uncorrectable. -/
def Port.damaged (x : Port) (w : Decoded) : Bool := (x.decodes && w == .lost) || (x.rxAt != 0 && x.rxLost)
def Port.tookFlit (x : Port) (w : Decoded) : Port :=
  { x with rxAt := (x.rxAt + 1) % 5, rxLost := if x.decodes then w == .lost else x.rxLost }

/-- A flit arrives; w is what the decoder made of the codeword that begins with it, if one does (R487, R491, R494). -/
def flitIn (s : State) (p : Nat) (sub : BitVec 17) (w : Decoded) (b : List Byte) : State :=
  let x := s.port p
  if x.ls = .down ∨ x.ls = .eq then s
  else
    let s := match x.decodes, w with
      | true, .corrected => regCount s .vglCecnt p 1
      | true, .lost => regCount s .vglUecnt p 1
      | _, _ => s
    let s := s.setPort p (x.tookFlit w)
    if x.ls = .align then s
    else if x.damaged w || !crcGood b then
      let s := regCount s .vglCrccnt p 1
      if x.nakked then s else s.setPort p { (s.port p) with nak := true, nakked := true }
    else flitGood s p sub b

/-- No undamaged flit for 10 µs (5,000 ticks). -/
def silence (s : State) (p : Nat) : State :=
  let x := s.port p
  if x.ls == .up && decide (x.heard + 5000 ≤ s.tick) then portFall s p false else s

/-! Credits owed for freed buffer space. -/

def Port.free (x : Port) (vc n : Nat) : Port := { x with freed := tset 0 x.freed vc (tget 0 x.freed vc + n) }
/-- One credit is returned through CCNT (R498). -/
def creditBack (s : State) (p vc : Nat) : State :=
  let x := s.port p
  if tget 0 x.freed vc = 0 then s
  else s.setPort p { x with freed := tset 0 x.freed vc (tget 0 x.freed vc - 1), ccnt := tset 0 x.ccnt vc (tget 0 x.ccnt vc + 1) }

/-! Messages for the port itself (R510 to R513). -/

def remoteAxes (s : State) (p src : Nat) : List Nat :=
  (List.range 32).filter (fun n => axEn s n && axMode s n == 7 && axisDie n == portDie p && axPort s n == p % 4 && axRaxis s n == src)

def bodyWord (m : List Byte) (off : Nat) : W64 := w64 (leNat ((m.drop (16 + off)).take 8))

/-- A VALUE moves every remote axis it is meant for, so that it is in use 16 ticks after its arrival, or sets FRMERR on
it (R511, R512). -/
def valueIn (s : State) (p : Nat) (m : RxMsg) : State :=
  let axst := (m.bytes.getD 17 0).toNat
  let src := axst % 32
  let axes := remoteAxes s p src
  match (s.port p).delay with
  | some dly =>
    if m.rpl || axst / 32 != 1 then foldS axes (fun n s => axErr s n stFrmerr) s
    else
      let adv := ((bodyWord m.bytes 16).toInt * (dly.toInt + 0x200000)).fdiv (2 ^ 33)
      let due := s.tick + 10 - min 10 (s.tick - m.at_)
      foldS axes (fun n s => s.setAxis n { s.axis n with
        frames := (s.axis n).frames ++ [(due, bodyWord m.bytes 8 + iw64 adv)] }) s
  | none => foldS axes (fun n s => axErr s n stFrmerr) s

/-- A PONG whose TA matches the last PING gives the delay, unless it is negative (R511). -/
def pongIn (s : State) (p : Nat) (m : RxMsg) : State :=
  let x := s.port p
  let ta := bodyWord m.bytes 24
  if m.rpl || x.ping ≠ some ta then s
  else
    let d := ((m.arrived - ta) - (bodyWord m.bytes 40 - bodyWord m.bytes 32)).toInt / 2
    if d < 0 then s
    else regPut (s.setPort p { x with delay := some (iw64 d) }) .vglDelay p (iw64 d)

def pongMsg (ta tb : W64) : List Byte :=
  msgHeader 4 0 0 48 0 ++ [2] ++ zeroBytes 23 ++ leBytes ta.toNat 8 ++ leBytes tb.toNat 8 ++ zeroBytes 8
def syncMsg (kind : Byte) : List Byte := msgHeader 4 0 0 48 0 ++ [kind] ++ zeroBytes 47

def timeSyncIn (s : State) (p : Nat) (m : RxMsg) : State :=
  match (m.bytes.getD 16 0).toNat with
  | 0 => valueIn s p m
  | 1 => if m.rpl then s
    else s.setPort p ((s.port p).put 3 (msgFlits 3 none false (some 0) (pongMsg (bodyWord m.bytes 24) m.arrived)))
  | 2 => pongIn s p m
  | _ => s

/-- A LINK_MGMT message (R513). -/
def mgmtIn (s : State) (p : Nat) (m : List Byte) : State :=
  let b := m.drop 16
  let zero := fun (lo n : Nat) => ((b.drop lo).take n).all (· == 0)
  let cmd := (b.getD 0 0).toNat
  let x := s.port p
  if !(zero 2 2 && zero 12 4) then portProto s p
  else if cmd = 1 then
    if x.ls == .up then portProto s p
    else
      let adv : Table Nat := (List.range 4).foldl (fun t v => tset 0 t v (leNat ((b.drop (4 + 2 * v)).take 2))) []
      s.setPort p { x with adv, advIn := true, fark := b.getD 1 0 == 1 }
  else if cmd = 2 then (if zero 4 8 then portFall s p false else portProto s p)
  else portProto s p

def heartbeatIn (s : State) (p : Nat) : State :=
  let s := regPut s .vglHbcnt p ((regGet s .vglHbcnt p + 1) &&& w64 m32)
  s.setPort p { (s.port p) with beat := s.tick }

/-- The message at the head of a VC leaves its buffer; a credit is owed for each of its flits that holds one, but for those of LINK_MGMT. -/
def popRx (s : State) (p vc : Nat) (credit : Bool) : State :=
  let x := s.port p
  match tget [] x.rx vc with
  | [] => s
  | m :: r =>
    let x := { x with rx := tset [] x.rx vc r }
    s.setPort p (if credit then x.free vc m.flits.length else x)

/-- Every TSINT µs: a PING, and a VALUE of each enabled axis (R511). -/
def syncSend (s : State) (p : Nat) : State :=
  if (s.port p).ls != .up || fld (regGet s .vglTsint p) 0 16 == 0 then s
  else
    let cfg := regGet s .vglTscfg p
    let vals := ((List.range 4).filter (fun j => bit cfg (6 * j + 5))).flatMap
      (fun j => msgFlits 3 none false (some (fld cfg (6 * j) 5)) (syncMsg 0))
    s.setPort p ((s.port p).put 3 (msgFlits 3 none false (some 0) (syncMsg 1) ++ vals))

def beatSend (s : State) (p : Nat) : State :=
  if (s.port p).ls != .up || fld (regGet s .vglHbint p) 0 16 == 0 then s
  else s.setPort p ((s.port p).put 2 (msgFlits 2 none false none (msgHeader 6 0 0 0 (ax0Of s (portDie p)))))

/-- No HEARTBEAT for RTMO µs (500 ticks each). -/
def beatTimeout (s : State) (p : Nat) : State :=
  let r := fld (regGet s .vglHbint p) 16 16
  let x := s.port p
  if x.ls == .up && r != 0 && decide (x.beat + 500 * r ≤ s.tick) then vglEvent (s.setPort p { x with beat := s.tick }) (16 + p) else s

end Sys2Proof.Machine
end

