-- ==== Sys2Proof/Machine/VglChan.lean ====
section
/-! DEFINITION. Ingest and egress channels of the Vangoak Link (R502 to R508, R516 to R519). -/
namespace Sys2Proof.Machine

def vglAgent (master : Nat) : Agent := { master, level := 0 }

/-- ENABLE: an invalid channel, or one the life-cycle state forbids, is refused with CFGERR. -/
def inEnable (s : State) (c : Nat) : State := if inValid s c && vglLive s then inSetEn s c true else inStatus s c 12
def egEnable (s : State) (c : Nat) : State := if egValid s c && vglLive s then egSetEn s c true else egStatus s c 10

/-- A message of a VC that channel c is placing, or that it matches and is to place: its header has come. -/
def placing (s : State) (p vc c : Nat) (m : RxMsg) : Bool :=
  match m.fate with
  | .place d _ _ => d == c
  | .drop => false
  | .open => decide (16 ≤ m.bytes.length) && isFrame m.bytes && !msgBad m.bytes vc && inMatch s p vc m.bytes == some c

/-- The messages that the channel has in progress. -/
def inHand (s : State) (c : Nat) : List RxMsg :=
  (tget [] (s.port (inPort s c)).rx (inVc s c)).filter (placing s (inPort s c) (inVc s c) c)
/-- The channel has a message in progress. -/
def inBusy (s : State) (c : Nat) : Bool := !(inHand s c).isEmpty
/-- A message of the channel has been discarded: that is a message boundary too. -/
def inIdle (s : State) (c : Nat) : State := if inBusy s c then s else inFree s c

/-- Messages in progress on a channel that is disabled are cut short (R502). -/
def inDisable (s : State) (c : Nat) : State :=
  let p := inPort s c
  let vc := inVc s c
  let x := s.port p
  let l := (tget [] x.rx vc).map (fun m => if placing s p vc c m then { m with fate := .drop } else m)
  let t := (inHand s c).foldl (fun s m => truncate s p vc m) s
  inFree (inSetEn (t.setPort p { x with rx := tset [] x.rx vc l }) c false) c
/-- A frame the channel holds is still sent. -/
def egDisable (s : State) (c : Nat) : State := egSetEn s c false

def inCtrlWrite (s : State) (c : Nat) (v : W64) : State :=
  if bit v 0 then inEnable s c else if bit v 1 then inDisable s c else s
def egCtrlWrite (s : State) (c : Nat) (v : W64) : State :=
  if bit v 0 then egEnable s c else if bit v 1 then egDisable s c else s

def inRegWrite (s : State) (c : Nat) (r : RegName) (v : W64) : State :=
  match r with
  | .vglInCtrl => inCtrlWrite s c v
  | .vglInStat => regCommit s r c v
  | r => if inEn s c then inStatus s c 12 else regCommit s r c v
/-- A frame in hand keeps the window it is made under (R508). -/
def egRegWrite (s : State) (c : Nat) (r : RegName) (v : W64) : State :=
  match r with
  | .vglEgCtrl => egCtrlWrite s c v
  | .vglEgStat => regCommit s r c v
  | r => if egEn s c then egStatus s c 10 else regCommit s r c v

/-- An offset in the control space lies in the window, words W0 to W11, of a channel that is enabled: a write to it sets CFGERR and
changes nothing, a half of a register and a reserved word too (R518). (DESIGN CHOICE, log entry 148.) -/
def windowFrozen (s : State) (off : Nat) : Option State :=
  let o := off - 0x1C10000
  let c := o / 64 % 256
  if off < 0x1C10000 || 0x1C10000 + 2 * 0x10000 ≤ off || 0x4000 ≤ o % 0x10000 || 48 ≤ o % 64 then none
  else if o < 0x10000 then (if inEn s c then some (inStatus s c 12) else none)
  else if egEn s c then some (egStatus s c 10) else none

def egStatRead (s : State) (c : Nat) : W64 :=
  regGet s .vglEgStat c ||| w64 (2 * ((s.egress c).state != .free).toNat)

/-! Ingest (R502, R503). -/

/-- The header of the message at the head of a VC has come, or the message has ended without one. -/
def headMsg (s : State) (p vc : Nat) : Option RxMsg :=
  match tget [] (s.port p).rx vc with
  | [] => none
  | m :: _ => if m.bytes.length < 16 && !m.whole then none else some m
def setHead (s : State) (p vc : Nat) (m : RxMsg) : State :=
  let x := s.port p
  s.setPort p { x with rx := tset [] x.rx vc (m :: (tget [] x.rx vc).drop 1) }

/-- Buffer space of the flits that `used` names is free; those of LINK_MGMT have taken no credit (R498). -/
def freeFlits (s : State) (p vc : Nat) (m : RxMsg) (used : Nat × Nat → Bool) : State :=
  let s := setHead s p vc { m with flits := m.flits.filter (fun f => !used f) }
  s.setPort p ((s.port p).free vc (if mType m.bytes = 5 then 0 else (m.flits.filter used).length))

/-- What came of a message that is being dropped is discarded; after its last flit it leaves. -/
def dropFlits (s : State) (p vc : Nat) (m : RxMsg) : State :=
  let s := freeFlits s p vc m (fun _ => true)
  if m.whole then popRx s p vc false else s

/-- The frame has been placed whole (R502). -/
def inDone (s : State) (p vc c : Nat) : State :=
  inFree (popRx (regPut s .vglInFrmcnt c ((regGet s .vglInFrmcnt c + 1) &&& w64 m32)) p vc true) c

/-- Body bytes written once those that have come are, in no more than `most` further transactions of 64 bytes: each ends at the end
of its block, and only the last of the body carries byte enables for the bytes behind it (R375, R502). (DEDUCED, log entry 144.) -/
def inReach (m : RxMsg) (hdr : Nat) (most : Option Nat) : Nat :=
  let got := min (mLen m.bytes) (m.bytes.length - 16)
  let can := if got = mLen m.bytes then got else (hdr + got) / 64 * 64 - hdr
  max m.placed (match most with
    | none => can
    | some k => min can (((hdr + m.placed) / 64 + k) * 64 - hdr))

/-- Every Cellar write made from the flit has been accepted (R498); the header is made from the first bytes of a message. -/
def flitUsed (m : RxMsg) (hdr : Nat) (f : Nat × Nat) : Bool := decide (f.2 ≤ 16 + m.placed) && (hdr == 0 || decide (16 ≤ f.1))

/-- Body bytes that have come and are not written yet go to the slot, in ascending addresses. -/
def inWrite (s : State) (p vc : Nat) (m : RxMsg) (c slot hdr : Nat) (most : Option Nat) (chk : Check) : State :=
  let n := inReach m hdr most
  let bs := ((m.bytes.drop 16).take n).drop m.placed
  let (s, _) := writeSpan s (vglAgent (10 + chanDie c)) (slot + hdr + m.placed) bs chk
  let m := { m with placed := n }
  if m.whole && hdr == 0 && n == mLen m.bytes then inDone (setHead s p vc m) p vc c
  else freeFlits s p vc m (flitUsed m hdr)
/-- The writes cross a stopped bridge and wait (R384). -/
def inHeld (s : State) (m : RxMsg) (c slot hdr : Nat) : Bool :=
  bridgeHolds s (10 + chanDie c) (slot + hdr + m.placed) (mLen m.bytes - m.placed)

/-- INGEST_PLACEMENT: as many as `most` transactions of the body are accepted. -/
def ingestPlace (s : State) (c : Nat) (most : Option Nat) (chk : Check) : State :=
  let p := inPort s c
  let vc := inVc s c
  match headMsg s p vc with
  | none => s
  | some m =>
    let broken := m.whole && m.bytes.length != 16 + mLen m.bytes
    match m.fate with
    | .place d slot hdr =>
      if d ≠ c ∨ inHeld s m c slot hdr then s
      else if broken then inFree (dropFlits (regCount s .vglUnmcnt p 1) p vc m) c
      else inWrite s p vc m c slot hdr most chk
    | .drop => dropFlits s p vc m
    | .open =>
      if !isFrame m.bytes || msgBad m.bytes vc || broken || inMatch s p vc m.bytes ≠ some c then s
      else
        let (s, f) := inDecide s c m.bytes
        match f with
        | .place _ slot hdr =>
          let m := { m with fate := f }
          if inHeld s m c slot hdr then setHead s p vc m else inWrite s p vc m c slot hdr most chk
        | _ => inIdle (dropFlits s p vc { m with fate := f }) c

/-- INGEST_HEADER_WRITE: after every body write the 16 header bytes go to the slot as received. -/
def ingestHeader (s : State) (c : Nat) (chk : Check) : State :=
  let p := inPort s c
  let vc := inVc s c
  match headMsg s p vc with
  | none => s
  | some m => match m.fate with
    | .place d slot hdr =>
      if d = c ∧ hdr ≠ 0 ∧ m.whole ∧ m.placed = mLen m.bytes ∧ !bridgeHolds s (10 + chanDie c) slot 16 then
        inDone (writeSpan s (vglAgent (10 + chanDie c)) slot (m.bytes.take 16) chk).1 p vc c
      else s
    | _ => s

/-- A message is dispatched by type, or discarded and counted (R501, R502). -/
def msgIn (s : State) (p vc : Nat) : State :=
  match headMsg s p vc with
  | none => s
  | some m => match m.fate with
    | .place _ _ _ => s
    | .drop => dropFlits s p vc m
    | .open =>
      let broken := m.whole && m.bytes.length != 16 + mLen m.bytes
      if msgBad m.bytes vc || broken || (isFrame m.bytes && (inMatch s p vc m.bytes).isNone) then
        let t := dropFlits (regCount s .vglUnmcnt p 1) p vc { m with fate := .drop }
        match inMatch s p vc m.bytes with
        | some c => inIdle t c
        | none => t
      else if !m.whole || isFrame m.bytes then s
      else match mType m.bytes with
        | 4 => timeSyncIn (popRx s p vc true) p m
        | 5 => mgmtIn (popRx s p vc false) p m.bytes
        | _ => heartbeatIn (popRx s p vc true) p

/-! Egress (R504 to R508). -/

/-- An alarm's EGRESS action reaches its channel, after those that come before it in the order of R449. -/
def egTrigger (s : State) (n : Nat) : State :=
  (dueActions s n .egress (fun a => fld a.word 16 8)).foldl (fun s a =>
    let s := dropAction s a
    let c := fld a.word 16 8
    if !egEn s c then s
    else if (s.port (egPort s c)).ls != .up || (s.egress c).state != .free then egDrop s c
    else s.setEgress c { state := .reading, stamp := a.stamp, port := egPort s c, vc := egVc s c, sid := egSid s c
                         len := egLen s c, src := egSrc s c }) s

/-- Every read of the frame has returned: it is sent, void when a read failed (R505, R506). -/
def egSend (s : State) (c : Nat) (x : Egress) : State :=
  let s := if x.bad then egStatus s c 8 else s
  if x.lost then egFree s c
  else if (s.port x.port).ls != .up then egDrop (egFree s c) c
  else
    let m := msgHeader 3 x.sid x.bad.toNat x.len x.stamp ++ (if x.bad then zeroBytes x.len else x.got)
    let l := msgFlits x.vc (some c) false none m
    (s.setPort x.port ((s.port x.port).put x.vc l)).setEgress c { x with state := .sending }
/-- Bytes of a frame that its next reads return, when no more than `most` of its transactions do (R375, R505). -/
def egNext (x : Egress) (most : Option Nat) : Nat :=
  let left := x.len - x.got.length
  match most with
  | none => left
  | some k => min left (((x.src + x.got.length) / 64 + k) * 64 - (x.src + x.got.length))
/-- Reads of a frame are served, in ascending order; the last one to return sends the frame. -/
def egReads (s : State) (c : Nat) (most : Option Nat) (chk : Check) : State :=
  let x := s.egress c
  let m := 12 + chanDie c
  if x.state != .reading || bridgeHolds s m (x.src + x.got.length) (x.len - x.got.length) then s
  else
    let (s, e, bs) := readSpan s (vglAgent m) (x.src + x.got.length) (egNext x most) chk
    let x := { x with got := x.got ++ bs, bad := x.bad || e.isSome }
    if x.got.length < x.len then s.setEgress c x else egSend s c x

/-- The last flit of the frame has been sent: the buffer is free. -/
def egSent (s : State) (c : Nat) : State :=
  let x := s.egress c
  let q := (s.port x.port).txq
  if x.state != .sending || q.any (fun t => t.2.any (fun f => f.chan == some c)) then s
  else regPut (egFree s c) .vglEgFrmcnt c ((regGet s .vglEgFrmcnt c + 1) &&& w64 m32)

end Sys2Proof.Machine
end

