-- ==== Sys2Proof/Machine/Desc.lean ====
section
/-! DEFINITION. Descriptors (R419 to R432, Tables 16.4 to 16.10): their fields, their check, and the descriptor windows of
alarms, timers and channels. -/
namespace Sys2Proof.Machine

def dLcond (d : List Byte) : Nat := dByte d 1 % 4
def dIrq (d : List Byte) : Bool := (dByte d 1).testBit 2
def dHalt (d : List Byte) : Bool := (dByte d 1).testBit 3

/-! JOB (Table 16.5). -/
def jRestart (d : List Byte) : Bool := (dByte d 2).testBit 0
def jPair (d : List Byte) : Bool := (dByte d 2).testBit 1
def jDigest (d : List Byte) : Bool := (dByte d 2).testBit 2
def jAny (d : List Byte) : Bool := (dByte d 2).testBit 3
def jDlen (d : List Byte) : Bool := (dByte d 2).testBit 4
def jDrel (d : List Byte) : Bool := (dByte d 2).testBit 5
def jAxis (d : List Byte) : Nat := dByte d 3 % 32
def jNcore (d : List Byte) : Nat := dByte d 6 % 128
def jProw (d : List Byte) : Nat := dByte d 7 % 8
def jEntry (d : List Byte) : Nat := dWord d 8 8
def jPblk (d : List Byte) : Nat := dWord d 16 8
def jDeadline (d : List Byte) : W64 := w64 (dWord d 24 8)
def jArg (d : List Byte) (k : Nat) : W64 := w64 (dWord d (32 + 8 * k) 8)
def jSet (d : List Byte) : List Nat := coreSet (dByte d 4) (dByte d 5)
def oneRow (m : Nat) : Bool := m != 0 && m &&& (m - 1) == 0

/-! MOVE (Table 16.6). -/
def mvSrch (d : List Byte) : Bool := (dByte d 2).testBit 0
def mvDsth (d : List Byte) : Bool := (dByte d 2).testBit 1
def mvSrc (d : List Byte) : Nat := dWord d 8 8
def mvDst (d : List Byte) : Nat := dWord d 16 8
def mvLen (d : List Byte) : Nat := dWord d 24 8

/-- DETAIL 0x06: both host, overlap, LEN or a device address out of range (R428). -/
def moveBad (d : List Byte) : Bool :=
  let n := mvLen d
  if n = 0 then false
  else
    let devBad := fun (host : Bool) (a : Nat) => !host && decide (2 ^ 48 < a + n)
    decide (2 ^ 40 ≤ n) || (mvSrch d && mvDsth d) || devBad (mvSrch d) (mvSrc d) || devBad (mvDsth d) (mvDst d) ||
    (!mvSrch d && !mvDsth d && decide (mvSrc d < mvDst d + n) && decide (mvDst d < mvSrc d + n))

def objLimit (ty : Nat) : Nat := match ty with | 5 => 2048 | 6 => 64 | _ => 256
def opLimit (ty : Nat) : Nat := match ty with | 6 => 4 | _ => 2

/-- DETAIL 0x08: OBJ, WMASK, OP or a word out of range, or a combination that the object refuses (R430, R457, R482,
R517, R519). -/
def objBad (s : State) (d : List Byte) : Bool :=
  let ty := dType d
  let n := oObj d
  decide (objLimit ty ≤ n) || decide (opLimit ty < oOp d) || (ty == 6 && oSel d 11) ||
  (List.range 12).any (fun j => oSel d j && wordBad ty j (oWord d j)) ||
  (match ty with
   | 5 => oOp d == 1 && !alComboOk (fld (windowMerge 5 d .alCfg (regGet s .alCfg n)) 5 2) (windowMerge 5 d .alIntv (regGet s .alIntv n))
   | 7 | 8 => chanBad s d
   | _ => false)

/-! The check (R420). -/

def knownType (t : Nat) : Bool := decide (1 ≤ t) && decide (t ≤ 10)

/-- DETAIL 0x02: a reserved byte or field is not 0. (DEDUCED, log entry 84; DEDUCED, log entry 85.) -/
def reservedBad (d : List Byte) : Bool :=
  decide (16 ≤ dByte d 1) ||
  (match dType d with
   | 1 => decide (64 ≤ dByte d 2) || decide (32 ≤ dByte d 3) || decide (128 ≤ dByte d 6) || decide (8 ≤ dByte d 7) ||
          (!jAny d && jNcore d != 0) || (!jPair d && dByte d 7 != 0)
   | 2 => decide (4 ≤ dByte d 2) || !dZero d 3 5 || !dZero d 32 32
   | 4 => !dZero d 3 5 || !dZero d (8 + 2 * min 24 (dByte d 2)) (56 - 2 * min 24 (dByte d 2)) ||
          (List.range 24).any (fun e => decide (0x4000 ≤ dWord d (8 + 2 * e) 2))
   | 5 | 6 | 7 | 8 => !dZero d 5 3 || !dZero d 12 4 || decide (4096 ≤ oMask d)
   | 10 => decide (0x2000 ≤ dWord d 2 2) || !dZero d 12 52
   | _ => !dZero d 2 62)

/-- The DETAIL of a malformed descriptor: the lowest that applies; none is well formed. -/
def descBad (s : State) (r : Nat) (d : List Byte) : Option Nat :=
  let t := dType d
  if !knownType t then some 1
  else if reservedBad d then some 2
  else if t = 1 then
    if jEntry d % 4 ≠ 0 ∨ 2 ^ 48 ≤ jEntry d then some 3
    else if (jSet d).isEmpty || (jAny d && (jNcore d == 0 || decide ((jSet d).length < jNcore d))) then some 4
    else if jPair d && (!oneRow (dByte d 4) || (dByte d 4).testBit (jProw d)) then some 5
    else none
  else if t = 2 then (if moveBad d then some 6 else none)
  else if t = 4 then (if 24 < dByte d 2 then some 7 else none)
  else if 5 ≤ t ∧ t ≤ 8 then (if objBad s d then some 8 else none)
  else if t = 10 then (if dWord d 2 2 % 8192 = r then some 9 else none)
  else none

/-! What an object does with its words (R445, R482, R508, R519). -/

/-- An ALARM descriptor: with OP 1 and OP 2 every word applies; with OP 0 the words that are frozen do not. -/
def alarmObject (s : State) (d : List Byte) : State :=
  let n := oObj d
  let s := alarmFire s n
  let s := if oOp d = 2 then s.setAlarm n { s.alarm n with state := .idle } else s
  if oOp d = 0 && (s.alarm n).state == .active then
    let regs := windowRegs 5 d
    let s := if regs.any alFrozen then alCfgerr s n else s
    (regs.filter (fun r => !alFrozen r)).foldl (fun s r => regPut s r n (windowMerge 5 d r (regGet s r n))) s
  else
    let s := windowPut s 5 d
    if oOp d = 1 then alArm s n else s

/-- A TIMER descriptor: STOP before the words of OP 2 and 3, RESET and START after them; on a timer that the words make or leave a
compatibility timer START sets K5_n_CTL.RUN. -/
def timerObject (s : State) (d : List Byte) : State :=
  let n := oObj d
  let op := oOp d
  let s := tmBefore s n
  let s := if !tmCompat s n && (op == 2 || op == 3) then tmStop s n else s
  let s := (windowRegs 6 d).foldl (fun s r => tmRegWrite s n r (windowMerge 6 d r (regGet s r n))) s
  if tmCompat s n then (if op == 1 || op == 3 then regSetBits s .k5Ctl n 1 else s)
  else
    let s := if op == 3 || op == 4 then tmReset s n else s
    if op == 1 || op == 3 then tmStart s n else s

/-- The moment at which a channel takes new words: an egress channel while it holds no frame, an ingest channel at a
message boundary. -/
def objReady (s : State) (d : List Byte) : Bool :=
  match dType d with
  | 7 => (s.egress (oObj d)).state == .free
  | 8 => !inBusy s (oObj d)
  | _ => true

/-- Die of the object of a descriptor. -/
def objDie (d : List Byte) : Nat :=
  match dType d with
  | 5 => alarmDie (oObj d)
  | 6 => oObj d / 32
  | _ => chanDie (oObj d)

/-- An alarm or a timer applies the words and OP; the blocks of a dozing die ignore them (R564). (DEDUCED, log entry 171.) -/
def objApply (s : State) (d : List Byte) : State :=
  if (s.die (objDie d)).doze then s
  else match dType d with
  | 5 => alarmObject s d
  | 6 => timerObject s d
  | 7 => egObject s d
  | _ => inObject s d

end Sys2Proof.Machine
end

