-- ==== Sys2Proof/Machine/CoreOps.lean ====
section
/-! DEFINITION. Operations on the records of a core: registers, scoreboard, instruction order, digest, taint. -/
namespace Sys2Proof.Machine


/-- Row and logical slot of a logical core (R30). -/
def coreRow (n : Nat) : Nat := n / 8
def coreDie (n : Nat) : Nat := n / 32

/-- Privilege level of a STATUS value: 0 U, 1 S, 2 M (R304). -/
def levelOf (st : W64) : Nat := if bit st 1 then 2 else if bit st 0 then 0 else 1
def Core.level (c : Core) : Nat := levelOf c.status
def Core.vf (c : Core) : Bool := bit c.status 7

/-- Register files of Table 4.2: g0 reads 0 and writes to it are discarded (R111). -/
def Core.gr (c : Core) (n : Nat) : W64 := if n = 0 then 0 else tget 0 c.g n
def Core.setG (c : Core) (n : Nat) (v : W64) : Core := if n = 0 then c else { c with g := tset 0 c.g n v }
def Core.ar (c : Core) (k : Nat) : W64 := tget 0 c.a k
def Core.mr (c : Core) (k : Nat) : W64 := tget 0 c.m k
def Core.sdr (c : Core) (k : Nat) : BitVec 256 := tget 0 c.sd k
def Core.br (c : Core) (k : Nat) : W64 := tget 0 c.b k
def Core.cask (c : Core) (k : Nat) : CaskVal := tget 0 c.casks k

/-- A bundle running as part of an asynchronous interrupt handler (R95). (DEDUCED, log entry 20.) -/
def Core.inAsync (c : Core) : Bool := c.hstack.any id
/-- Writes made now add digest records (R95). -/
def Core.digests (c : Core) : Bool := c.level = 0 || (c.level = 1 && !c.inAsync)

/-- The core serves a job whose rank has not ended. -/
def Core.serving (c : Core) : Bool := c.job.isSome && !c.ended

/-! The scoreboard (R114, R115, R233 to R235). -/

/-- Registers that await a press write; while the press is frozen only those that a handler's own `mfcr` made pending since
(R234, R235). -/
def Core.pressPending (c : Core) (r : Nat) : Bool :=
  (!c.vf && c.viq.any (fun v => !v.released && v.dst == .greg r))
    || (c.vsrd ++ c.fprd).any (fun x => x.reg == r && (x.hand || !c.vf))

/-- General register r has its pending bit set, or its result is not usable yet at CCLK t. -/
def Core.gPending (c : Core) (t r : Nat) : Bool :=
  r ≠ 0 && (c.loads.any (fun l => l.dest == r)
    || (match c.div with | some d => d.dest == r | none => false)
    || c.pressPending r
    || decide (t < tget 0 c.ready r))

/-! The result digest (R95 to R100). -/

def crcPoly : W64 := 0x42F0E1EBA9EA3693
def crcBit (c : W64) : W64 := if bit c 63 then (c <<< 1) ^^^ crcPoly else c <<< 1
def crcByte (c : W64) (b : Byte) : W64 :=
  let c := c ^^^ ((b.setWidth 64) <<< 56)
  crcBit (crcBit (crcBit (crcBit (crcBit (crcBit (crcBit (crcBit c)))))))
def crcBytes (c : W64) (l : List Byte) : W64 := l.foldl crcByte c
/-- One record: TAG then DATA, each least significant byte first. -/
def crcRecord (c tag data : W64) : W64 := crcBytes c (leBytes tag.toNat 8 ++ leBytes data.toNat 8)

/-- TAG of a record (Table 3.7). -/
def digTag (addr len : Nat) (bitp : Option Nat) : W64 :=
  match bitp with
  | none => w64 (addr % 2 ^ 48 + (len - 1) * 2 ^ 48)
  | some k => w64 (addr % 2 ^ 48 + k * 2 ^ 52 + 2 ^ 55)

/-- Records in commit order (R99): all of one instruction together at its place. (DEDUCED, log entry 21.) -/
def digInsert (r : DigRec) : List DigRec → List DigRec
  | [] => [r]
  | x :: l => if r.seqn < x.seqn then r :: x :: l else x :: digInsert r l

/-- The places of the vector instructions that have not committed their last element: in the queue, or saved. -/
def Core.openVecs (c : Core) : List Nat :=
  (c.viq.filter (fun v => !v.released)).map (·.seqn) ++ c.saved.flatMap (·.seqns)
/-- The oldest of them. -/
def Core.oldestVec (c : Core) : Option Nat :=
  c.openVecs.foldl (fun o k => match o with | none => some k | some m => some (min m k)) none

/-- Records before every uncommitted vector instruction enter the CRC. -/
def Core.digFlush (c : Core) : Core :=
  let ready := fun (r : DigRec) => match c.oldestVec with | none => true | some m => decide (r.seqn ≤ m)
  let now := c.digq.takeWhile ready
  { c with digq := c.digq.dropWhile ready, crcN := c.crcN + now.length,
           crc := now.foldl (fun x r => crcRecord x r.tag r.data) c.crc }

def Core.record (c : Core) (seqn : Nat) (tag data : W64) : Core :=
  ({ c with digq := digInsert ⟨seqn, tag, data⟩ c.digq }).digFlush

/-- A CRC state after n zero bytes more: by it the ranks' CRCs are joined (R100). -/
def crcZeros (c : W64) : Nat → W64
  | 0 => c
  | n + 1 => crcZeros (crcByte c 0) n
/-- The digest of a job from the ranks' CRCs in rank order (R99, R100). -/
def jobDigest (l : List (W64 × Nat)) : W64 :=
  ~~~ (l.foldl (fun c r => crcZeros c (16 * r.2) ^^^ r.1) (w64 m64))

/-! Taint (R87 to R90). -/

/-- A timing-dependent read by code of a core at level l (Table 3.4). (DEDUCED, log entry 24.) -/
def taintBy (s : State) (n l : Nat) : State :=
  let c := s.core n
  if l < 2 ∧ c.job.isSome then s.setCore n { c with taint := true } else s
/-- The halves of an access (R126). -/
def accHalves (a n : Nat) : List (Nat × Nat) := if 8 < a % 8 + n then [(a, 8 - a % 8), (a + (8 - a % 8), n - (8 - a % 8))] else [(a, n)]

/-- Reads of this target are timing-dependent. -/
def taints : Target → Bool
  | .control => true
  | .mram => true
  | .vault _ => true
  | _ => false

/-! The MPU (R132). -/

def mpuAllows (c : Core) (a perm : Nat) : Bool :=
  let g := a / 64
  match (List.range 16).find? (fun k =>
      bit (tget 0 c.mpuBase k) 0 && fld (tget 0 c.mpuBase k) 6 42 ≤ g && g ≤ fld (tget 0 c.mpuLimit k) 6 42) with
  | some k => bit (tget 0 c.mpuBase k) perm
  | none => false
def mpuR : Nat := 1
def mpuW : Nat := 2
def mpuX : Nat := 3

/-- Who a core is on the Trellis: its own row's port (R371); a partner core's reads are checked as the primary row's
(R340). -/
def coreAgent (s : State) (n level : Nat) : Agent :=
  let c := s.core n
  match c.partner, c.job with
  | true, some j => { master := n / 8, level, ownAs := some (((s.job j).cores.headD n) / 8), core := some n }
  | _, _ => { master := n / 8, level, core := some n }

/-- Memory as the partner row of job j sees it: the bytes it has written itself stand over what the targets hold, so that
reading back a location that the job wrote gives both runs the same value (R102). (DEDUCED, log entry 132.) -/
def shadowOver (s : State) (n a : Nat) (bs : List Byte) : List Byte :=
  match (s.core n).partner, (s.core n).job with
  | true, some j => bs.zipIdx.map (fun p => let x := tget (0, 0) (s.job j).shadow (a + p.2); (p.1 &&& ~~~x.1) ||| x.2)
  | _, _ => bs
/-- A write of the partner that memory would take from a core at this level (Table 13.2, Table 21.1): its own row's reads see
it (R102). (DEDUCED, log entry 132.) -/
def shadowed (s : State) (n level a : Nat) : Bool :=
  match target s a with
  | .cellar | .hbm => true
  | .vault d => hasPath (n / 8) (11 + d) && !(s.die d).doze && (2 ≤ level || !vaultPart a) && !vaultShut s
  | .mram => hasPath (n / 8) 10 && 2 ≤ level && a < 0xF8A00000
  | _ => false
/-- The bits `m` of each byte that a partner core writes end at the boundary of its row (R101): only its own row's reads see
them. -/
def shadowPut (s : State) (n level a : Nat) (m : Byte) (bs : List Byte) : State :=
  match (s.core n).job with
  | none => s
  | some j =>
    if shadowed s n level a then
      let x := s.job j
      s.setJob j { x with shadow := bs.zipIdx.foldl (fun t p =>
        let y := tget (0, 0) t (a + p.2)
        tset (0, 0) t (a + p.2) (y.1 ||| m, (y.2 &&& ~~~m) ||| (p.1 &&& m))) x.shadow }
    else s

/-- An address that maps to the default target for a core (R122, R184). -/
def noTarget (s : State) (a : Nat) : Bool := target s a == .none

/-! Flag registers of the press (R213, R239). -/

/-- Flags of one element: bits 0–4 FINV, FDZ, FOVF, FUNF, FINX; bits 5–8 SAT, DZ, OOR, CAPX. -/
def flInv : BitVec 9 := 1
def flDz : BitVec 9 := 2
def flOvf : BitVec 9 := 4
def flUnf : BitVec 9 := 8
def flInx : BitVec 9 := 16
def flSat : BitVec 9 := 32
def flVdz : BitVec 9 := 64
def flOor : BitVec 9 := 128
def flCapx : BitVec 9 := 256

def fpBits (f : BitVec 9) : W64 := w64 (fld f 0 5 * 256)
def vsBits (f : BitVec 9) : W64 := w64 (fld f 5 4)

/-- The flags of a committed element enter VSTAT and FPCTL, and a read that waits for them (R213, R234, R240). -/
def Core.addFlags (c : Core) (v : Vop) (f : BitVec 9) : Core :=
  let into := fun (r : List StatRead) (b : W64) =>
    r.map (fun x => if x.lo ≤ v.seqn ∧ v.seqn < x.pos then { x with acc := x.acc ||| b } else x)
  { c with vstat := if v.suppV then c.vstat else c.vstat ||| vsBits f,
           fpctl := if v.suppF then c.fpctl else c.fpctl ||| fpBits f,
           vsrd := into c.vsrd (vsBits f), fprd := into c.fprd (fpBits f) }

/-- The flags that several members raised for one element enter under each member's own place (R240). -/
def Core.addAllFlags (c : Core) (l : List (Nat × BitVec 9)) : Core :=
  l.foldl (fun c p => match c.viq.find? (fun v => v.seqn == p.1) with | some v => c.addFlags v p.2 | none => c) c

/-- A waiting read of VSTAT or FPCTL is answered once every older instruction has released (R234). -/
def Core.statDone (c : Core) : Core :=
  let done := fun (x : StatRead) => c.viq.all (fun v => v.released || x.pos ≤ v.seqn)
  let c := (c.vsrd ++ c.fprd).foldl (fun c x => if done x then c.setG x.reg x.acc else c) c
  { c with vsrd := c.vsrd.filter (fun x => !(done x)), fprd := c.fprd.filter (fun x => !(done x)) }

/-! Element types (Table 6.2). -/

def tyBits (t : Nat) : Nat :=
  if t < 2 ∨ t = 0xE then 8 else if t < 4 ∨ t = 8 ∨ t = 0xA then 16
  else if t < 6 ∨ t = 9 ∨ t = 0xB then 32 else if t < 8 ∨ t = 0xC then 64 else 1
def tyBytes (t : Nat) : Nat := (tyBits t + 7) / 8
def tyLanes (t : Nat) : Nat := 512 / tyBits t
def tyIsQ (t : Nat) : Bool := t = 8 || t = 9 || t = 0xE
def tyIsF (t : Nat) : Bool := t = 0xA || t = 0xB || t = 0xC
def tyIsI (t : Nat) : Bool := decide (t < 8)
def tyIsB (t : Nat) : Bool := t = 0xD
/-- Signed order: the signed integers and the Q types. -/
def tySigned (t : Nat) : Bool := t = 0 || t = 2 || t = 4 || t = 6 || tyIsQ t
/-- Fraction bits of a Q type, 0 otherwise. -/
def tyFrac (t : Nat) : Nat := if tyIsQ t then tyBits t - 1 else 0
def tyLo (t : Nat) : Int := if tySigned t then -(2 ^ (tyBits t - 1) : Int) else 0
def tyHi (t : Nat) : Int := if tySigned t then 2 ^ (tyBits t - 1) - 1 else 2 ^ tyBits t - 1
/-- The raw value of an element of type t. -/
def tyVal (t : Nat) (v : W64) : Int :=
  let n : Nat := fld v 0 (tyBits t)
  if tySigned t ∧ 2 ^ (tyBits t - 1) ≤ n then (n : Int) - 2 ^ tyBits t else n

/-! Casks (R173, R174). -/

def groupCount (n t : Nat) : Nat := 4096 * n / tyBits t
/-- Element i of a cask group read as w-bit elements. -/
def caskElem (c : Core) (k w i : Nat) : W64 := w64 (fld (c.cask (k + w * i / 4096)) (w * i % 4096) w)
def caskPut (c : Core) (k w i : Nat) (v : W64) : Core :=
  let j := k + w * i / 4096
  { c with casks := tset 0 c.casks j (putFld (c.cask j) (w * i % 4096) w v.toNat) }

/-! Stream descriptors (Tables 6.3 to 6.5) and address functions (R181). -/

def sdBase (d : BitVec 256) : Nat := fld d 0 48
def sdType (d : BitVec 256) : Nat := fld d 48 4
def sdMode (d : BitVec 256) : Nat := fld d 52 4
def sdLen (d : BitVec 256) : Nat := fld d 64 32
def sdStride (d : BitVec 256) : Int := ((d.extractLsb' 96 32)).toInt
def sdAux0 (d : BitVec 256) : Nat := fld d 128 64
def sdAux1 (d : BitVec 256) : Int := ((d.extractLsb' 192 48)).toInt
def ixReg (d : BitVec 256) : Nat := fld d 240 5
def ixCask (d : BitVec 256) : Bool := bit d 245
def ixGrp (d : BitVec 256) : Nat := 2 ^ fld d 246 2
def ixType (d : BitVec 256) : Nat := fld d 248 4

/-- Reverse the low k bits of x. -/
def revBits (x : Nat) : Nat → Nat
  | 0 => 0
  | k + 1 => (x % 2) * 2 ^ k + revBits (x / 2) k

/-- Element i of a stream that is not indexed: the byte address, or for a bit stream the bit address. -/
def sdAddr (d : BitVec 256) (i : Nat) : Int :=
  let e : Int := tyBytes (sdType d)
  let s := sdStride d
  let base : Int := sdBase d
  match sdMode d with
  | 1 => base + ((sdAux1 d + (i : Int) * s) % ((sdAux0 d % 2 ^ 32 : Nat) : Int)) * e
  | 2 =>
    let k := sdAux0 d % 32
    let low := i % 2 ^ k
    base + (((i - low + revBits low k : Nat) : Int) * s) * e
  | 4 =>
    let inner := sdAux0 d % 2 ^ 32
    let outer := sdAux0 d / 2 ^ 32
    let j := if outer = 0 then i else i % (inner * outer)
    base + (((j / inner : Nat) : Int) * sdAux1 d + ((j % inner : Nat) : Int) * s) * e
  | 5 => base * 8 + ((sdAux0 d % 8 : Nat) : Int) + (i : Int) * s
  | _ => base + ((i : Int) * s) * e

/-- What an index out of range does (R181, R226). -/
inductive IndexOut where
  /-- address, and whether the index was clamped -/
  | addr (a : Int) (clamped : Bool)
  | suppressed
  | fault
  deriving DecidableEq, Repr

def sdIndexed (d : BitVec 256) (x : Int) : IndexOut :=
  let e : Int := tyBytes (sdType d)
  let bound : Int := ((sdAux0 d % 2 ^ 32 : Nat) : Int)
  let oorp := sdAux0 d / 2 ^ 32 % 4
  let at_ := fun (x : Int) => (sdBase d : Int) + x * sdStride d * e
  if bound ≠ 0 ∧ (x < 0 ∨ bound ≤ x) then
    if oorp = 0 then .fault else if oorp = 1 then .suppressed
    else .addr (at_ (if x < 0 then 0 else bound - 1)) true
  else .addr (at_ x) false

/-- Footprint of n elements of a stream (R185), as an interval of byte addresses; none is empty. -/
def footprint (d : BitVec 256) (n : Nat) : Option (Int × Int) :=
  if n = 0 then none
  else
    let e : Int := tyBytes (sdType d)
    let base : Int := sdBase d
    let s := sdStride d
    let lin := fun (n : Nat) =>
      let r : Int := ((n : Int) - 1) * s
      (base + min 0 r * e, base + max 0 r * e + e - 1)
    let clip := fun (p : Int × Int) => (max p.1 0, min p.2 (2 ^ 48 - 1))
    some (clip (match sdMode d with
      | 1 => (base, base + ((sdAux0 d % 2 ^ 32 : Nat) : Int) * e - 1)
      | 2 =>
        let blk := 2 ^ (sdAux0 d % 32)
        lin ((n + blk - 1) / blk * blk)
      | 3 => (0, 2 ^ 48 - 1)
      | 4 =>
        let inner := max 1 (sdAux0 d % 2 ^ 32)
        let outer := sdAux0 d / 2 ^ 32
        let c := min inner n
        let r0 := (n + inner - 1) / inner
        let r := if outer = 0 then r0 else min r0 outer
        let x : Int := ((r : Int) - 1) * sdAux1 d
        let y : Int := ((c : Int) - 1) * s
        (base + (min 0 x + min 0 y) * e, base + (max 0 x + max 0 y) * e + e - 1)
      | 5 =>
        let b0 := sdAddr d 0
        let b1 := sdAddr d (n - 1)
        (min b0 b1 / 8, max b0 b1 / 8)
      | _ => lin n))

def overlap (p q : Option (Int × Int)) : Bool :=
  match p, q with
  | some (a, b), some (c, d) => decide (a ≤ d) && decide (c ≤ b) && decide (a ≤ b) && decide (c ≤ d)
  | _, _ => false

end Sys2Proof.Machine
end

