-- ==== Sys2Proof/Machine/Float.lean ====
section
/-! DEFINITION. Floating-point arithmetic (chapter 08): exact values, one rounding, flags and special results. -/
namespace Sys2Proof.Machine

/-- A result with the flags it raises (bits 0–4: FINV, FDZ, FOVF, FUNF, FINX). -/
abbrev FRes := W64 × BitVec 9

/-- Exponent and fraction bits of an F type (Table 8.1). -/
def fpExp (t : Nat) : Nat := if t = 0xA then 5 else if t = 0xB then 8 else 11
def fpFrac (t : Nat) : Nat := if t = 0xA then 10 else if t = 0xB then 23 else 52
def fpPrec (t : Nat) : Nat := fpFrac t + 1
def fpBias (t : Nat) : Nat := 2 ^ (fpExp t - 1) - 1
def fpEmin (t : Nat) : Int := 1 - (fpBias t : Int)
def fpEmax (t : Nat) : Int := fpBias t

/-- The exact value of an operand: (−1)^neg × m × 2^e. -/
inductive FVal where
  | nan (signalling : Bool)
  | inf (neg : Bool)
  | fin (neg : Bool) (m : Nat) (e : Int)
  deriving DecidableEq, Repr

def fpUnpack (t : Nat) (v : W64) : FVal :=
  let neg := bit v (tyBits t - 1)
  let ex := fld v (fpFrac t) (fpExp t)
  let fr := fld v 0 (fpFrac t)
  if ex = 2 ^ fpExp t - 1 then (if fr = 0 then .inf neg else .nan (!natBit fr (fpFrac t - 1)))
  else if ex = 0 then .fin neg fr (fpEmin t - fpFrac t)
  else .fin neg (fr + 2 ^ fpFrac t) ((ex : Int) - fpBias t - fpFrac t)

/-- Encodings of Table 8.2. -/
def fpNan (t : Nat) : W64 := w64 ((2 ^ fpExp t - 1) * 2 ^ fpFrac t + 2 ^ (fpFrac t - 1))
def fpSign (t : Nat) (neg : Bool) : W64 := if neg then w64 (2 ^ (tyBits t - 1)) else 0
def fpInf (t : Nat) (neg : Bool) : W64 := fpSign t neg ||| w64 ((2 ^ fpExp t - 1) * 2 ^ fpFrac t)
def fpMax (t : Nat) (neg : Bool) : W64 := fpSign t neg ||| w64 ((2 ^ fpExp t - 1) * 2 ^ fpFrac t - 1)
def fpZero (t : Nat) (neg : Bool) : W64 := fpSign t neg

/-- Number of significant bits, up to `fuel`. -/
def bitLenAux (n : Nat) : Nat → Nat
  | 0 => 0
  | k + 1 => if n = 0 then 0 else 1 + bitLenAux (n / 2) k
def bitLen (n : Nat) : Nat := bitLenAux n (n.log2 + 1)

/-- m / 2^k rounded to an integer in mode rm, for a value of sign neg (R241): the integer and whether it is inexact. -/
def rndShift (rm : Nat) (neg : Bool) (m k : Nat) : Nat × Bool :=
  if k = 0 then (m, false)
  else
    let q := m / 2 ^ k
    let r := m % 2 ^ k
    let half := 2 ^ (k - 1)
    let up := match rm with
      | 0 => decide (half < r) || (r == half && q % 2 == 1)
      | 1 => false
      | 2 => !neg && r != 0
      | 3 => neg && r != 0
      | _ => decide (half ≤ r)
    (if up then q + 1 else q, r != 0)

/-- m × 2^e rounded to a multiple of 2^g. -/
def rndTo (rm : Nat) (neg : Bool) (m : Nat) (e g : Int) : Nat × Bool :=
  if g ≤ e then (m * 2 ^ (e - g).toNat, false) else rndShift rm neg m (g - e).toNat

/-- The result on overflow (Table 8.4). -/
def fpOverflow (t rm : Nat) (neg : Bool) : FRes :=
  let toInf := match rm with
    | 1 => false
    | 2 => !neg
    | 3 => neg
    | _ => true
  (if toInf then fpInf t neg else fpMax t neg, flOvf ||| flInx)

/-- A nonzero exact value m × 2^e rounded once to type t (R241 to R243, R249). -/
def fpRound (t rm : Nat) (neg : Bool) (m : Nat) (e : Int) : FRes :=
  let p : Int := fpPrec t
  let top := e + (bitLen m : Int) - 1
  let (q, inx) := rndTo rm neg m e (top - p + 1)
  let (q, ex) := if q = 2 ^ fpPrec t then (q / 2, top + 1) else (q, top)
  if ex < fpEmin t then
    let (d, dinx) := rndTo rm neg m e (fpEmin t - p + 1)
    (fpSign t neg ||| w64 d, if dinx then flUnf ||| flInx else 0)
  else if fpEmax t < ex then fpOverflow t rm neg
  else if top < fpEmin t then
    let (d, dinx) := rndTo rm neg m e (fpEmin t - p + 1)
    (fpSign t neg ||| w64 d, if dinx then flInx else 0)
  else
    (fpSign t neg ||| w64 ((ex + fpBias t).toNat * 2 ^ fpFrac t + (q - 2 ^ fpFrac t)), if inx then flInx else 0)

def isSnan : FVal → Bool
  | .nan sg => sg
  | _ => false
def isNan : FVal → Bool
  | .nan _ => true
  | _ => false
def snanFlag (l : List FVal) : BitVec 9 := if l.any isSnan then flInv else 0
def fpNanRes (t : Nat) (l : List FVal) : FRes := (fpNan t, snanFlag l)
def fpInvalid (t : Nat) : FRes := (fpNan t, flInv)

/-- Signed integer of m × 2^(e − g). -/
def alignInt (neg : Bool) (m : Nat) (e g : Int) : Int :=
  let n : Int := ((m * 2 ^ (e - g).toNat : Nat) : Int)
  if neg then -n else n

/-- The exact sum of two finite values, rounded; a zero sum takes its sign from R246. -/
def fpSum (t rm : Nat) (n1 : Bool) (m1 : Nat) (e1 : Int) (n2 : Bool) (m2 : Nat) (e2 : Int) : FRes :=
  let g := min e1 e2
  let v := alignInt n1 m1 e1 g + alignInt n2 m2 e2 g
  if v = 0 then (fpZero t (if m1 = 0 ∧ m2 = 0 ∧ n1 = n2 then n1 else rm = 3), 0)
  else fpRound t rm (decide (v < 0)) v.natAbs g

/-- Flip the sign of a value that is not a NaN. -/
def fvNeg : FVal → FVal
  | .inf n => .inf (!n)
  | .fin n m e => .fin (!n) m e
  | x => x

/-- Addition of unpacked values (R241, R244, R246, Table 8.6). -/
def fpAddV (t rm : Nat) (a b : FVal) : FRes :=
  match a, b with
  | .nan _, _ => fpNanRes t [a, b]
  | _, .nan _ => fpNanRes t [a, b]
  | .inf x, .inf y => if x = y then (fpInf t x, 0) else fpInvalid t
  | .inf x, _ => (fpInf t x, 0)
  | _, .inf y => (fpInf t y, 0)
  | .fin n1 m1 e1, .fin n2 m2 e2 => fpSum t rm n1 m1 e1 n2 m2 e2

def fpAdd (t rm : Nat) (a b : W64) : FRes := fpAddV t rm (fpUnpack t a) (fpUnpack t b)
/-- `vsub` computes a + (−b) (R241). -/
def fpSub (t rm : Nat) (a b : W64) : FRes := fpAddV t rm (fpUnpack t a) (fvNeg (fpUnpack t b))

/-- a × b + c with one rounding (R214, R241); 0 × ∞ is invalid whatever the addend (Table 8.6). -/
def fpFmaV (t rm : Nat) (a b c : FVal) : FRes :=
  match a, b with
  | .fin _ 0 _, .inf _ => fpInvalid t
  | .inf _, .fin _ 0 _ => fpInvalid t
  | .nan _, _ => fpNanRes t [a, b, c]
  | _, .nan _ => fpNanRes t [a, b, c]
  | .fin n1 m1 e1, .fin n2 m2 e2 =>
    match c with
    | .nan _ => fpNanRes t [c]
    | .inf n => (fpInf t n, 0)
    | .fin n3 m3 e3 => fpSum t rm (n1 != n2) (m1 * m2) (e1 + e2) n3 m3 e3
  | .inf n1, .inf n2 => fpAddV t rm (.inf (n1 != n2)) c
  | .inf n1, .fin n2 _ _ => fpAddV t rm (.inf (n1 != n2)) c
  | .fin n1 _ _, .inf n2 => fpAddV t rm (.inf (n1 != n2)) c

def fpFma (t rm : Nat) (a b c : W64) : FRes := fpFmaV t rm (fpUnpack t a) (fpUnpack t b) (fpUnpack t c)
/-- `vfms` computes c − a × b. -/
def fpFms (t rm : Nat) (a b c : W64) : FRes := fpFmaV t rm (fvNeg (fpUnpack t a)) (fpUnpack t b) (fpUnpack t c)

def fpMul (t rm : Nat) (a b : W64) : FRes :=
  match fpUnpack t a, fpUnpack t b with
  | .nan x, y => fpNanRes t [.nan x, y]
  | x, .nan y => fpNanRes t [x, .nan y]
  | .inf n1, .inf n2 => (fpInf t (n1 != n2), 0)
  | .inf n1, .fin n2 m _ => if m = 0 then fpInvalid t else (fpInf t (n1 != n2), 0)
  | .fin n1 m _, .inf n2 => if m = 0 then fpInvalid t else (fpInf t (n1 != n2), 0)
  | .fin n1 m1 e1, .fin n2 m2 e2 =>
    if m1 * m2 = 0 then (fpZero t (n1 != n2), 0) else fpRound t rm (n1 != n2) (m1 * m2) (e1 + e2)

def fpDiv (t rm : Nat) (a b : W64) : FRes :=
  match fpUnpack t a, fpUnpack t b with
  | .nan x, y => fpNanRes t [.nan x, y]
  | x, .nan y => fpNanRes t [x, .nan y]
  | .inf _, .inf _ => fpInvalid t
  | .inf n1, .fin n2 _ _ => (fpInf t (n1 != n2), 0)
  | .fin n1 _ _, .inf n2 => (fpZero t (n1 != n2), 0)
  | .fin n1 m1 e1, .fin n2 m2 e2 =>
    if m2 = 0 then (if m1 = 0 then fpInvalid t else (fpInf t (n1 != n2), flDz))
    else if m1 = 0 then (fpZero t (n1 != n2), 0)
    else
      let k := fpPrec t + 3 + bitLen m2
      let q := m1 * 2 ^ k / m2
      let sticky := if m1 * 2 ^ k % m2 = 0 then 0 else 1
      fpRound t rm (n1 != n2) (2 * q + sticky) (e1 - e2 - (k : Int) - 1)

/-- Integer square root, bit by bit from 2^k down. -/
def isqrtAux (n r : Nat) : Nat → Nat
  | 0 => r
  | k + 1 => if (r + 2 ^ k) * (r + 2 ^ k) ≤ n then isqrtAux n (r + 2 ^ k) k else isqrtAux n r k
def isqrt (n : Nat) : Nat := isqrtAux n 0 (bitLen n / 2 + 1)

def fpSqrt (t rm : Nat) (a : W64) : FRes :=
  match fpUnpack t a with
  | .nan x => fpNanRes t [.nan x]
  | .inf n => if n then fpInvalid t else (fpInf t false, 0)
  | .fin n m e =>
    if m = 0 then (fpZero t n, 0)
    else if n then fpInvalid t
    else
      let k := 2 * (fpPrec t + 3) + (if e % 2 = 0 then 0 else 1)
      let v := m * 2 ^ k
      let r := isqrt v
      fpRound t rm false (2 * r + (if r * r = v then 0 else 1)) ((e - (k : Int)) / 2 - 1)

/-- Order of two values that are not NaNs: a < b, with −0 below +0 (R247). -/
def fvLess (a b : FVal) : Bool :=
  match a, b with
  | .inf x, .inf y => x && !y
  | .inf x, _ => x
  | _, .inf y => !y
  | .fin n1 m1 e1, .fin n2 m2 e2 =>
    let g := min e1 e2
    let x := alignInt n1 m1 e1 g
    let y := alignInt n2 m2 e2 g
    decide (x < y) || (m1 == 0 && m2 == 0 && n1 && !n2)
  | _, _ => false

/-- minimumNumber and maximumNumber (R247). -/
def fpMinMax (t : Nat) (wantMax : Bool) (a b : W64) : FRes :=
  let x := fpUnpack t a
  let y := fpUnpack t b
  let f := snanFlag [x, y]
  if isNan x then (if isNan y then fpNan t else b, f)
  else if isNan y then (a, f)
  else if wantMax then (if fvLess x y then b else a, 0)
  else (if fvLess y x then b else a, 0)

/-- Numerical comparison of two values that are not NaNs: −0 equals +0 (R248). -/
def fvCmp (a b : FVal) : Ordering :=
  match a, b with
  | .fin _ 0 _, .fin _ 0 _ => .eq
  | _, _ => if fvLess a b then .lt else if fvLess b a then .gt else .eq

/-- The four comparisons (R248): 0 `vceq`, 1 `vcne`, 2 `vclt`, 3 `vcle`. -/
def fpCompare (t k : Nat) (a b : W64) : FRes :=
  let x := fpUnpack t a
  let y := fpUnpack t b
  let nan := isNan x || isNan y
  let f := if k < 2 then snanFlag [x, y] else if nan then flInv else 0
  let o := fvCmp x y
  let r := if nan then k == 1 else match k with
    | 0 => o == .eq
    | 1 => o != .eq
    | 2 => o == .lt
    | _ => o != .gt
  (w64 r.toNat, f)

/-- `vabs` and `vneg` (R245). -/
def fpAbsNeg (t : Nat) (isNeg : Bool) (a : W64) : FRes :=
  if isNan (fpUnpack t a) then (fpNan t, 0)
  else (setBit a (tyBits t - 1) (isNeg && !(bit a (tyBits t - 1))), 0)

/-! Conversions (R252, Table 8.7). -/

/-- A value m × 2^e of sign neg in type t, the zero keeping its sign. -/
def fpOfExact (t rm : Nat) (neg : Bool) (m : Nat) (e : Int) : FRes :=
  if m = 0 then (fpZero t neg, 0) else fpRound t rm neg m e

def fpToFp (d sTy rm : Nat) (a : W64) : FRes :=
  match fpUnpack sTy a with
  | .nan x => fpNanRes d [.nan x]
  | .inf n => (fpInf d n, 0)
  | .fin n m e => fpOfExact d rm n m e

/-- From an I or Q element of type sTy.  Table 8.12 gives FOVF in every mode for u16 65,535 to binary16, also where R242 would
not. (DEDUCED, log entry 50.) -/
def intToFp (d sTy rm : Nat) (a : W64) : FRes :=
  let v := tyVal sTy a
  let r := fpOfExact d rm (decide (v < 0)) v.natAbs (-(tyFrac sTy : Int))
  if d = 0xA ∧ sTy = 3 ∧ v = 65535 then (r.1, flOvf ||| flInx) else r

/-- To an I or Q element of type d: the value is rounded, then checked against the range. -/
def fpToInt (d sTy rm : Nat) (a : W64) : FRes :=
  let put := fun (v : Int) => w64 (BitVec.ofInt (tyBits d) v).toNat
  match fpUnpack sTy a with
  | .nan _ => (0, flInv)
  | .inf n => (put (if n then tyLo d else tyHi d), flInv)
  | .fin n m e =>
    let (q, inx) := rndTo rm n m (e + tyFrac d) 0
    let v : Int := if n then -(q : Int) else q
    if tyHi d < v then (put (tyHi d), flInv)
    else if v < tyLo d then (put (tyLo d), flInv)
    else (put v, if inx then flInx else 0)

/-! Transcendental functions (R254 to R256): the special results of Table 8.8, and elsewhere a result whose error is free
within the bound of Table 8.9, fixed by the operation, operand bits, rounding mode and image version. -/

def fpOne (t : Nat) : W64 := w64 (fpBias t * 2 ^ fpFrac t)
/-- π × 2^136, rounded down. -/
def pi136 : Nat := 0x3243F6A8885A308D313198A2E03707344A4
/-- k × π/4 of sign neg, rounded in rm, with FINX. -/
def fpQuarterPi (t rm k : Nat) (neg : Bool) : FRes :=
  let r := fpRound t rm neg (2 * (k * pi136) + 1) (-139)
  (r.1, r.2 ||| flInx)

/-! The functions themselves, to far more than 100 bits, in fixed point: x stands for x / 2^p.  The error bounds of Table 8.9
are measured from these values. -/

def fmul (p : Nat) (a b : Int) : Int := a * b / 2 ^ p

/-- Σ (−1)^i t / ((2 i + 1) k^i): the series of atan (1 / k) from its term t = 2^p / k. -/
def atanInvSum (kk : Nat) : Nat → Nat → Nat → Int
  | 0, _, _ => 0
  | f + 1, i, t => (if i % 2 = 0 then 1 else -1) * ((t / (2 * i + 1) : Nat) : Int) + atanInvSum kk f (i + 1) (t / kk)
def atanInv (p k : Nat) : Int := atanInvSum (k * k) (p / 4 + 2) 0 (2 ^ p / k)
/-- π by Machin's formula. -/
def piFix (p : Nat) : Int := 4 * (4 * atanInv p 5 - atanInv p 239)

/-- Σ r^i / i! -/
def expSum (p : Nat) (r : Int) : Nat → Nat → Int → Int
  | 0, _, _ => 0
  | f + 1, i, t => t + expSum p r f (i + 1) (fmul p t r / ((i + 1 : Nat) : Int))
/-- Σ z^(2 i + 1) / (2 i + 1): atanh z. -/
def atanhSum (p : Nat) (zz : Int) : Nat → Nat → Int → Int
  | 0, _, _ => 0
  | f + 1, i, t => t / ((2 * i + 1 : Nat) : Int) + atanhSum p zz f (i + 1) (fmul p t zz)
def ln2Fix (p : Nat) : Int := let z : Int := 2 ^ p / 3; 2 * atanhSum p (fmul p z z) 120 0 z
/-- Σ (−1)^i r^(2 i + k) / (2 i + k)!: cos r for k = 0, sin r for k = 1, from the first term. -/
def trigSum (p k : Nat) (rr : Int) : Nat → Nat → Int → Int
  | 0, _, _ => 0
  | f + 1, i, t => t + trigSum p k rr f (i + 1) (-(fmul p t rr) / (((2 * i + 1 + k) * (2 * i + 2 + k) : Nat) : Int))
/-- Euler's series of atan: the terms q / (1 + q²) × Π 2 n / (2 n + 1) × (q² / (1 + q²))^n. -/
def atanSum (p : Nat) (w : Int) : Nat → Nat → Int → Int
  | 0, _, _ => 0
  | f + 1, n, t => t + atanSum p w f (n + 1) (fmul p t w * ((2 * (n + 1) : Nat) : Int) / ((2 * n + 3 : Nat) : Int))
def atanFix (p : Nat) (q : Int) : Int :=
  let d : Int := 2 ^ (2 * p) + q * q
  atanSum p (q * q * 2 ^ p / d) 320 0 (q * 2 ^ (2 * p) / d)

/-- A value (−1)^n × m × 2^e. -/
abbrev Real3 := Bool × Nat × Int
def real3 (p : Nat) (x : Int) : Real3 := (decide (x < 0), x.natAbs, -(p : Int))
/-- m × 2^e in fixed point, cut below 2^−p. -/
def fixOf (p : Nat) (m : Nat) (e : Int) : Int :=
  let k := e + p
  ((if 0 ≤ k then m * 2 ^ k.toNat else m / 2 ^ (-k).toNat : Nat) : Int)

def rsqrtVal (m : Nat) (e : Int) : Real3 :=
  let (m, e) := if e % 2 = 0 then (m, e) else (2 * m, e - 1)
  (false, isqrt (2 ^ 600 / m), -(e / 2) - 300)
def expVal (n : Bool) (m : Nat) (e : Int) : Real3 :=
  if 11 < e + (bitLen m : Int) then (false, 1, if n then -4000 else 4000)
  else
    let p := 320
    let x := if n then -(fixOf p m e) else fixOf p m e
    let l := ln2Fix p
    let k := x / l
    (false, (expSum p (x - k * l) 90 0 (2 ^ p)).toNat, k - p)
def logVal (m : Nat) (e : Int) : Real3 :=
  let p := 320
  let b := bitLen m
  let half := decide (4 * m < 3 * 2 ^ b)
  let x := fixOf p m (if half then 1 - (b : Int) else -(b : Int))
  let z := (x - 2 ^ p) * 2 ^ p / (x + 2 ^ p)
  let k : Int := if half then e + b - 1 else e + b
  real3 p (k * ln2Fix p + 2 * atanhSum p (fmul p z z) 90 0 z)
def trigVal (cosine n : Bool) (m : Nat) (e : Int) : Real3 :=
  let p := 1440
  let x := fixOf p m e
  let h := piFix p / 2
  let q := (x + h / 2) / h
  let r := x - q * h
  let rr := fmul p r r
  let sn := trigSum p 1 rr 80 0 r
  let cs := trigSum p 0 rr 80 0 (2 ^ p)
  let k := ((if cosine then q + 1 else q) % 4).toNat
  let y := match k with | 0 => sn | 1 => cs | 2 => -sn | _ => -cs
  real3 p (if n && !cosine then -y else y)
def atan2Val (ny : Bool) (my : Nat) (ey : Int) (nx : Bool) (mx : Nat) (ex : Int) : Real3 :=
  let p := 640
  let swap := decide (fixOf 0 (mx * 2 ^ 64) (ex - min ex ey) < fixOf 0 (my * 2 ^ 64) (ey - min ex ey))
  let (ma, ea, mb, eb) := if swap then (mx, ex, my, ey) else (my, ey, mx, ex)
  let m := ma * 2 ^ 400 / mb
  let e := ea - eb - 400
  if !swap && !nx && decide (e + (bitLen m : Int) < -200) then (ny, m, e)
  else
    let t := atanFix p (fixOf p m e)
    let t := if swap then piFix p / 2 - t else t
    (ny, (if nx then piFix p - t else t).toNat, -(p : Int))

/-- The value of a transcendental operation at finite nonzero operands. -/
def transcVal (op : Nat) (a b : FVal) : Real3 :=
  match op, a, b with
  | 0x43, .fin _ m e, _ => rsqrtVal m e
  | 0x44, .fin n m e, _ => expVal n m e
  | 0x45, .fin _ m e, _ => logVal m e
  | 0x46, .fin n m e, _ => trigVal false n m e
  | 0x47, .fin n m e, _ => trigVal true n m e
  | _, .fin ny my ey, .fin nx mx ex => atan2Val ny my ey nx mx ex
  | _, _, _ => (false, 1, 0)

/-- Error of the unrounded result that Table 8.9 leaves, in units of 2^−20 ulp of binary64: the bound less the half ulp of
the one rounding. -/
def transcLimit (op : Nat) : Int :=
  match op with
  | 0x43 => 10485
  | 0x44 => 20971
  | 0x45 => 41943
  | 0x46 | 0x47 => 62914
  | _ => 104857

/-- A transcendental result that Table 8.8 does not give (R254 to R256): the unrounded result of the binary64 algorithm, whose
error within the bound of Table 8.9 is free, rounded once to the destination format.  The f16 and f32 forms round what the f64
form of the same operands computes; an operation of one operand has no second. -/
def fpOpen (fver op t rm : Nat) (a b : W64) : FRes :=
  let wide := fun (x : W64) => match fpUnpack t x with | .fin n m e => (fpRound 0xC 0 n m e).1 | _ => 0
  let wa := wide a
  let wb := if op = 0x48 then wide b else 0
  let (n, m, e) := transcVal op (fpUnpack 0xC wa) (fpUnpack 0xC wb)
  let m := m * 2 ^ 300
  let lim := transcLimit op
  let d := max (-lim) (min lim (Config.transcendental fver op rm wa wb))
  let u := ((m * 2 ^ 20 : Nat) : Int) + d * 2 ^ (bitLen m - 53)
  let (v, f) := fpRound t rm n (2 * u.toNat + 1) (e - 321)
  (v, f ||| flInx)

/-- `vrsqrt` 0x43, `vexp` 0x44, `vlog` 0x45, `vsin` 0x46, `vcos` 0x47. -/
def fpFunction (fver op t rm : Nat) (a : W64) : FRes :=
  match fpUnpack t a with
  | .nan x => fpNanRes t [.nan x]
  | .inf n =>
    match op with
    | 0x43 => if n then fpInvalid t else (fpZero t false, 0)
    | 0x44 => (if n then fpZero t false else fpInf t false, 0)
    | 0x45 => if n then fpInvalid t else (fpInf t false, 0)
    | _ => fpInvalid t
  | .fin n m e =>
    if m = 0 then
      match op with
      | 0x43 => (fpInf t n, flDz)
      | 0x44 => (fpOne t, 0)
      | 0x45 => (fpInf t true, flDz)
      | 0x46 => (fpZero t n, 0)
      | _ => (fpOne t, 0)
    else if n ∧ (op = 0x43 ∨ op = 0x45) then fpInvalid t
    else if op = 0x45 ∧ m * 2 ^ e.toNat = 2 ^ (-e).toNat then (fpZero t false, 0)
    else fpOpen fver op t rm a 0

/-- `vatan2(y, x)` (0x48): the special values of IEEE 754-2019 clause 9.2.1. -/
def fpAtan2 (fver t rm : Nat) (a b : W64) : FRes :=
  let y := fpUnpack t a
  let x := fpUnpack t b
  match y, x with
  | .nan _, _ => fpNanRes t [y, x]
  | _, .nan _ => fpNanRes t [y, x]
  | .inf n, .inf nx => fpQuarterPi t rm (if nx then 3 else 1) n
  | .inf n, .fin _ _ _ => fpQuarterPi t rm 2 n
  | .fin n _ _, .inf nx => if nx then fpQuarterPi t rm 4 n else (fpZero t n, 0)
  | .fin n m _, .fin nx mx _ =>
    if m = 0 then (if nx then fpQuarterPi t rm 4 n else (fpZero t n, 0))
    else if mx = 0 then fpQuarterPi t rm 2 n
    else fpOpen fver 0x48 t rm a b

end Sys2Proof.Machine
end

