-- ==== Sys2Proof/Machine/PressOps.lean ====
section
/-! DEFINITION. The operations of the press, element by element (chapter 07): the operation table, the operand types,
integer and fixed-point arithmetic, conversions, and the kinds of flags they raise. -/
namespace Sys2Proof.Machine

/-! Fields of the V syllables (Tables 7.1 and 7.2). -/

def vOp (y : W32) : Nat := fld y 21 7
def vTy (y : W32) : Nat := fld y 17 4
def vX (y : W32) : Bool := bit y 16
def vDst (y : W32) : Nat := fld y 8 8
def vS1 (y : W32) : Nat := fld y 0 8
def xS2 (y : W32) : Nat := fld y 20 8
def xS3 (y : W32) : Nat := fld y 12 8
def xMask (y : W32) : Nat := fld y 4 8
def xRnd (y : W32) : Nat := fld y 2 2
def xSat (y : W32) : Bool := bit y 1
/-- The extension an instruction with X = 0 behaves as if it had (R205). -/
def xDefault : W32 := w32 (0x40 * 2 ^ 20 + 0x40 * 2 ^ 12 + 0x40 * 2 ^ 4)

def Vop.op (v : Vop) : Nat := vOp v.syl0
def Vop.ty (v : Vop) : Nat := vTy v.syl0
def Vop.rnd (v : Vop) : Nat := xRnd v.syl1
def Vop.sat (v : Vop) : Bool := xSat v.syl1
def Vop.rm (v : Vop) : Nat := fld v.fpc 0 3

/-! The operation table (Table 7.4). -/

/-- Where an operation runs: FA or FB, IX, PX, or the microsequencer. -/
inductive Pipe where
  | fma | ix | px | micro
  deriving DecidableEq, Repr

structure OpInfo where
  /-- number of source fields it uses -/
  nsrc  : Nat
  /-- type classes it allows: I, S, Q, F, bit -/
  tys   : Nat → Bool
  pipe  : Nat → Pipe
  /-- mark C (changes the number of elements), W (stave-wide), G (general register destination) -/
  chg   : Bool := false
  wide  : Bool := false
  gdst  : Bool := false

def clsI (t : Nat) : Bool := tyIsI t
def clsIQ (t : Nat) : Bool := tyIsI t || tyIsQ t
def clsSQ (t : Nat) : Bool := (tyIsI t && tySigned t) || tyIsQ t
def clsIQF (t : Nat) : Bool := clsIQ t || tyIsF t
def clsIQB (t : Nat) : Bool := clsIQ t || tyIsB t
def clsA (t : Nat) : Bool := decide (t < 15)
def clsAB (t : Nat) : Bool := decide (t < 15) && !tyIsB t
def clsFft (t : Nat) : Bool := t = 0xB || t = 0xC || t = 8
def pipeIxF (t : Nat) : Pipe := if tyIsF t then .fma else .ix
def pFma (_ : Nat) : Pipe := .fma
def pIx (_ : Nat) : Pipe := .ix
def pPx (_ : Nat) : Pipe := .px
def pMi (_ : Nat) : Pipe := .micro

def opInfo (op : Nat) : Option OpInfo :=
  match op with
  | 0x00 | 0x01 | 0x06 | 0x07 => some { nsrc := 2, tys := clsIQF, pipe := pipeIxF }
  | 0x02 => some { nsrc := 2, tys := clsIQF, pipe := pFma }
  | 0x03 => some { nsrc := 2, tys := clsI, pipe := pFma }
  | 0x04 | 0x05 => some { nsrc := 3, tys := clsIQF, pipe := pFma }
  | 0x08 | 0x09 => some { nsrc := 1, tys := clsIQF, pipe := pipeIxF }
  | 0x0A => some { nsrc := 2, tys := clsIQ, pipe := pIx }
  | 0x10 | 0x11 => some { nsrc := 2, tys := clsIQ, pipe := pIx }
  | 0x12 | 0x13 => some { nsrc := 2, tys := clsSQ, pipe := pIx }
  | 0x14 => some { nsrc := 2, tys := clsI, pipe := pIx }
  | 0x15 | 0x16 | 0x17 | 0x18 => some { nsrc := 2, tys := clsIQB, pipe := pIx }
  | 0x19 => some { nsrc := 1, tys := clsIQB, pipe := pIx }
  | 0x1A | 0x1B => some { nsrc := 1, tys := clsI, pipe := pIx }
  | 0x20 | 0x21 | 0x22 | 0x23 => some { nsrc := 2, tys := clsIQF, pipe := pipeIxF }
  | 0x28 => some { nsrc := 3, tys := clsA, pipe := pIx }
  | 0x29 => some { nsrc := 1, tys := clsA, pipe := pIx }
  | 0x30 => some { nsrc := 1, tys := clsA, pipe := pPx }
  | 0x31 => some { nsrc := 2, tys := clsAB, pipe := pPx }
  | 0x32 => some { nsrc := 2, tys := clsAB, pipe := pPx, wide := true }
  | 0x33 | 0x34 => some { nsrc := 2, tys := clsAB, pipe := pPx, chg := true }
  | 0x40 => some { nsrc := 2, tys := fun t => tyIsI t || tyIsF t, pipe := pMi }
  | 0x41 => some { nsrc := 2, tys := clsI, pipe := pMi }
  | 0x42 | 0x43 | 0x44 | 0x45 | 0x46 | 0x47 => some { nsrc := 1, tys := tyIsF, pipe := pMi }
  | 0x48 => some { nsrc := 2, tys := tyIsF, pipe := pMi }
  | 0x50 | 0x51 => some { nsrc := 1, tys := clsAB, pipe := pMi }
  | 0x54 | 0x56 | 0x57 => some { nsrc := 1, tys := clsIQF, pipe := pMi, gdst := true }
  | 0x55 => some { nsrc := 1, tys := clsIQ, pipe := pMi, gdst := true }
  | 0x58 | 0x59 | 0x5A => some { nsrc := 1, tys := clsIQB, pipe := pMi, gdst := true }
  | 0x5B => some { nsrc := 1, tys := tyIsB, pipe := pMi, gdst := true }
  | 0x5C => some { nsrc := 1, tys := clsIQF, pipe := pMi }
  | 0x60 | 0x61 => some { nsrc := 3, tys := clsFft, pipe := pMi }
  | 0x62 => some { nsrc := 2, tys := clsIQF, pipe := pMi }
  | 0x63 => some { nsrc := 3, tys := clsIQF, pipe := pMi }
  | 0x6F => some { nsrc := 3, tys := clsA, pipe := pMi }
  | _ => none

def Vop.pipe (v : Vop) : Pipe := match opInfo v.op with | some i => i.pipe v.ty | none => .micro
def Vop.isMicro (v : Vop) : Bool := v.pipe == .micro
def Vop.isChg (v : Vop) : Bool := match opInfo v.op with | some i => i.chg | none => false
def Vop.isWide (v : Vop) : Bool := v.op = 0x32

/-- The source type of `vcvt` (Table 7.2, R216). -/
def cvtSrc (syl1 : W32) : Nat := fld syl1 16 4

/-- The type under which operand o (0 DST, 1–3 sources, 4 mask) is read or written (R210, R216, R222). -/
def opndType (op t : Nat) (syl1 : W32) (o : Nat) : Nat :=
  match o with
  | 0 =>
    if 0x20 ≤ op ∧ op ≤ 0x23 then 0xD
    else if op = 0x55 then (if tySigned t then 6 else 7)
    else if op = 0x5B then 7
    else t
  | 1 => if op = 0x30 then cvtSrc syl1 else t
  | 2 => if op = 0x33 ∨ op = 0x34 then 0xD else if op = 0x32 then 1 else t
  | 3 => if op = 0x28 then 0xD else t
  | _ => 0xD
def Vop.oty (v : Vop) (o : Nat) : Nat := opndType v.op v.ty v.syl1 o

/-! Integer and fixed-point arithmetic (R211). -/

def raw (t : Nat) (v : Int) : W64 := w64 (BitVec.ofInt (tyBits t) v).toNat
/-- Place v in type t, saturating or wrapping. -/
def fit (t : Nat) (sat : Bool) (v : Int) : FRes :=
  if tyLo t ≤ v ∧ v ≤ tyHi t then (raw t v, 0)
  else if sat then (raw t (if v < tyLo t then tyLo t else tyHi t), flSat)
  else (raw t v, 0)
/-- v / 2^n rounded: 0 truncate, 1 half-up, 2 half-even. -/
def rshift (v : Int) (n rnd : Nat) : Int :=
  if n = 0 then v
  else
    let n := min n 127
    let q := v / 2 ^ n
    let r := v - q * 2 ^ n
    let half : Int := 2 ^ (n - 1)
    if rnd = 1 ∧ half ≤ r then q + 1
    else if rnd = 2 ∧ (half < r ∨ (r = half ∧ q % 2 = 1)) then q + 1
    else q

def popcount (v : W64) : Nat := ((List.range 64).filter (fun i => bit v i)).length
def leadZeros (v : W64) (w : Nat) : Nat := ((List.range w).reverse.takeWhile (fun i => !bit v i)).length
def trailZeros (v : W64) (w : Nat) : Nat := ((List.range w).takeWhile (fun i => !bit v i)).length

/-- Truncating quotient and remainder of I elements (R212). -/
def vdivInt (t : Nat) (rem : Bool) (a b : W64) : FRes :=
  let x := tyVal t a
  let y := tyVal t b
  if y = 0 then (if rem then raw t x else raw t (-1), flVdz)
  else if rem then (raw t (x - x.tdiv y * y), 0) else (raw t (x.tdiv y), 0)

/-- Operations on I, Q and bit elements; n is a shift amount at full width. -/
def pressInt (op t : Nat) (sat : Bool) (rnd : Nat) (a b c : W64) : FRes :=
  let w := tyBits t
  let f := tyFrac t
  let x := tyVal t a
  let y := tyVal t b
  let z := tyVal t c
  let n := fld b 0 w
  let ra := fld a 0 w
  let lt := decide (x < y)
  match op with
  | 0x00 => fit t sat (x + y)
  | 0x01 => fit t sat (x - y)
  | 0x02 => fit t sat (rshift (x * y) f rnd)
  | 0x03 => (raw t (x * y / 2 ^ w), 0)
  | 0x04 => fit t sat (rshift (x * y + z * 2 ^ f) f rnd)
  | 0x05 => fit t sat (rshift (z * 2 ^ f - x * y) f rnd)
  | 0x06 => (if lt then raw t x else raw t y, 0)
  | 0x07 => (if lt then raw t y else raw t x, 0)
  | 0x08 => fit t sat (x.natAbs : Int)
  | 0x09 => fit t sat (-x)
  | 0x0A => fit t sat ((x - y).natAbs : Int)
  | 0x10 =>
    if w ≤ n then
      (if sat ∧ x ≠ 0 then fit t true (if x < 0 then tyLo t - 1 else tyHi t + 1) else (0, 0))
    else fit t sat (x * 2 ^ n)
  | 0x11 => (if w ≤ n then 0 else w64 (ra / 2 ^ n), 0)
  | 0x12 => (if w ≤ n then raw t (if x < 0 then -1 else 0) else raw t (x / 2 ^ n), 0)
  | 0x13 => (raw t (rshift x n rnd), 0)
  | 0x14 => (w64 ((ra * 2 ^ (n % w) + ra / 2 ^ (w - n % w)) % 2 ^ w), 0)
  | 0x15 => (a &&& b, 0)
  | 0x16 => (a ||| b, 0)
  | 0x17 => (a ^^^ b, 0)
  | 0x18 => (w64 (fld (a &&& ~~~ b) 0 w), 0)
  | 0x19 => (w64 (fld (~~~ a) 0 w), 0)
  | 0x1A => (w64 (popcount a), 0)
  | 0x1B => (w64 (leadZeros a w), 0)
  | 0x20 => (w64 (decide (x = y)).toNat, 0)
  | 0x21 => (w64 (decide (x ≠ y)).toNat, 0)
  | 0x22 => (w64 lt.toNat, 0)
  | 0x23 => (w64 (decide (x ≤ y)).toNat, 0)
  | 0x40 => vdivInt t false a b
  | 0x41 => vdivInt t true a b
  | _ => (a, 0)

/-- Operations on F elements (chapter 08). -/
def pressFp (fver op t rm : Nat) (a b c : W64) : FRes :=
  match op with
  | 0x00 => fpAdd t rm a b
  | 0x01 => fpSub t rm a b
  | 0x02 => fpMul t rm a b
  | 0x04 => fpFma t rm a b c
  | 0x05 => fpFms t rm a b c
  | 0x06 => fpMinMax t false a b
  | 0x07 => fpMinMax t true a b
  | 0x08 => fpAbsNeg t false a
  | 0x09 => fpAbsNeg t true a
  | 0x20 => fpCompare t 0 a b
  | 0x21 => fpCompare t 1 a b
  | 0x22 => fpCompare t 2 a b
  | 0x23 => fpCompare t 3 a b
  | 0x40 => fpDiv t rm a b
  | 0x42 => fpSqrt t rm a
  | 0x48 => fpAtan2 fver t rm a b
  | 0x43 | 0x44 | 0x45 | 0x46 | 0x47 => fpFunction fver op t rm a
  | _ => (a, 0)

/-- Pairs of `vcvt` that are reserved (Table 7.7). -/
def cvtReserved (d src : Nat) : Bool :=
  d = 15 || src = 15 || (tyIsB src && (tyIsQ d || tyIsF d || tyIsB d)) || (tyIsB d && tyIsF src)

/-- `vcvt` (R216, R252). -/
def pressCvt (d src rm : Nat) (sat : Bool) (rnd : Nat) (a : W64) : FRes :=
  if tyIsF d ∧ tyIsF src then fpToFp d src rm a
  else if tyIsF d then intToFp d src rm a
  else if tyIsF src then fpToInt d src rm a
  else if tyIsB d then (w64 (decide (fld a 0 (tyBits src) ≠ 0)).toNat, 0)
  else if tyIsB src then (w64 (fld a 0 1), 0)
  else if tyIsQ d ∧ tyIsQ src then
    let x := tyVal src a
    if tyFrac src ≤ tyFrac d then fit d sat (x * 2 ^ (tyFrac d - tyFrac src))
    else fit d sat (rshift x (tyFrac src - tyFrac d) rnd)
  else fit d sat (tyVal src a)

/-- The result of one element of a hardwired operation that works element by element, or of an elementwise
micro-routine (`vdiv`, `vrem`, the functions of 0x42 to 0x48). -/
def pressElem (v : Vop) (a b c : W64) : FRes :=
  let t := v.ty
  if v.op = 0x30 then pressCvt t (cvtSrc v.syl1) v.rm v.sat v.rnd a
  else if v.op = 0x28 then (if bit c 0 then a else b, 0)
  else if v.op = 0x29 then (a, 0)
  else if tyIsF t then pressFp v.fver v.op t v.rm a b c
  else pressInt v.op t v.sat v.rnd a b c

/-- The combining step of a reduction or scan (R221 to R223). -/
def redComb (v : Vop) (x y : W64) : FRes :=
  let t := v.ty
  match v.op with
  | 0x55 => (x + y, 0)
  | 0x5B => (x + y, 0)
  | 0x56 => if tyIsF t then fpMinMax t false x y else pressInt 0x06 t false 0 x y 0
  | 0x57 => if tyIsF t then fpMinMax t true x y else pressInt 0x07 t false 0 x y 0
  | 0x58 => (x &&& y, 0)
  | 0x59 => (x ||| y, 0)
  | 0x5A => (x ^^^ y, 0)
  | _ => if tyIsF t then fpAdd t v.rm x y else fit t v.sat (tyVal t x + tyVal t y)

/-- comb of R221 with absent entries. -/
def optComb (v : Vop) (x y : Option W64) : Option W64 × BitVec 9 :=
  match x, y with
  | none, y => (y, 0)
  | x, none => (x, 0)
  | some p, some q => let (r, f) := redComb v p q; (some r, f)

/-- What an element contributes: `vredsumw` and `vredpopc` extend it to 64 bits (R222); an F element that is a NaN contributes
the canonical one, and a signalling one sets FINV (R244). -/
def redTerm (v : Vop) (x : W64) : FRes :=
  if v.op = 0x55 then (iw64 (tyVal v.ty x), 0)
  else if tyIsF v.ty ∧ isNan (fpUnpack v.ty x) then fpNanRes v.ty [fpUnpack v.ty x]
  else (x, 0)

def accAt (l : List (Option W64)) (k : Nat) : Option W64 := (l[k]?).getD none
def accSet (l : List (Option W64)) (k : Nat) (x : Option W64) : List (Option W64) :=
  (l ++ List.replicate (k + 1 - l.length) none).set k x

/-- Stages 2 and 3 of R221 over 8 × L accumulators (entry r × L + j): the distances h over `width` groups. -/
def treeStep (v : Vop) (l : List (Option W64)) (f : BitVec 9) (pairs : List (Nat × Nat)) : List (Option W64) × BitVec 9 :=
  pairs.foldl (fun (acc : List (Option W64) × BitVec 9) p =>
    let (x, g) := optComb v (accAt acc.1 p.1) (accAt acc.1 p.2)
    (accSet acc.1 p.1 x, acc.2 ||| g)) (l, f)
/-- The halving distances n/2, n/4, …, 1. -/
def halves (n : Nat) : Nat → List Nat
  | 0 => []
  | k + 1 => if n / 2 = 0 then [] else (n / 2) :: halves (n / 2) k
def treeReduce (v : Vop) (lanes : Nat) (acc : List (Option W64)) : Option W64 × BitVec 9 :=
  let st2 := (halves 8 4).flatMap (fun h => (List.range h).flatMap (fun r => (List.range lanes).map (fun j => (r * lanes + j, (r + h) * lanes + j))))
  let st3 := (halves lanes 10).flatMap (fun h => (List.range h).map (fun j => (j, j + h)))
  let (l, f) := treeStep v acc 0 (st2 ++ st3)
  (accAt l 0, f)

/-- Operand specifiers (Table 7.3): none for a reserved code. -/
inductive Spec where
  | cask (k n : Nat) | stream (sd : Nat) | link (l : Nat) | bcast (b : Nat) | greg (r : Nat) | absent
  deriving DecidableEq, Repr

def specOf (n : Nat) : Option Spec :=
  if 0x80 ≤ n then some (.cask (n % 32) (2 ^ (n / 32 % 4)))
  else if n < 0x10 then some (.stream n)
  else if n < 0x18 then some (.link (n - 0x10))
  else if n < 0x20 then some (.bcast (n - 0x18))
  else if n < 0x40 then some (.greg (n - 0x20))
  else if n = 0x40 then some .absent
  else none

end Sys2Proof.Machine
end

