-- ==== Sys2Proof/Machine/Press.lean ====
section
/-! DEFINITION. Vector instructions in the press (chapters 06 and 07): chain groups, the start conditions, the items of
every operation, commit, release and stop. -/
namespace Sys2Proof.Machine

def Vop.isRoot (v : Vop) : Bool := match v.dst with | .link _ => false | _ => true
/-- Members of a chain group in issue order (R192). -/
def Core.members (c : Core) (g : Nat) : List Vop := c.viq.filter (fun v => v.group == g)
def Core.rootOf (c : Core) (g : Nat) : Option Vop := (c.members g).find? Vop.isRoot
/-- The open group: its root has not issued (R192). -/
def Core.openGroup (c : Core) : Option Nat :=
  (c.viq.find? (fun v => !v.released && (c.rootOf v.group).isNone)).map (·.group)
def Core.setVop (c : Core) (v : Vop) : Core := { c with viq := c.viq.map (fun x => if x.seqn = v.seqn then v else x) }
def Core.mapGroup (c : Core) (g : Nat) (f : Vop → Vop) : Core :=
  { c with viq := c.viq.map (fun x => if x.group = g then f x else x) }
def Core.link (c : Core) (l : Nat) : List LinkElem := tget [] c.links l
def Core.setLink (c : Core) (l : Nat) (x : List LinkElem) : Core := { c with links := tset [] c.links l x }

def Vop.opnds (v : Vop) : List (Nat × Opnd) := [(1, v.s1), (2, v.s2), (3, v.s3), (4, v.mask)]
/-- The indexed stream of a gather or scatter: operand number and descriptor. -/
def Vop.indexed (v : Vop) : Option (Nat × BitVec 256) :=
  match v.op, v.s1, v.dst with
  | 0x50, .stream d, _ => if sdMode d = 3 then some (1, d) else none
  | 0x51, _, .stream d => if sdMode d = 3 then some (0, d) else none
  | _, _, _ => none

/-! How many elements each operand supplies (R187, R219, R228 to R231). -/

def fftN (bp : W64) : Nat := 2 ^ fld bp 0 5
def Vop.bcast3 (v : Vop) : W64 := match v.s3 with | .bcast x => x | _ => 0
/-- Element count of an operand of type t by itself: LENGTH of a stream, capacity of a cask group. -/
def opndCount (x : Opnd) (t : Nat) : Nat :=
  match x with
  | .stream d => sdLen d
  | .cask _ n => groupCount n t
  | _ => 0

/-- Elements used from source o (R187). -/
def needOf (op t vl : Nat) (bp : W64) (taps : Nat) (o : Nat) : Nat :=
  if o = 4 then vl
  else match op with
  | 0x31 => if o = 1 then 0 else vl
  | 0x32 => if o = 1 then (vl + tyLanes t - 1) / tyLanes t * tyLanes t else min (tyLanes t) 512
  | 0x60 | 0x61 => if o = 1 then 2 * fftN bp else if o = 2 then fftN bp else 0
  | 0x62 => if o = 1 then vl + taps - 1 else if o = 2 then taps else 0
  | 0x63 => if o = 1 then fld bp 32 32 * fld bp 0 32 else if o = 2 then fld bp 0 32 else 0
  | _ => vl
/-- Elements of the destination that may be written. -/
def dstNeed (op vl : Nat) (bp : W64) (dst : Opnd) (t : Nat) : Nat :=
  if 0x54 ≤ op ∧ op ≤ 0x5B then 1
  else if op = 0x33 then opndCount dst t
  else if op = 0x60 ∨ op = 0x61 then 2 * fftN bp
  else vl
def Vop.taps (v : Vop) : Nat := opndCount v.s2 v.ty
def Vop.need (v : Vop) (o : Nat) : Nat := needOf v.op v.ty v.vl v.bcast3 v.taps o

/-! Footprints (R133, R185). -/

def Vop.writeFoot (v : Vop) : Option (Int × Int) :=
  match v.dst with
  | .stream d => if v.vl = 0 then none else footprint d (dstNeed v.op v.vl v.bcast3 v.dst (v.oty 0))
  | _ => none
/-- Read streams of an instruction with the element counts used: sources, mask, and a stream index source.  A user routine may
read its streams to their ends. -/
def Vop.readStreams (v : Vop) : List (Nat × BitVec 256 × Nat) :=
  let used := fun (o : Nat) (d : BitVec 256) => if v.op = 0x6F ∧ o ≠ 4 then sdLen d else v.need o
  let srcs := v.opnds.filterMap (fun p => match p.2 with | .stream d => some (p.1, d, used p.1 d) | _ => none)
  match v.indexed with
  | some (_, d) => if ixCask d then srcs else srcs ++ [(5, v.ixd, v.vl)]
  | none => srcs
def Vop.readFoots (v : Vop) : List (Option (Int × Int)) :=
  if v.vl = 0 then [] else v.readStreams.map (fun p => footprint p.2.1 p.2.2)

/-- The exemption of R198: the read stream equals the destination, linear with STRIDE not 0. (DEDUCED, log entry 44.) -/
def sameStream (a b : BitVec 256) : Bool :=
  fld a 0 64 == fld b 0 64 && fld a 96 160 == fld b 96 160 && sdMode a == 0 && sdStride a != 0
/-- Operand o supplies one element to the result element of the same number. -/
def elementwise (v : Vop) (o : Nat) : Bool :=
  !(o == 4 || v.op == 0x6F || (v.op == 0x32 && o == 1) || (v.op == 0x34 && o == 1) || (0x60 ≤ v.op && v.op ≤ 0x63))
/-- The write footprint of the group overlaps a read footprint that `ex` does not exempt. -/
def Core.overlaps (c : Core) (g : Nat) (ex : Vop → Nat → BitVec 256 → BitVec 256 → Bool) : Bool :=
  match c.rootOf g with
  | none => false
  | some r => match r.dst with
    | .stream d => (c.members g).any (fun v => v.readStreams.any (fun p =>
        !(ex v p.1 p.2.1 d) && overlap r.writeFoot (if v.vl = 0 then none else footprint p.2.1 p.2.2)))
    | _ => false
/-- The group runs in ordered mode (R198). A microcoded operation never does (R266): each lower write reaches what it has read
already (`patchReads`). The exemption holds where element i alone reads and writes its address, as R198
says of it: for a stream that is read element by element. (DEDUCED, log entry 44.) -/
def Core.ordered (c : Core) (g : Nat) : Bool := (c.members g).all (fun v => !v.isMicro) && c.overlaps g (fun v o a b => elementwise v o && sameStream a b)
/-- Condition OVL (Table 10.6). -/
def Core.ovl (c : Core) (g : Nat) : Bool := c.overlaps g (fun _ _ a b => sameStream a b)

/-! Casks an instruction reads and writes (R196 (d)). -/

def caskSpan : Opnd → List Nat
  | .cask k n => (List.range n).map (· + k)
  | _ => []
def Vop.caskReads (v : Vop) : List Nat :=
  v.opnds.flatMap (fun p => caskSpan p.2) ++
    (match v.indexed with | some (_, d) => if ixCask d then caskSpan (.cask (ixReg d) (ixGrp d)) else [] | none => [])
def Vop.caskWrites (v : Vop) : List Nat := caskSpan v.dst
def meets (a b : List Nat) : Bool := a.any (fun x => b.contains x)
def Vop.linksNamed (v : Vop) : List Nat :=
  ((0, v.dst) :: v.opnds).filterMap (fun p => match p.2 with | .link l => some l | _ => none)

/-! Starting a group (R196). -/

/-- Groups in the queue, oldest first. -/
def Core.groups (c : Core) : List Nat := (c.viq.map (·.group)).eraseDups

def Core.running (c : Core) : List Vop := c.viq.filter (fun v => v.started && !v.released)
/-- Those whose last element has not passed through their pipe and ports (R196 (c)). -/
def Core.holding (c : Core) : List Vop := c.running.filter (fun v => v.isMicro || decide (v.nxt < v.vl))
def pipeCount (l : List Vop) (p : Pipe) : Nat := (l.filter (fun v => v.pipe == p)).length
def writeStreams (l : List Vop) : Nat := (l.filter (fun v => match v.dst with | .stream _ => true | _ => false)).length
def readStreamCount (l : List Vop) : Nat := (l.map (fun v => v.readStreams.length)).sum

/-- FA or FB is held by a group that started before group g. -/
def Core.fmaHeld (c : Core) (g : Nat) (fb : Bool) : Bool := c.holding.any (fun v => v.group < g && v.pipe == .fma && v.onFb == fb)
/-- The FMA pipes that a group needs are free (R195): a group of its own takes either, a first member of a larger group FA. -/
def Core.fmaFree (c : Core) (ms : List Vop) (g : Nat) : Bool :=
  let n := pipeCount ms .fma
  let held := c.fmaHeld g
  n == 0 || (if ms.length = 1 then !(held false) || !(held true) else !(held false) && (n == 1 || !(held true)))

/-- The operands of an instruction that read through a port: its sources, the index stream, the mask stream (R195, R279). -/
def Vop.portUsers (v : Vop) : List Nat :=
  let isS := fun (o : Nat) => match v.opnds.lookup o with | some (.stream _) => true | _ => false
  [1, 2, 3].filter isS ++ (match v.indexed with | some (_, d) => if ixCask d then [] else [5] | none => []) ++ [4].filter isS
/-- The read ports that no group before group g holds. -/
def Core.freePorts (c : Core) (g : Nat) : List Nat :=
  [0, 1, 2].filter (fun k => c.holding.all (fun v => g ≤ v.group || v.ports.all (fun p => p.2 != k)))
/-- Give the members of a group, which starts now or goes on after `vrestore`, their pipes and ports, the lowest free ports
first (R195, R279).  Where an older group has taken up again ports that it had left, too few are free: the group then takes S0 to
S2 in order and waits for them (R171). (DEDUCED, log entry 131.) -/
def Core.assign (c : Core) (g : Nat) : Core :=
  let ms := c.members g
  let users := ms.flatMap (fun v => v.portUsers.map (fun o => (v.seqn, o)))
  let free := c.freePorts g
  let got := users.zip (if users.length ≤ free.length then free else [0, 1, 2])
  let fmas := (ms.filter (fun v => v.pipe == .fma)).map (·.seqn)
  let second := fun (v : Vop) => if ms.length = 1 then c.fmaHeld g false else (fmas.drop 1).contains v.seqn
  ms.foldl (fun c v => c.setVop { v with
    ports := got.filterMap (fun p => if p.1.1 = v.seqn then some (p.1.2, p.2) else none),
    onFb := v.pipe == .fma && second v }) c

/-- (c): pipes and ports are free, links empty and held by no older unreleased group. -/
def Core.unitsFree (c : Core) (ms : List Vop) (g : Nat) : Bool :=
  let run := c.holding
  let micro := ms.any Vop.isMicro
  run.all (fun v => !v.isMicro) && (!micro || run.isEmpty)
    && c.fmaFree ms g && decide (pipeCount run .ix + pipeCount ms .ix ≤ 1)
    && decide (pipeCount run .px + pipeCount ms .px ≤ 1)
    && decide (readStreamCount run + readStreamCount ms ≤ 3) && decide (writeStreams run + writeStreams ms ≤ 1)
    && (ms.flatMap Vop.linksNamed).all (fun l => (c.link l).isEmpty
        && c.viq.all (fun v => v.released || v.group ≥ g || !(v.linksNamed.contains l)))

/-- (d) and (e) against one older incomplete group. -/
def noConflict (old ms : List Vop) : Bool :=
  let oldLive := old.filter (fun v => !v.released)
  let ow := oldLive.flatMap Vop.caskWrites
  let orr := oldLive.flatMap Vop.caskReads
  let nw := ms.flatMap Vop.caskWrites
  let nr := ms.flatMap Vop.caskReads
  !(meets ow nr) && !(meets ow nw) && !(meets orr nw)
    && ms.all (fun v => v.readFoots.all (fun r => old.all (fun o => !(overlap r o.writeFoot))))
    && ms.all (fun v => old.all (fun o => !(overlap v.writeFoot o.writeFoot) && o.readFoots.all (fun r => !(overlap v.writeFoot r))))

def storeFoot (x : StoreRec) : Option (Int × Int) := some (x.addr, x.addr + x.bytes.length - 1)

/-- A buffered store before the group overlaps its footprints (R134, R324). -/
def Core.storesHold (c : Core) (ms : List Vop) : Bool :=
  c.sb.any (fun x => ms.any (fun v => (x.early || decide (x.seqn < v.seqn))
    && (overlap (storeFoot x) v.writeFoot || v.readFoots.any (fun r => overlap (storeFoot x) r))))

/-- The start conditions (a) to (f) for group g. -/
def Core.canStart (c : Core) (g : Nat) : Bool :=
  let ms := c.members g
  !c.vf && (c.rootOf g).isSome && ms.all (fun v => !v.started)
    && c.viq.all (fun v => v.started || v.group ≥ g)
    && c.unitsFree ms g
    && c.groups.all (fun h => h ≥ g || noConflict (c.members h) ms)
    && !(c.storesHold ms)

/-- Groups all of whose elements are committed and whose writes are accepted leave the queue (R133, R170). -/
def Core.retire (c : Core) : Core :=
  { c with viq := c.viq.filter (fun v => !v.released || c.wq.any (fun w => (c.members v.group).any (fun u => u.seqn == w.seqn))) }
/-- The group has committed its last element; what no member has used of its links is dropped, and a routine's restart record with
it: the next operation starts from a record of zeros (R291). (DESIGN CHOICE, log entry 178.) -/
def Core.release (c : Core) (g : Nat) : Core :=
  let c := ((c.members g).flatMap Vop.linksNamed).foldl (fun c l => c.setLink l []) c
  let c := if (c.members g).any Vop.isMicro then { c with micro := none, restart := none } else c
  ((c.mapGroup g (fun v => { v with released := true, data := [], acc := [], held := [] })).statDone.digFlush).retire

/-- The stave of a stave-wide permute begins at a multiple of its lanes (R218). -/
def Vop.floorTo (v : Vop) (q : Nat) : Nat := if v.isWide then q / tyLanes v.ty * tyLanes v.ty else q
/-- The first element that the consumer of a member's link still needs: P, the first of its stave for a stave-wide permute, the
packed-side count for the packed source of `vexpand` (R199, R202, R220). (DEDUCED, log entry 47.) -/
def Core.needFrom (c : Core) : Nat → Vop → Nat
  | 0, v => v.p
  | f + 1, v => match v.dst with
    | .link l => match (c.members v.group).findSome? (fun u => (u.opnds.find? (fun p => p.2 == .link l)).map (fun p => (u, p.1))) with
      | some (u, o) => if u.op = 0x34 ∧ o = 1 then u.pack else u.floorTo (c.needFrom f u)
      | none => v.p
    | _ => v.p
/-- The element at which a member (re)starts. -/
def Core.startAt (c : Core) (v : Vop) : Nat := v.floorTo (c.needFrom 4 v)

/-- A closed group whose P is at or beyond its VL completes with no further elements (R188, R202). -/
def Core.finishEmpty (c : Core) (g : Nat) : Core :=
  if (c.rootOf g).isSome && (c.members g).all (fun v => v.started && decide (v.vl ≤ v.p)) then c.release g else c

/-- All members start. -/
def Core.start (c : Core) (g : Nat) : Core :=
  let c := c.assign g
  (c.mapGroup g (fun v => { v with started := true, nxt := c.startAt v })).finishEmpty g

/-! Items. -/

/-- Every flag that the element has raised, by member. -/
def ERes.allFlags (r : ERes) (v : Vop) : List (Nat × BitVec 9) := r.linkF ++ [(v.seqn, r.flags)]
def ERes.union (r : ERes) : BitVec 9 := r.linkF.foldl (fun a p => a ||| p.2) r.flags

inductive Item where
  | wait
  | fault (f : PFault)
  | done (r : ERes)
  deriving DecidableEq, Repr

def pFault (code detail : Nat) (info : W64) (rank : Nat := 5) : PFault := { code, detail, info, rank }
/-- Place of operand o in the order of R201. -/
def Vop.rankOf (v : Vop) (o : Nat) : Nat :=
  if o = 5 then 0 else if o = 4 then 1 else match v.ports.lookup o with | some k => 2 + k | none => 5

/-- A value on its way into an item. -/
inductive Got where
  | wait
  | fault (f : PFault)
  | val (x : W64) (f : List (Nat × BitVec 9)) (trap : Bool)
  deriving DecidableEq, Repr

def lowBits (v : W64) (w : Nat) : W64 := w64 (fld v 0 w)

/-- Element i of operand x of entry v, read as w-bit elements; k is the place in a link. -/
def fetchElem (c : Core) (v : Vop) (o : Nat) (x : Opnd) (w i k : Nat) : Got :=
  match x with
  | .none => .val 0 [] false
  | .greg _ => .val 0 [] false
  | .bcast b => .val (lowBits b w) [] false
  | .cask j _ => .val (caskElem c j w i) [] false
  | .link l => match (c.link l)[k]? with
    | none => .wait
    | some e => match e.fault with | some f => .fault f | none => .val e.val e.flags e.trap
  | .stream _ => match v.data.lookup (o, i) with
    | none => .wait
    | some (.value y) => .val y [] false
    | some (.oor y) => .val y [(v.seqn, flOor)] false
    | some (.fault f) => .fault f

def Vop.opnd (v : Vop) (o : Nat) : Opnd := match o with | 1 => v.s1 | 2 => v.s2 | 3 => v.s3 | 4 => v.mask | _ => .none
def Vop.fetch (c : Core) (v : Vop) (o i k : Nat) : Got := fetchElem c v o (v.opnd o) (tyBits (v.oty o)) i k

/-- Is element i enabled (R189)?  The root's mask serves every member. -/
def Core.enabled (c : Core) (v : Vop) (i : Nat) : Got :=
  match c.rootOf v.group with
  | none => .val 1 [] false
  | some r => match r.mask with
    | .none => .val 1 [] false
    | m => fetchElem c r 4 m 1 i 0

/-- The first fault in the order of R201. -/
def minFault (l : List PFault) : Option PFault :=
  l.foldl (fun o f => match o with | none => some f | some g => if f.rank < g.rank then some f else some g) none

/-- Join the values of several operands: all have arrived, and the fault that is first in the order of R201 stands. -/
def gotAll (l : List Got) : Got ⊕ (List W64 × List (Nat × BitVec 9) × Bool) :=
  if l.any (fun g => g == .wait) then .inl .wait
  else match minFault (l.filterMap (fun g => match g with | .fault f => some f | _ => none)) with
    | some f => .inl (.fault f)
    | none => .inr (l.map (fun g => match g with | .val x _ _ => x | _ => 0),
                    l.flatMap (fun g => match g with | .val _ f _ => f | _ => []),
                    l.any (fun g => match g with | .val _ _ t => t | _ => false))

/-- Values of sources 1 to n at element i, in operand order. -/
def Vop.sources (c : Core) (v : Vop) (n i k : Nat) : Got ⊕ (List W64 × List (Nat × BitVec 9) × Bool) :=
  gotAll ((List.range n).map (fun o => v.fetch c (o + 1) i k))

def nth (l : List W64) (k : Nat) : W64 := (l[k]?).getD 0

def traps (v : Vop) (f : BitVec 9) : Bool := fld v.fpc 16 5 &&& fld f 0 5 ≠ 0

/-- `vshuf` at element i (R218): the value of a lane of the source stave, and the flags and faults of element i itself, which a
link carries whether or not a lane takes its value.  A link holds nothing past VL. (DEDUCED, log entry 47.)  Of several faults in
one stave of a stream, that of the lowest destination lane counts as the lowest. (DESIGN CHOICE, log entry 179.) -/
def shufItem (c : Core) (v : Vop) (i : Nat) : Item :=
  let lanes := tyLanes v.ty
  let p := match v.s2 with | .cask k _ => fld (caskElem c k 8 (i % lanes)) 0 8 | _ => 0
  let src := i / lanes * lanes + p % lanes
  match v.s1 with
  | .link l => match v.fetch c 1 i (i - v.nxt) with
    | .wait => .wait
    | .fault f => .fault f
    | .val _ f t =>
      let x := if v.vl ≤ src then lowBits (Config.linkOpen src) (tyBits v.ty) else match (c.link l)[src - v.nxt]? with | some e => e.val | none => 0
      .done { writes := [{ ix := i, val := x }], linkF := f, trap := t }
  | _ => match v.fetch c 1 src 0 with
    | .wait => .wait
    | .fault f => .fault f
    | .val x f t => .done { writes := [{ ix := i, val := x }], linkF := f, trap := t }

/-- An element of a hardwired operation that works element by element (R211 to R216), `vperm` and `vshuf` (R217, R218).
(DEDUCED, log entry 46.) -/
def hardItem (c : Core) (v : Vop) (i : Nat) : Item :=
  let w := tyBits v.ty
  if v.isWide then shufItem c v i
  else if v.op = 0x31 then
    match v.fetch c 2 i (i - v.nxt), v.s1 with
    | .wait, _ => .wait
    | .fault f, _ => .fault f
    | .val x f t, .cask k n =>
      if x.toNat < groupCount n v.ty then .done { writes := [{ ix := i, val := caskElem c k w x.toNat }], linkF := f, trap := t }
      else .done { writes := [{ ix := i, val := 0 }], flags := flOor, linkF := f, trap := t }
    | .val _ f t, _ => .done { linkF := f, trap := t }
  else
    let n := match opInfo v.op with | some o => o.nsrc | none => 0
    match v.sources c n i (i - v.nxt) with
    | .inl .wait => .wait
    | .inl (.fault f) => .fault f
    | .inl _ => .wait
    | .inr (l, f, t) =>
      let (r, g) := pressElem v (nth l 0) (nth l 1) (nth l 2)
      .done { writes := [{ ix := i, val := r }], flags := g, linkF := f, trap := t || traps v g }

/-- The packed-side count with what the commit unit holds (R220). -/
def Vop.packNow (v : Vop) : Nat := v.pack + (v.held.map (·.2.pack)).sum
/-- `vcompress` at selector element i (R219). -/
def compressItem (c : Core) (v : Vop) (i : Nat) : Item :=
  match v.sources c 2 i (i - v.nxt) with
  | .inl .wait => .wait
  | .inl (.fault f) => .fault f
  | .inl _ => .wait
  | .inr (l, f, t) =>
    if !(bit (nth l 1) 0) then .done { linkF := f, trap := t }
    else if v.packNow < opndCount v.dst v.ty then .done { writes := [{ ix := v.packNow, val := nth l 0 }], linkF := f, trap := t, pack := 1 }
    else .done { flags := flCapx, linkF := f, trap := t }

/-- `vexpand` at selector element i (R220). -/
def expandItem (c : Core) (v : Vop) (i : Nat) : Item :=
  match v.fetch c 2 i (i - v.nxt) with
  | .wait => .wait
  | .fault f => .fault f
  | .val sel f t =>
    if !(bit sel 0) then .done { linkF := f, trap := t }
    else match v.fetch c 1 v.packNow 0 with
      | .wait => .wait
      | .fault g => .fault g
      | .val x g u => .done { writes := [{ ix := i, val := x }], linkF := f ++ g, trap := t || u, pack := 1 }

/-- A reduction takes element i; the last element gives the result (R221, R222). -/
def redFinish (v : Vop) (acc : List (Option W64)) (f : BitVec 9) : ERes :=
  let (r, g) := if v.op = 0x55 ∨ v.op = 0x5B then (accAt acc 0, 0) else treeReduce v (tyLanes v.ty) acc
  match r with
  | none => { acc := some acc }
  | some x => { writes := [{ ix := 0, val := x }], flags := f ||| g, trap := traps v (f ||| g), acc := some acc }
def redItem (c : Core) (v : Vop) (i : Nat) (en : Bool) : Item :=
  match (if en then v.fetch c 1 i (i - v.nxt) else .val 0 [] false) with
  | .wait => .wait
  | .fault f => .fault f
  | .val x _ _ =>
    let lanes := tyLanes v.ty
    let k := if v.op = 0x55 ∨ v.op = 0x5B then 0 else i / lanes % 8 * lanes + i % lanes
    let term := redTerm v x
    let (y, g) := if en then optComb v (accAt v.acc k) (some term.1) else (accAt v.acc k, 0)
    let acc := accSet v.acc k y
    let f := v.accF ||| (if en then term.2 else 0) ||| g
    if i + 1 = v.vl then .done (redFinish v acc f) else .done { acc := some acc, accF := f }

/-- `vscan` at element i (R223). -/
def scanItem (c : Core) (v : Vop) (i : Nat) : Item :=
  match v.fetch c 1 i (i - v.nxt) with
  | .wait => .wait
  | .fault f => .fault f
  | .val x _ _ =>
    let term := redTerm v x
    let (y, g) := optComb v (accAt v.acc 0) (some term.1)
    .done { writes := [{ ix := i, val := y.getD 0 }], flags := term.2 ||| g, trap := traps v (term.2 ||| g), acc := some [y] }

/-- `vgather` at element i (R224): the stream engine has resolved the index. -/
def gatherItem (c : Core) (v : Vop) (i : Nat) : Item :=
  match v.fetch c 1 i (i - v.nxt) with
  | .wait => .wait
  | .fault f => .fault f
  | .val x f _ => .done { writes := [{ ix := i, val := x }], linkF := f }

/-- The index of element i of the indexed stream (R182). -/
def indexOf (c : Core) (v : Vop) (d : BitVec 256) (i : Nat) : Got :=
  if ixCask d then .val (caskElem c (ixReg d) (tyBits (ixType d)) i) [] false
  else match v.data.lookup (5, i) with
    | none => .wait
    | some (.value y) => .val y [] false
    | some (.oor y) => .val y [] false
    | some (.fault f) => .fault f
def indexVal (v : Vop) (d : BitVec 256) (x : W64) : Int :=
  if ixCask d then tyVal (ixType d) x else tyVal (sdType v.ixd) x

/-- Where the element lies: address, bytes and bit, a suppressed element, a fault, or an index that has not arrived. -/
inductive Place where
  | wait
  | none
  | fault (f : PFault)
  | at (a : Int) (e : Nat) (bitp : Option Nat) (clamped : Bool)
  deriving DecidableEq, Repr

def placeOf (c : Core) (v : Vop) (o : Nat) (d : BitVec 256) (i : Nat) : Place :=
  if sdMode d = 3 then
    match indexOf c v d i with
    | .wait => .wait
    | .fault f => .fault f
    | .val x _ _ =>
      let k := indexVal v d x
      match sdIndexed d k with
      | .fault => .fault (pFault 0x20 (o * 16 + 2) (iw64 k) (v.rankOf o))
      | .suppressed => .none
      | .addr a cl => .at a (tyBytes (sdType d)) none cl
  else if sdMode d = 5 then
    let b := sdAddr d i
    .at (b / 8) 1 (some (b % 8).toNat) false
  else .at (sdAddr d i) (tyBytes (sdType d)) none false

/-- `vscatter` at element i (R225, R226): an index out of range is a fault of the write stream, after one of the read stream
(R201). -/
def scatterItem (c : Core) (v : Vop) (i : Nat) : Item :=
  match v.dst with
  | .stream d =>
    match indexOf c v d i with
    | .wait => .wait
    | .fault f => .fault f
    | .val x _ _ =>
      match sdIndexed d (indexVal v d x) with
      | .fault => match v.fetch c 1 i (i - v.nxt) with
        | .wait => .wait
        | .fault f => .fault f
        | .val _ _ _ => .fault (pFault 0x20 0x02 (iw64 (indexVal v d x)))
      | .suppressed => .done { flags := flOor }
      | .addr a cl => match v.fetch c 1 i (i - v.nxt) with
        | .wait => .wait
        | .fault f => .fault f
        | .val y f _ => .done { writes := [{ ix := i, addr := some a, val := y }], linkF := f, flags := if cl then flOor else 0 }
  | _ => .done {}

/-! FFT passes (R228, R229). -/

abbrev Cplx := W64 × W64

/-- One butterfly: the sum, and the difference times the twiddle. (DEDUCED, log entry 51.) -/
def butterfly (v : Vop) (x y w : Cplx) : Cplx × Cplx × BitVec 9 :=
  let t := v.ty
  let inv := bit v.bcast3 10
  if tyIsF t then
    let wi : W64 := if inv then setBit w.2 (tyBits t - 1) (!(bit w.2 (tyBits t - 1))) else w.2
    let (ur, f1) := fpAdd t v.rm x.1 y.1
    let (ui, f2) := fpAdd t v.rm x.2 y.2
    let (tr, f3) := fpSub t v.rm x.1 y.1
    let (ti, f4) := fpSub t v.rm x.2 y.2
    let (p1, f5) := fpMul t v.rm ti wi
    let neg := fvNeg (fpUnpack t p1)
    let (or_, f6) := fpFmaV t v.rm (fpUnpack t tr) (fpUnpack t w.1) neg
    let (p2, f7) := fpMul t v.rm ti w.1
    let (oi, f8) := fpFma t v.rm tr wi p2
    ((ur, ui), (or_, oi), f1 ||| f2 ||| f3 ||| f4 ||| f5 ||| f6 ||| f7 ||| f8)
  else
    let q := fun (z : W64) => tyVal t z
    let half := fun (z : Int) => fit t v.sat (rshift z 1 v.rnd)
    let wi : Int := if inv then -(q w.2) else q w.2
    let (ur, f1) := half (q x.1 + q y.1)
    let (ui, f2) := half (q x.2 + q y.2)
    let (tr, f3) := half (q x.1 - q y.1)
    let (ti, f4) := half (q x.2 - q y.2)
    let (or_, f5) := fit t v.sat (rshift (q tr * q w.1 - q ti * wi) 15 v.rnd)
    let (oi, f6) := fit t v.sat (rshift (q tr * wi + q ti * q w.1) 15 v.rnd)
    ((ur, ui), (or_, oi), f1 ||| f2 ||| f3 ||| f4 ||| f5 ||| f6)

/-- Twiddle index of the butterfly with upper point `top` in a pass. -/
def twiddleIx (n pass top : Nat) : Nat := (top % (n / 2 ^ (pass + 1))) * 2 ^ pass

/-- A radix-2 pass over the points listed, upper points first half (positions a < b at distance n / 2^(pass + 1)). -/
def passPair (v : Vop) (n pass : Nat) (tw : Nat → Cplx) (pts : List (Nat × Cplx)) (a b : Nat) : List (Nat × Cplx) × BitVec 9 :=
  let x := (pts.lookup a).getD (0, 0)
  let y := (pts.lookup b).getD (0, 0)
  let (u, o, f) := butterfly v x y (tw (twiddleIx n pass a))
  (pts.map (fun p => if p.1 = a then (a, u) else if p.1 = b then (b, o) else p), f)

/-- Positions that item e of a pass works on: two for radix 2, four for radix 4. -/
def fftPoints (op n pass e : Nat) : List Nat :=
  if op = 0x60 then
    let h := n / 2 ^ (pass + 1)
    let top := e / h * (2 * h) + e % h
    [top, top + h]
  else
    let g := n / 2 ^ (pass + 2)
    let top := e / g * (4 * g) + e % g
    [top, top + g, top + 2 * g, top + 3 * g]

/-- Its butterflies: pass, upper and lower point. -/
def fftPairs (pass : Nat) : List Nat → List (Nat × Nat × Nat)
  | [a, b] => [(pass, a, b)]
  | [p0, p1, p2, p3] => [(pass, p0, p2), (pass, p1, p3), (pass + 1, p0, p1), (pass + 1, p2, p3)]
  | _ => []
/-- The twiddles of the butterflies of item e. -/
def fftTwiddles (op n pass e : Nat) : List Nat := (fftPairs pass (fftPoints op n pass e)).map (fun p => twiddleIx n p.1 p.2.1)

def fftItem (c : Core) (v : Vop) (e : Nat) : Item :=
  let bp := v.bcast3
  let n := fftN bp
  let pass := fld bp 5 5
  let pos := fftPoints v.op n pass e
  let pairs := fftPairs pass pos
  let tws := fftTwiddles v.op n pass e
  let gets := pos.flatMap (fun j => [v.fetch c 1 (2 * j) 0, v.fetch c 1 (2 * j + 1) 0])
    ++ tws.flatMap (fun m => [v.fetch c 2 (2 * m) 0, v.fetch c 2 (2 * m + 1) 0])
  match gotAll gets with
  | .inl .wait => .wait
  | .inl (.fault f) => .fault f
  | .inl _ => .wait
  | .inr (_, _, _) =>
    let at_ := fun (o j : Nat) => match v.fetch c o j 0 with | .val x _ _ => x | _ => 0
    let pts := pos.map (fun j => (j, (at_ 1 (2 * j), at_ 1 (2 * j + 1))))
    let tw := fun m => (at_ 2 (2 * m), at_ 2 (2 * m + 1))
    let (out, f) := pairs.foldl (fun (acc : List (Nat × Cplx) × BitVec 9) p =>
      let (l, g) := passPair v n p.1 tw acc.1 p.2.1 p.2.2
      (l, acc.2 ||| g)) (pts, 0)
    .done { writes := out.flatMap (fun p => [{ ix := 2 * p.1, val := p.2.1 }, { ix := 2 * p.1 + 1, val := p.2.2 }]),
            flags := f, trap := traps v f }

/-- `vfir` at element i (R230). -/
def firItem (c : Core) (v : Vop) (i : Nat) : Item :=
  let m := v.taps
  let t := v.ty
  match gotAll ((List.range m).flatMap (fun k => [v.fetch c 1 (i + k) 0, v.fetch c 2 k 0])) with
  | .inl .wait => .wait
  | .inl (.fault f) => .fault f
  | .inl _ => .wait
  | .inr _ =>
    let at_ := fun (o j : Nat) => match v.fetch c o j 0 with | .val x _ _ => x | _ => 0
    if tyIsF t then
      let r0 := fpMul t v.rm (at_ 2 0) (at_ 1 i)
      let r := (List.range (m - 1)).foldl (fun (acc : FRes) k =>
        let (x, f) := fpFma t v.rm (at_ 2 (k + 1)) (at_ 1 (i + k + 1)) acc.1
        (x, acc.2 ||| f)) r0
      .done { writes := [{ ix := i, val := r.1 }], flags := r.2, trap := traps v r.2 }
    else
      let sum := (List.range m).foldl (fun (a : Int) k => a + tyVal t (at_ 2 k) * tyVal t (at_ 1 (i + k))) 0
      let (x, f) := fit t v.sat (rshift sum (tyFrac t) v.rnd)
      .done { writes := [{ ix := i, val := x }], flags := f, trap := traps v f }

/-- `vmv` at row r (R231). -/
def mvItem (c : Core) (v : Vop) (r : Nat) : Item :=
  let cols := fld v.bcast3 0 32
  let t := v.ty
  match gotAll ((List.range cols).flatMap (fun k => [v.fetch c 1 (r * cols + k) 0, v.fetch c 2 k 0])) with
  | .inl .wait => .wait
  | .inl (.fault f) => .fault f
  | .inl _ => .wait
  | .inr _ =>
    let at_ := fun (o j : Nat) => match v.fetch c o j 0 with | .val x _ _ => x | _ => 0
    if tyIsF t then
      let lanes := tyLanes t
      let (acc, f) := (List.range cols).foldl (fun (a : List (Option W64) × BitVec 9) k =>
        let j := k / lanes % 8 * lanes + k % lanes
        let (x, g) := match accAt a.1 j with
          | none => fpMul t v.rm (at_ 1 (r * cols + k)) (at_ 2 k)
          | some y => fpFma t v.rm (at_ 1 (r * cols + k)) (at_ 2 k) y
        (accSet a.1 j (some x), a.2 ||| g)) ([], 0)
      let (x, g) := treeReduce v lanes acc
      .done { writes := [{ ix := r, val := x.getD 0 }], flags := f ||| g, trap := traps v (f ||| g) }
    else
      let sum := (List.range cols).foldl (fun (a : Int) k => a + tyVal t (at_ 1 (r * cols + k)) * tyVal t (at_ 2 k)) 0
      let (x, f) := fit t v.sat (rshift sum (tyFrac t) v.rnd)
      .done { writes := [{ ix := r, val := x }], flags := f, trap := traps v f }

/-- The mask bit of element i, or the fault that stands there: at one element a fault of the index stream comes before one of
the mask stream (R201). -/
def Core.gate (c : Core) (v : Vop) (i : Nat) : Got :=
  match c.enabled v i, v.indexed with
  | .fault f, some (_, d) => (match indexOf c v d i with | .val _ _ _ => .fault f | g => g)
  | g, _ => g

/-- Item i of an instruction: nothing for a masked-off element (R190). -/
def itemOf (c : Core) (v : Vop) (i : Nat) : Item :=
  match c.gate v i with
  | .wait => .wait
  | .fault f => .fault f
  | .val e _ _ =>
    let en := bit e 0
    if 0x54 ≤ v.op ∧ v.op ≤ 0x5B then redItem c v i en
    else if !en then .done { acc := if v.op = 0x5C then some v.acc else none, accF := v.accF }
    else match v.op with
      | 0x33 => compressItem c v i
      | 0x34 => expandItem c v i
      | 0x50 => gatherItem c v i
      | 0x51 => scatterItem c v i
      | 0x5C => scanItem c v i
      | 0x60 => fftItem c v i
      | 0x61 => fftItem c v i
      | 0x62 => firItem c v i
      | 0x63 => mvItem c v i
      | _ => hardItem c v i

/-! Commit (R170, R197, R201, R250). -/

/-- A failed check of an element's address (R184): operand o, address a, e bytes, MPU permission perm at level lvl. Where its two
halves fail different checks, the check that comes first in R184 is the one reported. (DESIGN CHOICE, log entry 154.) -/
def elemFault (s : State) (c : Core) (lvl o : Nat) (a : Int) (e perm : Nat) : Option PFault :=
  let f := fun (reason : Nat) => some (pFault 0x20 (o * 16 + reason) (iw64 a))
  if a < 0 ∨ 2 ^ 48 < a + e then f 3
  else if noTarget s a.toNat ∨ noTarget s (a.toNat + e - 1) then f 4
  else if lvl = 0 ∧ !(mpuAllows c a.toNat perm && mpuAllows c (a.toNat + e - 1) perm) then f 5
  else none

/-- Byte address, byte count and bit position of element ix of a destination stream. -/
def dstPlace (d : BitVec 256) (w : EWrite) : Int × Nat × Option Nat :=
  match w.addr with
  | some a => (a, tyBytes (sdType d), none)
  | none =>
    let a := sdAddr d w.ix
    if sdMode d = 5 then (a / 8, 1, some (a % 8).toNat) else (a, tyBytes (sdType d), none)

/-- The first write of an item that its destination stream refuses. -/
def writeFault (s : State) (c : Core) (v : Vop) (r : ERes) : Option PFault :=
  match v.dst with
  | .stream d => r.writes.findSome? (fun w => let (a, e, _) := dstPlace d w; elemFault s c v.priv 0 a e mpuW)
  | _ => none

/-- A general register receives a result extended by its type (R222). -/
def scalarExt (v : Vop) (x : W64) : W64 :=
  if v.op = 0x55 ∨ v.op = 0x5B then x
  else if tySigned v.ty then iw64 (tyVal v.ty x) else lowBits x (tyBits v.ty)

/-- A write as the commit queue holds it: address, bytes, bit position. -/
abbrev Cover := Nat × List Byte × Option Nat
/-- The byte at a, as a write leaves it. -/
def coverByte (a : Nat) (x : Byte) (w : Cover) : Byte :=
  if w.1 ≤ a ∧ a < w.1 + w.2.1.length then
    let b := (w.2.1[a - w.1]?).getD 0
    match w.2.2 with
    | some k => setBit x k (bit b 0)
    | none => b
  else x
/-- An element with every byte that a write covers taken from the youngest such write. -/
def coverElem (cs : List Cover) (x : W64) : Place → W64
  | .at a e none _ => w64 (leNat (((leBytes x.toNat e).zipIdx).map (fun p => cs.foldl (coverByte (a.toNat + p.2)) p.1)))
  | .at a _ (some k) _ => w64 (bit (cs.foldl (coverByte a.toNat) (setBit 0 k (bit x 0))) k).toNat
  | _ => x
/-- The bytes that a write to a destination stream puts. -/
def writeBytes (d : BitVec 256) (w : EWrite) : List Byte :=
  let (_, e, b) := dstPlace d w
  match b with | some _ => [BitVec.ofNat 8 (bit w.val 0).toNat] | none => leBytes (lowBits w.val (8 * e)).toNat e
def writeCover (d : BitVec 256) (w : EWrite) : Cover := ((dstPlace d w).1.toNat, writeBytes d w, (dstPlace d w).2.2)

/-- The descriptor of operand o of an entry, where it is a stream that is read. -/
def readDesc (v : Vop) (o : Nat) : Option (BitVec 256) :=
  if o = 5 then (match v.indexed with | some (_, d) => if ixCask d then none else some v.ixd | none => none)
  else match v.opnd o with
    | .stream d => some d
    | _ => none

/-- What the ports hold of the operands `os`, after the writes `cs i` of elements lower than i: bytes that these cover are theirs,
and an element whose index or mask bit has changed is read again, so that every element is as ordered mode would leave it (R198,
R266).  The mask bit of an element gates its reads in a user routine as in an operation that goes element by element. -/
def patchReads (c : Core) (v : Vop) (os : Nat → Bool) (cs : Nat → List Cover) : Vop :=
  let data := v.data.map (fun e => match readDesc v e.1.1, e.2 with
    | some d, .value x => if os e.1.1 then (e.1, ElemIn.value (coverElem (cs e.1.2) x (placeOf c v e.1.1 d e.1.2))) else e
    | some d, .oor x => if os e.1.1 then (e.1, ElemIn.oor (coverElem (cs e.1.2) x (placeOf c v e.1.1 d e.1.2))) else e
    | _, _ => e)
  let moved := fun (i : Nat) => [4, 5].any (fun o => data.lookup (o, i) != v.data.lookup (o, i))
  let gated := fun (o i : Nat) => elementwise v o || (v.op == 0x6F && decide (i < v.vl))
  { v with data := data.filter (fun e => !(decide (e.1.1 < 4) && gated e.1.1 e.1.2 && moved e.1.2)) }

/-- Commit one write of an item (R95, R96, R183, R615). -/
def commitWrite (c : Core) (v : Vop) (w : EWrite) (st : Nat := 0) : Core :=
  match v.dst with
  | .cask k _ => caskPut c k (tyBits (v.oty 0)) w.ix w.val
  | .greg r => c.setG r (scalarExt v w.val)
  | .stream d =>
    let (a, e, b) := dstPlace d w
    let bs := writeBytes d w
    let c := { c with wq := c.wq ++ [⟨v.seqn, a.toNat, bs, b, v.priv, st, v.dig⟩] }
    if v.dig then c.record v.seqn (digTag a.toNat e b) (w64 (leNat bs)) else c
  | _ => c

/-- One item of the root commits: its writes, flags and progress; at the last item the group releases. What has been read for
higher items is read again in ordered mode, takes the writes in a factory routine, and x of `vmv` is read again for each row
(R198, R231, R266). -/
def commitItem (c : Core) (v : Vop) (i : Nat) (r : ERes) : Core :=
  let c := r.writes.foldl (fun c w => commitWrite c v w) c
  let c := c.addAllFlags (r.allFlags v)
  let again := c.ordered v.group
  let cs := match v.dst with | .stream d => r.writes.map (writeCover d) | _ => []
  let keeps := fun (u : Vop) => if again then [] else if u.isMicro then ((patchReads c u (fun _ => true) (fun _ => cs)).data.filter (fun e => !(u.op == 0x63 && e.1.1 == 2)))
    else u.data.filter (fun e => u.op == 0x34 || u.isWide || i < e.1.2)
  let c := c.mapGroup v.group (fun u => { u with p := i + 1, exempt := false, data := keeps u })
  let c := match c.viq.find? (fun u => u.seqn == v.seqn) with
    | some u => c.setVop { u with nxt := max u.nxt (i + 1), pack := u.pack + r.pack, acc := r.acc.getD u.acc, accF := r.accF, held := [] }
    | none => c
  if i + 1 = v.vl then c.release v.group else c

/-- The group stops at its first uncommitted element with a fault or trap (R199, R201, R250). -/
def faultGroup (c : Core) (v : Vop) (f : PFault) : Core := c.setVop { v with fault := some f }

/-- Elements that the commit unit of a group holds: one stave of the root's type in a group with a stave-wide permute (R199). -/
def Core.unit (c : Core) (v : Vop) : Nat :=
  if (c.members v.group).any Vop.isWide then tyLanes (v.oty 0) else 1

/-- What stops item i of the root: its fault, its write's fault, or a trap; a trap-exempt unit raises none (R250, R251). -/
def itemStop (s : State) (c : Core) (v : Vop) (i : Nat) : Item → Option PFault
  | .wait => none
  | .fault f => some f
  | .done r => (writeFault s c v r).orElse (fun _ =>
      if r.trap && !(v.exempt && decide (i < v.p + c.unit v)) then some (pFault 0x32 0 (w64 (fld r.union 0 5))) else none)

/-- Transactions of the writes that the targets have not accepted: one for each 64-byte block of an instruction's writes, and
a whole one for each element that is scattered (R171, R268).  A read is issued and returns in one command. -/
def Core.txns (c : Core) : Nat :=
  let scat := fun (q : Nat) => c.viq.any (fun v => v.seqn == q && v.op == 0x51)
  ((c.wq.zipIdx).flatMap (fun w => (unitsOf 64 w.1.addr w.1.bytes.length).map (fun b =>
    (w.1.seqn, if scat w.1.seqn then w.2 + 1 else 0, b)))).eraseDups.length
/-- More than the 640 transactions that the stream engine may have outstanding (R171).  What a routine releases beyond them stays
in its commit queue (R289). -/
def Core.overfull (c : Core) : Bool := decide (320 < c.wq.length) && decide (640 < c.txns)
/-- A commit that the stream engine has no transactions left for does not take place yet. -/
def Core.unlessFull (c c' : Core) : Core := if c'.overfull && decide (c.wq.length < c'.wq.length) then c else c'

/-- Commit item i of an operation whose unit is one item, or stop on its fault or trap. -/
def rootCommit (s : State) (c : Core) (v : Vop) (i : Nat) (r : ERes) : Core :=
  match itemStop s c v i (.done r) with
  | some f => faultGroup c v f
  | none => commitItem c v i r

/-- Every link that a member consumes holds at least k elements; `vexpand` takes from its packed source by need. -/
def linksHold (c : Core) (v : Vop) (k : Nat) : Bool :=
  v.opnds.all (fun p => match p.2 with | .link l => (v.op == 0x34 && p.1 == 1) || decide (k ≤ (c.link l).length) | _ => true)
/-- Take k elements from each link that a member consumes, and `packed` from the packed source of `vexpand` (R220). -/
def popLinks (c : Core) (v : Vop) (k packed : Nat) : Core :=
  v.opnds.foldl (fun c p => match p.2 with
    | .link l => c.setLink l ((c.link l).drop (if v.op = 0x34 ∧ p.1 = 1 then packed else k))
    | _ => c) c

/-- Elements that a member's pipe works on together. -/
def chunk (v : Vop) : Nat := if v.isWide then min (tyLanes v.ty) (v.vl - v.nxt) else 1

/-- A non-root member passes element i into its link (R191). (DESIGN CHOICE, log entry 136.) -/
def linkPush (c : Core) (v : Vop) (l i : Nat) (it : Item) : Core :=
  let open_ := lowBits (Config.linkOpen i) (tyBits (v.oty 0))
  let e : LinkElem := match it with
    | .done r => ⟨(r.writes.head?.map (·.val)).getD open_, r.allFlags v, r.trap, none⟩
    | .fault f => ⟨open_, [], false, some f⟩
    | .wait => ⟨open_, [], false, none⟩
  c.setLink l (c.link l ++ [e])

/-- The root takes results into its commit unit: it stops at the lowest element with a fault or trap, P at the start of the
unit, and commits the unit in ascending order once it is complete (R197, R199, R201). -/
def rootFill (s : State) (c : Core) (v : Vop) (its : List (Nat × Item)) : Core :=
  let all := v.held.map (fun h => (h.1, Item.done h.2)) ++ its
  match all.findSome? (fun p => itemStop s c v p.1 p.2) with
  | some f => faultGroup c v f
  | none =>
    let held := all.filterMap (fun p => match p.2 with | .done r => some (p.1, r) | _ => none)
    let packed := (its.map (fun p => match p.2 with | .done r => r.pack | _ => 0)).sum
    let nxt := v.nxt + its.length
    let c := (popLinks c v its.length packed).setVop { v with nxt, held }
    if nxt % c.unit v = 0 ∨ v.vl ≤ nxt then
      held.foldl (fun c h => match c.viq.find? (fun u => u.seqn == v.seqn) with
        | some u => commitItem c u h.1 h.2
        | none => c) c
    else c

/-- A member of an older group holds the pipe or the write port of v: one that had passed its last element through and goes on
from P again after a stop takes them back (R171, R196 (c)). (DEDUCED, log entry 131.) -/
def Core.pipeBusy (c : Core) (v : Vop) : Bool :=
  let w := fun (x : Vop) => match x.dst with | .stream _ => true | _ => false
  c.holding.any (fun u => decide (u.group < v.group) &&
    (u.isMicro || v.isMicro || (u.pipe == v.pipe && u.onFb == v.onFb) || (w u && w v)))
/-- A member of an older group holds the read port of operand o of v (R171). -/
def Core.portBusy (c : Core) (v : Vop) (o : Nat) : Bool :=
  match v.ports.lookup o with
  | some k => c.holding.any (fun u => decide (u.group < v.group) && u.ports.any (fun p => p.2 == k))
  | none => false

/-- A pipe delivers the next chunk of a member: into its link, or to the root's commit unit (R191, R197, R262). -/
def memberStep (s : State) (c : Core) (v : Vop) : Core :=
  if c.vf ∨ !v.started ∨ v.released ∨ v.fault.isSome ∨ v.isMicro ∨ v.vl ≤ v.nxt ∨ c.pipeBusy v ∨ c.storesHold (c.members v.group) then c
  else
    let n := chunk v
    let its := (List.range n).map (fun k => (v.nxt + k, itemOf c v (v.nxt + k)))
    if its.any (fun p => p.2 == .wait) || !linksHold c v n then c
    else match v.dst with
      | .link l =>
        if 4 * tyLanes (v.oty 0) < (c.link l).length + n then c
        else
          let q := c.needFrom 4 v
          let c := its.foldl (fun c p => if q ≤ p.1 then linkPush c v l p.1 p.2 else c) (popLinks c v n 0)
          c.setVop { v with nxt := v.nxt + n, data := v.data.filter (fun e => v.isWide || v.nxt + n ≤ e.1.2) }
      | _ => c.unlessFull (rootFill s c v its)

/-- Operations marked G in Table 7.4: one result, whose item is VL (R280). -/
def Vop.single (v : Vop) : Bool := decide (0x54 ≤ v.op) && decide (v.op ≤ 0x5B)
/-- A factory routine carries its next item to its commit (R291, R199).  A trap or write fault of the single result of an operation
marked G stops it at item VL (R280). (DESIGN CHOICE, log entry 57.) -/
def microStep (s : State) (c : Core) (v : Vop) : Core :=
  if c.vf ∨ !v.started ∨ v.released ∨ v.fault.isSome ∨ v.vl ≤ v.p ∨ c.pipeBusy v ∨ c.storesHold (c.members v.group) then c
  else match itemOf c v v.p with
    | .wait => c
    | .fault f => faultGroup c v f
    | .done r =>
      match (if v.single && !r.writes.isEmpty then itemStop s c v v.vl (.done r) else none) with
      | some f => faultGroup c { v with p := v.vl, exempt := false } f
      | none => c.unlessFull (rootCommit s c v v.p r)

/-- The elements that a port has read for the entry of write w and no word has consumed. -/
def Core.outElems (c : Core) (w : WWrite) : List (Nat × Nat) :=
  match c.viq.find? (fun v => v.seqn == w.seqn) with | some v => (v.data.map (·.1)).filter (fun e => e.1 < 4) | none => []
/-- The oldest write handed to port W is accepted by its target (R133).  A routine's write stays in its commit queue for the
reads issued before (R289). -/
def Core.wAccepted (c : Core) : Core :=
  let m := match c.wq, c.micro with
    | w :: _, some m => if (c.outElems w).isEmpty then some m else some { m with kept := m.kept ++ [(w, c.outElems w)] }
    | _, m => m
  ({ c with wq := c.wq.drop 1, micro := m }).retire

/-- Every group stops (R200): data above P is discarded, and links are empty (R202).  A microcoded operation keeps the cause of
its stop (Table 10.8), which a frozen press has already. -/
def Core.stopGroups (c : Core) : Core :=
  let why := fun (v : Vop) => match v.fault with | some f => if f.code = 0x32 then 3 else 2 | none => 1
  { c with links := [], viq := c.viq.map (fun v => if v.released then v else
      { v with nxt := c.startAt v, data := [], held := [], fault := none, cause := if v.started ∧ !c.vf then why v else v.cause }) }

/-- The oldest group that has found a fault or trap (R201). -/
def Core.pressFault (c : Core) : Option (Vop × PFault) :=
  c.viq.findSome? (fun v => v.fault.map (fun f => (v, f)))

/-- Does a scalar access to [a, a + n), at place q of program order, overlap an older incomplete vector instruction (R134)?  A load meets the write
footprints, a store the read and write footprints; a frozen press holds nothing back (R324). -/
def Core.footHold (c : Core) (q a n : Nat) (store : Bool) : Bool :=
  !c.vf && c.viq.any (fun v =>
    let x : Option (Int × Int) := some (a, a + n - 1)
    decide (v.seqn < q) && (overlap x v.writeFoot || (store && v.readFoots.any (fun r => overlap x r))))

end Sys2Proof.Machine
end

