-- ==== Sys2Proof/Machine/VecIssue.lean ====
section
/-! DEFINITION. Issue of a vector instruction (R170, R180): the checks of R207 and R209, the chain-group rules of R193,
VL and the operand checks of R186, R187, R210 and R228 to R232. -/
namespace Sys2Proof.Machine

/-- What issue finds: an illegal instruction (DETAIL 2), a stream fault at issue (operand code of DETAIL [7:4]), or an entry. -/
inductive VIssue where
  | illegal
  | sfault (operand : Nat)
  | ok (v : Vop)
  deriving DecidableEq, Repr

/-- Where issue takes the values it copies from: descriptor and broadcast registers by operand and register number
(the registers at issue; the saved copies at `vrestore`, R326). -/
structure VSource where
  sd : Nat → Nat → BitVec 256
  b  : Nat → Nat → W64
  /-- descriptor of a stream index source named by descriptor d -/
  ix : BitVec 256 → BitVec 256
  /-- version of the microcode image in force (R256) -/
  fver : Nat

def VSource.ofCore (c : Core) : VSource :=
  { sd := fun _ k => c.sdr k, b := fun _ k => c.br k, ix := fun d => c.sdr (ixReg d), fver := fld c.mcver 16 16 }

def opndOf (src : VSource) (o : Nat) : Spec → Opnd
  | .cask k n => .cask k n
  | .stream k => .stream (src.sd o k)
  | .link l => .link l
  | .bcast k => .bcast (src.b o k)
  | .greg r => .greg r
  | .absent => .none

/-- An aligned group (R173). -/
def caskOk : Spec → Bool
  | .cask k n => k % n == 0
  | _ => true
def isStream : Spec → Bool | .stream _ => true | _ => false
def isCask : Spec → Bool | .cask _ _ => true | _ => false
def isBcast : Spec → Bool | .bcast _ => true | _ => false
def isGreg : Spec → Bool | .greg _ => true | _ => false
def isLinkS : Spec → Bool | .link _ => true | _ => false

/-- Kinds that source field o of an operation accepts (R207, R217, R218, R222, R224, R228 to R232). -/
def srcKindOk (op o : Nat) (x : Spec) : Bool :=
  if x = .absent ∨ isGreg x then false
  else match op, o with
  | 0x31, 1 => isCask x
  | 0x32, 2 => (match x with | .cask _ n => n == 1 | _ => false)
  | 0x50, 1 => isStream x
  | 0x60, 3 | 0x61, 3 | 0x63, 3 | 0x6F, 3 => isBcast x
  | 0x62, 2 => isCask x || isStream x
  | _, _ => if 0x54 ≤ op ∧ op ≤ 0x5B then !isBcast x else true
def dstKindOk (op : Nat) (g : Bool) (x : Spec) : Bool :=
  match x with
  | .absent => false
  | .bcast _ => false
  | .greg _ => g
  | .stream _ => true
  | _ => op ≠ 0x51

/-- The checks of R207 and R209 on the syllables alone: the operand specifiers, DST first, where they hold. -/
def vecSpecs (syl0 syl1 : W32) : Option (List Spec) :=
  let op := vOp syl0
  match opInfo op with
  | none => none
  | some i =>
    let cvt := op = 0x30
    match specOf (vDst syl0), specOf (vS1 syl0), specOf (xS2 syl1), specOf (if cvt then 0x40 else xS3 syl1), specOf (xMask syl1) with
    | some d, some a, some b, some c, some m =>
      let srcs := [(1, a), (2, b), (3, c)]
      if i.tys (vTy syl0) && dstKindOk op i.gdst d
          && srcs.all (fun p => if p.1 ≤ i.nsrc then srcKindOk op p.1 p.2 else p.2 == .absent)
          && (m == .absent || isCask m || isStream m) && [d, a, b, c, m].all caskOk
          && xRnd syl1 != 3 && !(bit syl1 0)
          && (!cvt || (fld syl1 12 4 == 0 && !(cvtReserved (vTy syl0) (cvtSrc syl1))))
      then some [d, a, b, c, m] else none
    | _, _, _, _, _ => none

/-- The fields of the first syllable are acceptable by themselves; a reserved pair of `vcvt` types counts against it. -/
def vecFirstOk (syl0 syl1 : W32) : Bool :=
  let op := vOp syl0
  match opInfo op, specOf (vDst syl0), specOf (vS1 syl0) with
  | some i, some d, some a =>
    i.tys (vTy syl0) && dstKindOk op i.gdst d && srcKindOk op 1 a && caskOk d && caskOk a
      && !(op == 0x30 && decide (cvtSrc syl1 < 14) && cvtReserved (vTy syl0) (cvtSrc syl1))
  | _, _, _ => false

/-! Chain-group rules (R191, R193). -/

/-- Links the members of the open group have produced, with their producers, and links already consumed. -/
def producerOf (ms : List Vop) (l : Nat) : Option Vop := ms.find? (fun v => v.dst == .link l)
def consumed (ms : List Vop) (l : Nat) : Bool := ms.any (fun v => v.opnds.any (fun p => p.2 == .link l))

/-- The first operand of v that breaks a rule by itself: rules 1, 7, 8 and the width rule (R193, R191).  Where two sources of
one instruction name the same link, the first of them is the one named. (DESIGN CHOICE, log entry 133.) -/
def linkFault (ms : List Vop) (v : Vop) : Option Nat :=
  let dstBad := match v.dst with
    | .link l => v.isMicro || (producerOf ms l).isSome
    | _ => false
  let named := v.opnds.filterMap (fun p => match p.2 with | .link l => some l | _ => none)
  let srcBad := fun (o : Nat) => match v.opnd o with
    | .link l => v.isMicro || consumed ms l || decide (1 < named.count l) ||
        (match producerOf ms l with | none => true | some p => tyBits (p.oty 0) != tyBits (v.oty o))
    | _ => false
  if dstBad then some 0
  else match [1, 2, 3].find? srcBad with
    | some o => some o
    | none => if !v.isRoot && v.mask != .none then some 4 else none

/-- Rules 2 to 6, 7 for a count-changing member, and 9, which concern the group as a whole (R193). -/
def groupFault (isOpen : Bool) (ms : List Vop) (v : Vop) : Bool :=
  let all := ms ++ [v]
  let consumes := v.opnds.any (fun p => match p.2 with | .link _ => true | _ => false)
  (isOpen && !consumes && v.isRoot)
    || decide (2 < pipeCount all .fma) || decide (1 < pipeCount all .ix) || decide (1 < pipeCount all .px)
    || decide (3 < readStreamCount all)
    || ms.any (fun u => u.vl != v.vl)
    || (v.isChg && !v.isRoot) || (isOpen && v.isMicro)
    || (v.isRoot && ms.any (fun u => match u.dst with | .link l => !(consumed all l) | _ => false))

/-! VL (R186, R219, R222, R228, R229, R231). -/

def firstSome (l : List (Option Nat)) : Option Nat := l.findSome? id

/-- VL by Table 6.9, or by the operation's own rule.  `vcompress` of a chain link takes the VL of the link's producer.
(DESIGN CHOICE, log entry 180.) -/
def vlOf (ms : List Vop) (v : Vop) : Option Nat :=
  let srcs := [1, 2, 3].map (fun o => (o, v.opnd o))
  let row1 := match v.dst with | .stream d => some (sdLen d) | _ => none
  let row2 := firstSome (srcs.map (fun p => match p.2 with | .stream d => some (sdLen d) | _ => none))
  let row3 := firstSome (srcs.map (fun p => match p.2 with | .link l => (producerOf ms l).map (·.vl) | _ => none))
  let row4 := match v.dst with | .cask _ n => some (groupCount n (v.oty 0)) | _ => none
  let row5 := firstSome (srcs.map (fun p => match p.2 with | .cask _ n => some (groupCount n (v.oty p.1)) | _ => none))
  let own := match v.s1 with
    | .stream d => some (sdLen d)
    | .cask _ n => some (groupCount n v.ty)
    | .link l => (producerOf ms l).map (·.vl)
    | _ => none
  if v.op = 0x60 then some (fftN v.bcast3 / 2)
  else if v.op = 0x61 then some (fftN v.bcast3 / 4)
  else if v.op = 0x63 then some (fld v.bcast3 32 32)
  else if v.op = 0x33 ∨ (0x54 ≤ v.op ∧ v.op ≤ 0x5B) then own
  else firstSome [row1, row2, row3, row4, row5]

/-! Operand checks (R176, R182, R187, R210, R228 to R232). -/

/-- A source cask group that shares a cask with the destination must have its element width (R176). A mask group and an index
group count as source groups. (DESIGN CHOICE, log entry 155.) -/
def widthFault (v : Vop) : Option Nat :=
  let srcs := (v.opnds.map (fun p => (p.1, caskSpan p.2, tyBits (v.oty p.1)))) ++
    (match v.indexed with
     | some (_, d) => if ixCask d then [(5, caskSpan (.cask (ixReg d) (ixGrp d)), tyBits (ixType d))] else []
     | none => [])
  (srcs.find? (fun p => meets p.2.1 v.caskWrites && p.2.2 != tyBits (v.oty 0))).map (·.1)

/-- An indexed stream named by another operation (R182), whatever VL is. -/
def indexedFault (v : Vop) : Option Nat :=
  ((0, v.dst) :: v.opnds).findSome? (fun p => match p.2 with
    | .stream d =>
      let mine := match v.indexed with | some (o, _) => o == p.1 | none => false
      if sdMode d = 3 && !mine then some p.1 else none
    | _ => none)

/-- The fields of a descriptor read or written as type t (R187, R210). -/
def descOk (d : BitVec 256) (t : Nat) : Bool :=
  let ty := sdType d
  let m := sdMode d
  let aux := sdAux0 d
  ty == t && ty != 0xF && decide (m ≤ 5) && ((m == 5) == (ty == 0xD))
    && (m != 1 || decide (1 ≤ aux % 2 ^ 32)) && (m != 2 || (decide (1 ≤ aux % 32) && decide (aux % 32 ≤ 24)))
    && (m != 4 || decide (1 ≤ aux % 2 ^ 32))
    && (m != 3 || (aux / 2 ^ 32 % 4 != 3 && (if ixCask d then ixReg d % ixGrp d == 0 && decide (ixType d < 8) else decide (ixReg d < 16))))
/-- A stream index source (R182). -/
def indexOk (d : BitVec 256) (vl : Nat) : Bool :=
  let m := sdMode d
  decide (sdType d < 8) && (m == 0 || m == 1 || m == 2 || m == 4) && descOk d (sdType d) && decide (vl ≤ sdLen d)

/-- An operand check that fails when VL > 0: the lowest operand (R187, R210). -/
def opndFault (v : Vop) : Option Nat :=
  let bad := fun (o : Nat) => match o with
    | 0 => (match v.dst with
      | .stream d => !(descOk d (v.oty 0)) || (v.op == 0x51 && sdMode d != 3) || ((v.op == 0x60 || v.op == 0x61) && decide (sdLen d < 2 * fftN v.bcast3))
      | .cask _ n => decide (groupCount n (v.oty 0) < (if v.op = 0x60 ∨ v.op = 0x61 then 2 * fftN v.bcast3 else v.vl))
      | _ => false)
    | 5 => (match v.indexed with
      | some (_, d) => if ixCask d then decide (groupCount (ixGrp d) (ixType d) < v.vl) else !(indexOk v.ixd v.vl)
      | none => false)
    | o => (match v.opnd o with
      | .stream d => !(descOk d (v.oty o)) || (v.op == 0x50 && o == 1 && sdMode d != 3) || decide (sdLen d < v.need o)
      | .cask _ n => decide (groupCount n (v.oty o) < v.need o)
      | _ => false)
  [0, 1, 2, 3, 4, 5].find? bad

/-- Parameters of the FFT, FIR, matrix-vector and user routines (R228 to R232): but for the entry of a user routine they are
checked where VL is above 0.  LOGN above 24 is a stream fault of operand 3 like LOGN = 0. (DESIGN CHOICE, log entry 181.) -/
def paramFault (v : Vop) : Option Nat :=
  let bp := v.bcast3
  let logn := fld bp 0 5
  let pass := fld bp 5 5
  match v.op with
  | 0x60 => if v.vl = 0 then none else if 24 < logn ∨ logn ≤ pass then some 3 else none
  | 0x61 => if v.vl = 0 then none else if 24 < logn ∨ logn - 2 < pass then some 3 else none
  | 0x62 => if v.vl = 0 then none else if v.taps = 0 ∨ 65536 < v.taps ∨ 2 ^ 32 ≤ v.vl + v.taps - 1 then some 2 else none
  | 0x63 => if v.vl = 0 then none else if fld bp 0 32 = 0 ∨ 2 ^ 32 ≤ fld bp 32 32 * fld bp 0 32 then some 3 else none
  | 0x6F => if fld bp 0 14 < 0x3800 then some 3 else none
  | _ => none

/-- Issue of a vector operation on the core c, whose open group the new entry may join. (DEDUCED, log entry 45.) -/
def vecIssue (c : Core) (src : VSource) (syl0 syl1 : W32) (priv : Nat) (fpc : W32) (dig : Bool) : VIssue :=
  match vecSpecs syl0 syl1 with
  | some [d, a, b, x, m] =>
    let g := c.openGroup
    let ms := match g with | some k => c.members k | none => []
    let v0 : Vop := {
      seqn := c.seqn, group := g.getD c.seqn, syl0, syl1, priv, fpc, dig, vl := 0, ixd := 0, fver := src.fver,
      dst := opndOf src 0 d, s1 := opndOf src 1 a, s2 := opndOf src 2 b, s3 := opndOf src 3 x, mask := opndOf src 4 m }
    let v0 := { v0 with ixd := match v0.indexed with | some (_, e) => if ixCask e then 0 else src.ix e | none => 0 }
    match linkFault ms v0, widthFault v0, indexedFault v0, vlOf ms v0 with
    | some o, _, _, _ => .sfault o
    | _, some o, _, _ => .sfault o
    | _, _, some o, _ => .sfault o
    | _, _, _, none => .sfault 15
    | _, _, _, some vl =>
      let v := { v0 with vl := vl }
      if groupFault g.isSome ms v then .sfault 15
      else match paramFault v with
        | some o => .sfault o
        | none => match (if vl = 0 then none else opndFault v) with
          | some o => .sfault o
          | none => .ok v
  | _ => .illegal

/-- Entries that hold a place of the queue (R169). -/
def Core.viqUsed (c : Core) : Nat := (c.viq.filter (fun v => !v.released)).length

/-- A new entry joins the queue; a general register destination becomes pending with it (R233). -/
def Core.enqueue (c : Core) (v : Vop) : Core := { c with viq := c.viq ++ [v] }

end Sys2Proof.Machine
end

