-- ==== Sys2Proof/Machine/Micro.lean ====
section
/-! DEFINITION. The microsequencer (chapter 10): microwords, their pipes, counters and commit points.  A routine whose words are
known runs by them: every user routine, and the factory routine of Table 10.13.  The other factory words are image contents
that the spec does not give; `Sys2Proof.Machine.microStep` carries such a routine by the rules of chapter 07 instead. -/
namespace Sys2Proof.Machine

abbrev MWord := BitVec 160

/-- The empty fill of the user area (R297): COMMIT and END. -/
def emptyFill : MWord := BitVec.ofNat 160 (3 * 2 ^ 36)
/-- A word of the factory routine of Table 10.13: NEXT, ALT, COND, CYC and the bits that its row names. -/
def mword (next alt cond cyc : Nat) (bits : Nat) : MWord := BitVec.ofNat 160 (next + alt * 2 ^ 14 + cond * 2 ^ 28 + cyc * 2 ^ 34 + bits)
/-- The factory words that the spec gives (Table 10.13).  Word 0x0A40 names no NEXT: it is the word that follows.
(DEDUCED, log entry 137.) -/
def factoryKnown : List (Nat × MWord) :=
  [(0x010B, mword 0x0A40 0x0A42 6 1 (6 * 2 ^ 151)),
   (0x0A40, mword 0x0A41 0 0 3 (2 ^ 149 + 6 * 2 ^ 151 + 2 ^ 124)),
   (0x0A41, mword 0x0A41 0x0A42 6 0 (2 ^ 36 + 2 ^ 127 + 2 ^ 130 + 3 * 2 ^ 131 + 2 * 2 ^ 145 + 3 * 2 ^ 147 + 2 * 2 ^ 151)),
   (0x0A42, mword 0 0 0 1 (2 ^ 36 + 2 ^ 37))]
/-- The word at an address of the control store (Table 10.1).  (DESIGN CHOICE, log entry 137.) -/
def ctlWord (s : State) (a : Nat) : MWord :=
  if 0x3800 ≤ a then tget emptyFill s.ustore a
  else match factoryKnown.lookup a with
    | some w => w
    | none => Config.factoryWord s.mcImage a
/-- The 9 check bits that the word at an address carries (R273), in the code of R302. (DESIGN CHOICE, log entry 137.) -/
def ctlCheck (s : State) (a : Nat) : BitVec 9 := Config.checkBits (ctlWord s a)
/-- The patch map takes the sequencer from a mapped address to its patch word (R300). -/
def patched (s : State) (a : Nat) : Nat := if a < 0x3000 then (s.patches.lookup a).getD a else a
/-- The word that the sequencer fetches at an address. -/
def uWord (s : State) (a : Nat) : MWord := ctlWord s (patched s a)

/-- Entry address of a microcoded operation (R273, R296). -/
def Vop.entry (v : Vop) : Nat := if v.op = 0x6F then fld v.bcast3 0 14 else (v.op - 0x40) * 16 + v.ty
/-- The operation runs by microwords that are known. -/
def byWords (s : State) (v : Vop) : Bool :=
  v.op == 0x6F || (v.isMicro && (factoryKnown.lookup (patched s v.entry)).isSome)

def mwNext (w : MWord) : Nat := fld w 0 14
def mwAlt (w : MWord) : Nat := fld w 14 14
def mwCond (w : MWord) : Nat := fld w 28 6
def mwCyc (w : MWord) : Nat := fld w 34 2 + 1
def mwCommit (w : MWord) : Bool := bit w 36
def mwEnd (w : MWord) : Bool := bit w 37
def mwTrapchk (w : MWord) : Bool := bit w 38
def mwConst (w : MWord) : BitVec 32 := w.extractLsb' 39 32

def ecOf (m : Micro) (k : Nat) : Nat := ((m.ec[k]?).getD 0).toNat
def predOf (m : Micro) (k : Nat) : BitVec 64 := (m.preds[k]?).getD 0
def pflOf (m : Micro) (j : Nat) : BitVec 9 := (m.pfl[j % 64]?).getD 0
def tempOf (m : Micro) (k : Nat) : Unit512 := (m.temps[k]?).getD {}
def laneOf (u : Unit512) (j : Nat) : Option Nat × W64 := (u.lanes[j]?).getD (none, 0)

/-- A fresh routine (R291: a record of zeros), entered at `a`. -/
def microFresh (a : Nat) : Micro :=
  { upc := a, ec := [0, 0, 0, 0], preds := [0, 0, 0, 0], pfl := List.replicate 64 0, temps := List.replicate 16 {},
    ports := [none, none, none] }
/-- The lanes of a temporary without their tags, which the restart record does not hold (Table 10.8). -/
def untag (u : Unit512) : Unit512 := { lanes := u.lanes.map (fun l => (none, l.2)) }
/-- A stopped routine restarts at its entry word with RST true; where a trap has been reported, item P is exempt (R292, R327). -/
def microRestart (r : Micro) (a : Nat) (exempt : Bool) : Micro :=
  { microFresh a with ec := r.ec, preds := r.preds, pfl := r.pfl, temps := r.temps.map untag, rst := true, restP := r.restP,
                      exemptItem := if exempt then some r.restP else none }
/-- P and the resume address of the restart record: zeros for a fresh start (R291). -/
def Core.recP (c : Core) : Nat := match c.restart with | some r => r.restP | none => 0
def Core.recResume (c : Core) : Nat := match c.restart with | some r => r.resume | none => 0

/-- The wide type of T (R278). -/
def wideTy (t : Nat) : Nat := if tyIsF t then 0xC else if tySigned t then 6 else 7
/-- IX works on the raw bits of F lanes. -/
def rawTy (t : Nat) : Nat := if t = 0xA then 2 else if t = 0xB then 4 else if t = 0xC then 6 else t

/-- Lane j with this tag, for this item, is enabled (R285), where a mask bit that is not there counts as `dflt`. -/
def laneAt (c : Core) (v : Vop) (m : Micro) (w : MWord) (dflt : Bool) (j tag item : Nat) : Bool :=
  let masked := match c.enabled v tag with | .val x _ _ => bit x 0 | _ => dflt
  decide (tag < v.vl) && masked && (match m.fence with | some f => decide (item < f) | none => true)
    && (!m.rst || decide (m.restP ≤ item)) && (!(bit w 159) || bit (predOf m (fld w 157 2)) (j % 64))
/-- A lane whose item is its tag is enabled. -/
def laneOn (c : Core) (v : Vop) (m : Micro) (w : MWord) (j tag : Nat) : Bool := laneAt c v m w false j tag tag

def isStreamO : Opnd → Bool | .stream _ => true | _ => false
def isCaskO : Opnd → Bool | .cask _ _ => true | _ => false
def isGregO : Opnd → Bool | .greg _ => true | _ => false

/-- The operand a read port serves (R279): the streams among SRC1, SRC2, SRC3 in order. -/
def portOpnd (v : Vop) (k : Nat) : Option (Nat × BitVec 256) :=
  (([1, 2, 3].filterMap (fun o => match v.opnd o with | .stream d => some (o, d) | _ => none))[k]?)

def queueCovers (d : BitVec 256) (l : List QWrite) : List Cover :=
  (l.filter (fun q => q.dest == 0)).map (fun q => writeCover d { ix := q.tag, val := q.val })
/-- Writes of the commit queue that cover a read of element i of operand o, oldest first: accepted ones that the read came
before, released ones, queued ones (R289). -/
def covers (v : Vop) (m : Micro) (c : Core) (o i : Nat) : List Cover :=
  let old := (m.kept.filter (fun k => k.2.contains (o, i))).map (fun k => (k.1.addr, k.1.bytes, k.1.bitp))
  let rel := c.wq.map (fun w => (w.addr, w.bytes, w.bitp))
  let que := match v.dst with
    | .stream d => queueCovers d m.queue
    | _ => []
  old ++ rel ++ que
/-- An element with every byte that the commit queue covers taken from the youngest such write (R289). -/
def overlay (v : Vop) (m : Micro) (c : Core) (o : Nat) (d : BitVec 256) (i : Nat) (x : W64) : W64 :=
  let cs := covers v m c o i
  if cs.isEmpty then x else coverElem cs x (placeOf c v o d i)

/-- The elements of the unit that port k delivers next. -/
def portElems (v : Vop) (m : Micro) (k : Nat) : List (Nat × Nat) :=
  match portOpnd v k, (m.ports[k]?).join with
  | some (o, d), some p =>
    ((List.range (if sdMode d = 3 then 1 else tyLanes (sdType d))).map (fun j => (o, p + j))).filter (fun x => x.2 < sdLen d)
  | _, _ => []
/-- The unit that port k delivers: lanes, faults, and whether every element has arrived (R283). (DEDUCED, log entry 56.) -/
def portUnit (c : Core) (v : Vop) (m : Micro) (k : Nat) : Unit512 × Bool :=
  match portOpnd v k with
  | some (o, d) =>
    let got := (portElems v m k).map (fun x => (x.2, v.data.lookup x))
    let lanes := got.map (fun g => match g.2 with
      | some (.value x) => (some g.1, overlay v m c o d g.1 x)
      | some (.oor x) => (some g.1, overlay v m c o d g.1 x)
      | _ => (some g.1, (0 : W64)))
    let faults := (got.zipIdx).filterMap (fun g => match g.1.2 with | some (.fault f) => some (g.2, f) | _ => none)
    let oors := (got.zipIdx).filterMap (fun g => match g.1.2 with | some (.oor _) => some g.2 | _ => none)
    ({ lanes, faults, oors }, !(got.any (fun g => g.2.isNone)))
  | none => ({}, true)
/-- Elements leave the hands of the ports: consumed, or discarded by a port that starts anew (R283). -/
def dropElems (c : Core) (v : Vop) (m : Micro) (gone : Nat × Nat → Bool) : Core × Micro :=
  (match c.viq.find? (fun u => u.seqn == v.seqn) with
     | some u => c.setVop { u with data := u.data.filter (fun e => !(gone e.1)) }
     | none => c,
   { m with kept := (m.kept.map (fun k => (k.1, k.2.filter (fun e => !(gone e))))).filter (fun k => !k.2.isEmpty) })
def portStep (v : Vop) (m : Micro) (k : Nat) : Micro :=
  match portOpnd v k, (m.ports[k]?).join with
  | some (_, d), some p => { m with ports := m.ports.set k (some (p + (if sdMode d = 3 then 1 else tyLanes (sdType d)))) }
  | _, _ => m

/-- Where element i of a cask group lies in the cask file. -/
def caskBit (k w i : Nat) : Nat := 4096 * k + w * i
/-- The stave that CR reads (Table 10.3), bytes of queued writes taken from the youngest (R289). -/
def crUnit (c : Core) (v : Vop) (m : Micro) (w : MWord) : Unit512 :=
  let space := fld w 138 2
  let a := fld w 133 5
  let lanes := tyLanes v.ty
  let b := tyBits v.ty
  let dk := match v.dst with | .cask k _ => k | _ => 64
  let stave := fun (x : Opnd) =>
    let s := ecOf m (a / 8) / lanes + a % 8
    match x with
    | .cask k n =>
      if groupCount n v.ty ≤ s * lanes then ({} : Unit512)
      else { lanes := (List.range lanes).map (fun j =>
          let i := s * lanes + j
          (some i, m.queue.foldl (fun y q => if q.dest = 1 ∧ caskBit dk b q.tag = caskBit k b i then q.val else y) (caskElem c k b i))) }
    | _ => {}
  match space with
  | 1 => tempOf m (a % 16)
  | 2 => stave v.dst
  | 3 => (match v.s1 with | .cask _ _ => stave v.s1 | _ => stave v.s2)
  | _ => {}

/-- CONST as a lane of type t (Table 10.4). -/
def constLane (t : Nat) (k : BitVec 32) : W64 :=
  if t = 0xB then k.setWidth 64
  else if tyIsF t then (fpToFp t 0xB 0 (k.setWidth 64)).1
  else lowBits (k.signExtend 64) (tyBits t)

/-- A source selector as a unit of lanes of type t (Table 10.4). -/
def srcUnit (c : Core) (v : Vop) (m : Micro) (w : MWord) (ports : List Unit512) (t code : Nat) : Unit512 :=
  let splat := fun (x : W64) => ({ lanes := List.replicate (tyLanes t) (none, lowBits x (tyBits t)) } : Unit512)
  let out := fun (p : Nat) => match m.outs.find? (fun o => o.1 == m.cyc && o.2.1 == p) with | some o => o.2.2 | none => {}
  match code with
  | 1 => (ports[0]?).getD {}
  | 2 => (ports[1]?).getD {}
  | 3 => (ports[2]?).getD {}
  | 4 => crUnit c v m w
  | 5 => out 0
  | 6 => out 1
  | 7 => out 2
  | 8 => out 3
  | 9 => splat (constLane t (mwConst w))
  | 10 => splat (match v.s2 with | .bcast x => x | _ => 0)
  | 11 => splat v.bcast3
  | 12 => { lanes := (List.range (tyLanes t)).map (fun j => (none, lowBits (w64 (ecOf m 0 + j)) (tyBits t))) }
  | 13 => splat (if tyIsF t then fpOne t else 1)
  | _ => {}

/-- A lane that a pipe delivers: empty, or its tag, value and flags; none as tag where no source carries one. -/
abbrev PLane := Option (Option Nat × W64 × BitVec 9)
/-- Lane by lane result of a pipe operation; the tag is that of A, else B, else C (R280). -/
def pipeLanes (n : Nat) (a b c : Unit512) (f : Nat → W64 → W64 → W64 → FRes) : List PLane :=
  (List.range n).map (fun j =>
    let x := laneOf a j
    let y := laneOf b j
    let z := laneOf c j
    let (r, g) := f j x.2 y.2 z.2
    some ((x.1.orElse (fun _ => y.1)).orElse (fun _ => z.1), r, g))
/-- The lanes that an operation delivers: an untagged lane is tagged EC0 + j, and one that is disabled when the operation issues
is empty (R277, R280, R285). -/
def gateLanes (c : Core) (v : Vop) (w : MWord) (m : Micro) (ls : List PLane) : List ((Option Nat × W64) × BitVec 9) :=
  ls.zipIdx.map (fun p => match p.1 with
    | none => ((none, 0), 0)
    | some (t, x, g) =>
      let tag := t.getD (ecOf m 0 + p.2)
      if laneOn c v m w p.2 tag then ((some tag, x), g) else ((none, 0), 0))

/-- FA and FB (Table 10.5): codes 9–14 work at the wide type. -/
def faElem (v : Vop) (op t : Nat) (a b c : W64) : FRes :=
  let vop := match op with
    | 1 | 9 => 0x00
    | 2 | 10 => 0x01
    | 3 | 11 => 0x02
    | 4 | 12 => 0x04
    | 5 | 13 => 0x05
    | 6 => 0x06
    | 7 => 0x07
    | _ => 0x03
  if vop = 0x03 then (raw t (tyVal (rawTy t) a * tyVal (rawTy t) b / 2 ^ tyBits t), 0)
  else if tyIsF t then pressFp v.fver vop t v.rm a b c else pressInt vop t v.sat v.rnd a b c

/-- IX (Table 10.5). (DEDUCED, log entry 52.) -/
def ixElem (v : Vop) (m : Micro) (op : Nat) (j : Nat) (a b : W64) : FRes :=
  let t := rawTy v.ty
  let pi := fun (o : Nat) => pressInt o t v.sat v.rnd a b 0
  match op with
  | 1 => pi 0x00
  | 2 => pi 0x01
  | 3 => pi 0x0A
  | 4 => pi 0x06
  | 5 => pi 0x07
  | 6 => pi 0x15
  | 7 => pi 0x16
  | 8 => pi 0x17
  | 9 => pi 0x18
  | 10 => pi 0x19
  | 11 => pi 0x10
  | 12 => pi 0x11
  | 13 => pi 0x12
  | 14 => pi 0x13
  | 15 => pi 0x14
  | 16 => pi 0x1A
  | 17 => pi 0x1B
  | 18 => pi 0x20
  | 19 => pi 0x22
  | 20 => pi 0x23
  | 21 => (w64 (decide (fld a 0 (tyBits t) < fld b 0 (tyBits t))).toNat, 0)
  | 23 | 24 | 25 | 26 => (if bit (predOf m (op - 23)) (j % 64) then a else b, 0)
  | 27 => (raw t ((fld a (fpFrac v.ty) (fpExp v.ty) : Int) - fpBias v.ty), 0)
  | 28 => (match fpUnpack v.ty a with
    | .nan x => fpNanRes v.ty [.nan x]
    | .inf n => (fpInf v.ty n, 0)
    | .fin n x e => fpOfExact v.ty v.rm n x (e + tyVal t b))
  | _ => (a, 0)

/-- The element of T at a place of the table store: a lane of index i reads the i-th element from a base byte address (R274,
Table 10.5). (DESIGN CHOICE, log entry 137.) -/
def tableElem (s : State) (t base i : Nat) : W64 :=
  w64 (leNat ((List.range (tyBytes t)).map (fun k => Config.tableByte s.mcImage ((base + i * tyBytes t + k) % 8192))))

/-- PX (Table 10.5): the lanes of the output; the narrowing form keeps the other lanes of its last output.
(DEDUCED, log entry 55.) -/
def pxUnit (s : State) (v : Vop) (m : Micro) (w : MWord) (op : Nat) (a : Unit512) : List PLane :=
  let t := v.ty
  let n := tyLanes t
  let q := fld (mwConst w) 0 3
  let plain := fun (g : Nat → Option Nat × W64) => (List.range n).map (fun j => some ((g j).1, (g j).2, (0 : BitVec 9)))
  let tagJ := fun (j : Nat) => (laneOf a j).1
  match op with
  | 1 => (List.range 8).map (fun j =>
      let x := laneOf a (8 * q + j)
      if tyIsF t then let (r, f) := fpToFp 0xC t v.rm x.2; some (x.1, r, f) else some (x.1, iw64 (tyVal t x.2), 0))
  | 2 => (List.range n).map (fun j =>
      if j / 8 = q then
        let x := laneOf a (j % 8)
        if tyIsF t then let (r, f) := fpToFp t 0xC v.rm x.2; some (x.1, r, f)
        else let (r, f) := fit t v.sat (tyVal (wideTy t) x.2); some (x.1, r, f)
      else match laneOf m.cvtn j with
        | (some g, x) => some (some g, x, 0)
        | _ => none)
  | 3 => plain (fun j => (tagJ j, (laneOf a (n - 1 - j)).2))
  | 4 => plain (fun j => (tagJ j, (laneOf a (if j % 2 = 0 then j + 1 else j - 1)).2))
  | 5 => (List.range n).map (fun j => if j + fld (mwConst w) 0 6 < n then some (tagJ j, (laneOf a (j + fld (mwConst w) 0 6)).2, 0) else none)
  | 6 => plain (fun j => (tagJ j, (laneOf a 0).2))
  | 7 => plain (fun j => (tagJ j, tableElem s t (fld (mwConst w) 0 13) (laneOf a j).2.toNat))
  | _ => plain (fun j => laneOf a j)

/-- Latency of a pipe operation in routine cycles (Table 9.1). (DEDUCED, log entry 53.) -/
def pipeLat (t : Nat) (p : Nat) : Nat :=
  match p with
  | 2 => 2
  | 3 => 4
  | _ => if t = 0xC ∨ t = 6 ∨ t = 7 then 8 else 6

/-- Flags of enabled lanes enter PFL (R287). -/
def orPfl (m : Micro) (ls : List ((Option Nat × W64) × BitVec 9)) : Micro :=
  { m with pfl := (ls.zipIdx).foldl (fun p x =>
      if x.1.2 = 0 then p else p.set (x.2 % 64) ((p[x.2 % 64]?).getD 0 ||| x.1.2)) m.pfl }

/-- Issue one pipe operation of a word. -/
def pipeIssue (m : Micro) (p t : Nat) (ls : List ((Option Nat × W64) × BitVec 9)) : Micro :=
  let m := orPfl m ls
  { m with outs := (m.cyc + pipeLat t p, p, { lanes := ls.map (·.1) }) :: m.outs }

/-- A write of a unit: its enabled lanes (R285, R288), with what the stream engine raised for their elements.
(DEDUCED, log entry 137.) -/
def unitLanes (c : Core) (v : Vop) (m : Micro) (w : MWord) (u : Unit512) : List (Nat × Nat × W64 × BitVec 9) :=
  (u.lanes.zipIdx).filterMap (fun x => match x.1.1 with
    | some tag => if laneOn c v m w x.2 tag then some (x.2, tag, x.1.2, if u.oors.contains x.2 then flOor else 0) else none
    | none => none)

def lowerFence (m : Micro) (item : Nat) (f : Option PFault) (cause : Nat) : Micro :=
  match m.fence with
  | some x => if item < x then { m with fence := some item, fenceF := f, fenceAt := m.upc, cause } else m
  | none => { m with fence := some item, fenceF := f, fenceAt := m.upc, cause }

/-- One lane's write enters the commit queue; dest as in `QWrite`.  A lane whose flags trap sets the fence (R287, R290). -/
def queueLane (s : State) (c : Core) (v : Vop) (w : MWord) (dest : Nat) (m : Micro) (x : Nat × Nat × W64 × BitVec 9) : Micro :=
  let (j, tag, val, own) := x
  let item := if dest = 2 then v.vl else tag
  let fl := own ||| (if mwTrapchk w then (if dest = 2 then m.pfl.foldl (· ||| ·) 0 else pflOf m j) else 0)
  let m := if mwTrapchk w then { m with pfl := if dest = 2 then List.replicate 64 0 else m.pfl.set (j % 64) 0 } else m
  let bad := if dest = 0 then writeFault s c v { writes := [{ ix := tag, val }] } else none
  match bad with
  | some f => lowerFence m item (some f) 2
  | none =>
    if traps v fl ∧ m.exemptItem ≠ some item then lowerFence m item (some (pFault 0x32 0 (w64 (fld fl 0 5)))) 3
    else { m with queue := m.queue ++ [⟨item, dest, tag, val, fl, m.cyc⟩] }

/-- The unit that a write field of a word names, in the bits from `lo` on: WSRC or CW.SRC. -/
def writeUnit (c : Core) (v : Vop) (m : Micro) (w : MWord) (ports : List Unit512) (lo : Nat) : Unit512 :=
  let k := fld w lo 2
  srcUnit c v m w ports v.ty (if k = 3 then 1 else k + 5)

/-- The writes of a word: port W, then the cask, register or temporary write (Table 10.3). -/
def wordWrites (s : State) (c : Core) (v : Vop) (w : MWord) (ports : List Unit512) (m : Micro) : Micro :=
  let m1 := if bit w 130 && isStreamO v.dst then
      (unitLanes c v m w (writeUnit c v m w ports 131)).foldl (queueLane s c v w 0) m else m
  let u := writeUnit c v m w ports 147
  match fld w 145 2 with
  | 1 =>
    let k := fld w 140 4
    let old := tempOf m1 k
    let on := unitLanes c v m1 w u
    let n := if u.lanes.length = 8 then 8 else tyLanes v.ty
    let lanes := (List.range n).map (fun j => match on.find? (fun x => x.1 == j) with
      | some x => (some x.2.1, x.2.2.1)
      | none => laneOf old j)
    if on.isEmpty then m1 else { m1 with temps := m1.temps.set k { lanes } }
  | 2 => if isCaskO v.dst then (unitLanes c v m1 w u).foldl (queueLane s c v w 1) m1 else m1
  | 3 => if isGregO v.dst then
      (match laneOf u 0 with
        | (some tag, x) => if laneAt c v m w false 0 tag v.vl then queueLane s c v w 2 m1 (0, 0, x, 0) else m1
        | _ => m1) else m1
  | _ => m1

/-- ECOP (Table 10.7). -/
def ecStep (c : Core) (v : Vop) (w : MWord) (m : Micro) : Micro :=
  let k := fld w 149 2
  let x := (m.ec[k]?).getD 0
  let cst := mwConst w
  let par := match fld cst 0 4 with
    | 0 => w32 v.vl
    | 1 => w32 (opndCount v.s1 v.ty)
    | 2 => w32 (fld v.bcast3 0 32)
    | 3 => w32 (fld v.bcast3 32 32)
    | 4 => w32 (tyLanes v.ty)
    | _ => w32 (opndCount v.s2 v.ty)
  let y := match fld w 151 3 with
    | 1 => x + w32 (tyLanes v.ty)
    | 2 => x + 1
    | 3 => x + cst
    | 4 => cst
    | 5 => par
    | 6 => w32 c.recP
    | _ => x
  { m with ec := m.ec.set k y }

/-- COND (Table 10.6), on the counters after ECOP.  The lanes of a data condition are those tagged EC0 + j.
(DEDUCED, log entry 137.) -/
def condHolds (c : Core) (v : Vop) (m : Micro) (w : MWord) : Bool :=
  let k := mwCond w
  let ec := ecOf m
  let b := tyBits v.ty
  let lanes := (List.range (tyLanes v.ty)).filter (fun j => laneOn c v m w j (ecOf m 0 + j))
  if k = 1 then true
  else if 2 ≤ k ∧ k ≤ 5 then ec (k - 2) = 0
  else if 6 ≤ k ∧ k ≤ 9 then v.vl ≤ ec (k - 6)
  else if 0xA ≤ k ∧ k ≤ 0xC then ec (k - 9) ≤ ec 0
  else if 0x30 ≤ k ∧ k ≤ 0x33 then lanes.any (fun j => bit (predOf m (k - 0x30)) (j % 64))
  else if 0x34 ≤ k ∧ k ≤ 0x37 then lanes.all (fun j => bit (predOf m (k - 0x34)) (j % 64))
  else match k with
    | 0x0D => m.rst
    | 0x0E => m.rst
    | 0x0F => c.ovl v.group
    | 0x10 => b = 64
    | 0x11 => b = 16
    | 0x12 => b = 8
    | 0x13 => tyIsF v.ty
    | 0x14 => tySigned v.ty
    | 0x15 => v.sat
    | 0x16 => tyIsB v.ty
    | 0x17 => v.mask != .none
    | 0x18 => isCaskO v.dst
    | 0x19 => isGregO v.dst
    | 0x1A => isCaskO v.s1
    | 0x1B => (match v.s2 with | .bcast _ => true | _ => false)
    | 0x1C => (match v.indexed with | some (_, d) => ixCask d | none => false)
    | _ => false

/-- Insert by item, keeping the order of equal items. -/
def qInsert (q : QWrite) : List QWrite → List QWrite
  | [] => [q]
  | x :: l => if q.item < x.item then q :: x :: l else x :: qInsert q l

/-- A queued write leaves for its target with its flags (R291). -/
def releaseQ (c : Core) (v : Vop) (q : QWrite) : Core :=
  (commitWrite c v { ix := q.tag, val := q.val } q.stave).addFlags v q.flags

/-- Predicates and pipe outputs that are due by cycle t. -/
def settlePreds (m : Micro) (t : Nat) : Micro :=
  let due := m.pdefs.filter (fun d => d.1 ≤ t)
  let put := fun (p : BitVec 64) (l : List (Nat × Bool)) => l.foldl (fun p x => setBit p (x.1 % 64) x.2) p
  { m with preds := due.foldl (fun p d => p.set d.2.1 (put (p.getD d.2.1 0) d.2.2)) m.preds, pdefs := m.pdefs.filter (fun d => t < d.1),
           outs := m.outs.filter (fun o => t ≤ o.1) }

/-- A commit point (R291): release, discard, record, and stop or end; the record holds what is in force at the end of the
word's last cycle.  The mask bits that have come stay: a later word may still handle lanes of their elements (R285).
(DEDUCED, log entry 59.) -/
def commitPoint (c : Core) (v : Vop) (w : MWord) (m : Micro) (next : Nat) : Core :=
  let ec0 := ecOf m 0
  let lim := match m.fence with | some f => min ec0 f | none => ec0
  let out := (m.queue.foldl (fun l q => qInsert q l) []).filter (fun q => decide (q.item < lim))
  let c := out.foldl (fun c q => releaseQ c v q) c
  let p := min lim v.vl
  let stopping := m.fence.isSome || m.stop
  let rest := if stopping then [] else m.queue.filter (fun q => !(out.contains q))
  let rcd := { settlePreds m (m.cyc - 1) with
    queue := [], kept := [], outs := [], pdefs := [], ports := [none, none, none], restP := p,
    resume := if m.fence.isSome then m.fenceAt else next,
    cause := if m.fence.isSome then m.cause else if m.stop then 1 else 0, exemptItem := none }
  let still := fun (e : (Nat × Nat) × ElemIn) => decide (e.1.1 < 5) || decide (p ≤ e.1.2)
  let c := c.mapGroup v.group (fun u =>
    { u with p, exempt := u.exempt && u.p == p, data := u.data.filter still, cause := rcd.cause })
  if stopping then
    let c := { c with micro := none, restart := some rcd }
    let c := c.mapGroup v.group (fun u => { u with data := [], fault := m.fenceF })
    if v.vl ≤ p ∧ m.fenceF.isNone then { (c.release v.group) with restart := none } else c
  else if mwEnd w then { (c.release v.group) with micro := none, restart := none }
  else { c with micro := some { m with queue := rest, upc := next }, restart := some rcd }

/-- FLCLR: the pending flags of the enabled lanes are cleared (Table 10.5). -/
def clearPfl (ls : List ((Option Nat × W64) × BitVec 9)) (m : Micro) : Micro :=
  { m with pfl := (ls.zipIdx).foldl (fun p x => if x.1.1.1.isSome then p.set (x.2 % 64) 0 else p) m.pfl }

/-- A word has a compare on IX whose lanes PDEF writes (R286): the enabled lanes alone. -/
def pdefIssue (w : MWord) (m : Micro) (ls : List ((Option Nat × W64) × BitVec 9)) : Micro :=
  let bits := (ls.zipIdx).filterMap (fun x => if x.1.1.1.isSome then some (x.2, bit x.1.1.2 0) else none)
  { m with pdefs := m.pdefs ++ [(m.cyc + 2, fld w 154 2, bits)] }

/-- The pipe operations that a word issues: pipe, type and lanes (R278). -/
def pipeOps (s : State) (c : Core) (v : Vop) (w : MWord) (ports : List Unit512) (m : Micro) : List (Nat × Nat × List PLane) :=
  let src := fun (t lo : Nat) => srcUnit c v m w ports t (fld w lo 4)
  let fx := fun (p lo : Nat) =>
    let op := fld w lo 4
    let t := if 9 ≤ op then wideTy v.ty else v.ty
    if op = 0 ∨ op = 15 then []
    else [(p, t, pipeLanes (if 9 ≤ op then 8 else tyLanes v.ty) (src t (lo + 4)) (src t (lo + 8)) (src t (lo + 12)) (fun _ => faElem v op t))]
  let ix := fld w 103 5
  let px := fld w 116 4
  fx 0 71 ++ fx 1 87
    ++ (if ix = 0 ∨ 29 ≤ ix then [] else [(2, v.ty, pipeLanes (tyLanes v.ty) (src v.ty 108) (src v.ty 112) {} (fun j a b _ => ixElem v m ix j a b))])
    ++ (if px = 0 ∨ 10 ≤ px then [] else [(3, v.ty, pxUnit s v m w px (src v.ty 120))])
/-- The pipe operations of a word at work (R278, R281). -/
def wordPipes (s : State) (c : Core) (v : Vop) (w : MWord) (ports : List Unit512) (m0 : Micro) : Micro :=
  let ix := fld w 103 5
  let px := fld w 116 4
  (pipeOps s c v w ports m0).foldl (fun m o =>
    let ls := gateLanes c v w m0 o.2.2
    let m := if o.1 = 3 ∧ px = 8 then clearPfl ls m else m
    let m := pipeIssue m o.1 o.2.1 ls
    if o.1 = 2 ∧ bit w 156 ∧ 18 ≤ ix ∧ ix ≤ 21 then pdefIssue w m ls
    else if o.1 = 3 ∧ px = 2 then { m with cvtn := { lanes := ls.map (·.1) } }
    else m) m0

/-- The lanes that a word handles: lane, tag and item, of the units it consumes, of its pipe operations, of its writes, and of a
data condition on the counters after ECOP (R280, R281, R285). -/
def wordLanes (s : State) (c : Core) (v : Vop) (w : MWord) (us : List Unit512) (m : Micro) : List (Nat × Nat × Nat) :=
  let tagged := fun (u : Unit512) => (u.lanes.zipIdx).filterMap (fun x => x.1.1.map (fun t => (x.2, t, t)))
  let piped := (pipeOps s c v w us m).flatMap (fun o => (o.2.2.zipIdx).filterMap (fun x => x.1.map (fun l =>
    let t := l.1.getD (ecOf m 0 + x.2)
    (x.2, t, t))))
  let e := ecOf (ecStep c v w m) 0
  us.flatMap tagged ++ piped
    ++ (if bit w 130 && isStreamO v.dst then tagged (writeUnit c v m w us 131) else [])
    ++ (match fld w 145 2 with
      | 1 => tagged (writeUnit c v m w us 147)
      | 2 => if isCaskO v.dst then tagged (writeUnit c v m w us 147) else []
      | 3 => if isGregO v.dst then (match (laneOf (writeUnit c v m w us 147) 0).1 with | some t => [(0, t, v.vl)] | none => []) else []
      | _ => [])
    ++ (if fld w 31 3 = 6 then (List.range (tyLanes v.ty)).map (fun j => (j, e + j, e + j)) else [])
/-- A lane below VL whose item the routine still handles after a restart (R285). -/
def laneLive (v : Vop) (m : Micro) (x : Nat × Nat × Nat) : Bool := decide (x.2.1 < v.vl) && (!m.rst || decide (m.restP ≤ x.2.2))
/-- A mask bit that the word needs has not arrived, nor the index that comes before a mask bit's fault (R201). -/
def maskWaits (s : State) (c : Core) (v : Vop) (w : MWord) (us : List Unit512) (m : Micro) : Bool :=
  isStreamO v.mask && (wordLanes s c v w us m).any (fun x => laneLive v m x && c.gate v x.2.1 == .wait)
/-- Consumed units that carry faults for enabled lanes, and mask bits that faulted, lower the fence (R290). -/
def consumeFaults (s : State) (c : Core) (v : Vop) (w : MWord) (us : List Unit512) (m : Micro) : Micro :=
  let m := if isStreamO v.mask then (wordLanes s c v w us m).foldl (fun m x =>
      match c.gate v x.2.1 with
      | .fault f => if laneLive v m x then lowerFence m x.2.2 (some f) 2 else m
      | _ => m) m else m
  us.foldl (fun m u => u.faults.foldl (fun m f => match (laneOf u f.1).1 with
    | some tag => if laneOn c v m w f.1 tag then lowerFence m tag (some f.2) 2 else m
    | none => m) m) m

/-- The word hands something to the commit queue. -/
def wordQueues (v : Vop) (w : MWord) : Bool :=
  (bit w 130 && isStreamO v.dst) || (fld w 145 2 == 2 && isCaskO v.dst) || (fld w 145 2 == 3 && isGregO v.dst)
/-- Stave entries of the commit queue in use: queued, released and not accepted, and accepted ones still kept (R288, R289). -/
def Core.queueUsed (c : Core) (m : Micro) : Nat :=
  let queued : List (Nat × Nat) := m.queue.map (fun q => (q.stave, q.dest))
  let kept : List WWrite := m.kept.map (fun k => k.1)
  let sent : List (Nat × Nat) := (c.wq ++ kept).map (fun w => (w.stave, 0))
  (queued ++ sent).eraseDups.length
/-- Port W holds a unit: a released write has not been accepted. (DEDUCED, log entry 138.) -/
def wHolds (c : Core) (v : Vop) (w : MWord) : Bool := bit w 130 && isStreamO v.dst && !c.wq.isEmpty

/-- The lowest item that a word would handle (R290): of its enabled lanes, an unknown mask bit counting as 1; none where it handles
none. An item below EC0 has been handled, and what is committed stays so (R199, R282): a lane that such an item feeds stands for
EC0. (DEDUCED, log entry 58.) -/
def lowItem (s : State) (c : Core) (v : Vop) (w : MWord) (us : List Unit512) (m : Micro) : Option Nat :=
  let items := (wordLanes s c v w us m).filterMap (fun x =>
    if laneAt c v m w true x.1 x.2.1 x.2.2 then some (max (max (ecOf m 0) v.p) x.2.2) else none)
  items.foldl (fun o i => match o with | none => some i | some k => some (min k i)) none

/-- The index and mask elements that the stream engine holds take the writes of lower items that a word has queued (R198, R289); an
element whose index or mask bit has changed is read again. -/
def patchQueued (c : Core) (v : Vop) (m : Micro) (new : List QWrite) : Core × Micro :=
  match v.dst, c.viq.find? (fun u => u.seqn == v.seqn) with
  | .stream d, some u =>
    let u' := patchReads c u (fun o => 4 ≤ o) (fun i => queueCovers d (new.filter (fun q => decide (q.item < i))))
    let left := u'.data.map (·.1)
    dropElems (c.setVop u') u' m (fun e => e.1 < 4 && (u.data.map (·.1)).contains e && !(left.contains e))
  | _, _ => (c, m)

/-- One microword of a routine (R281): none where it stalls. -/
def userWord (s : State) (c : Core) (v : Vop) (m : Micro) : Option Core :=
  let m := settlePreds m m.cyc
  let w := uWord s m.upc
  let scn := fun (k : Nat) => bit w (127 + k)
  let got := (List.range 3).map (fun k => if scn k then portUnit c v m k else (({} : Unit512), true))
  let us := got.map (·.1)
  let stalls := got.any (fun g => !g.2) || maskWaits s c v w us m || (wordQueues v w && decide (256 ≤ c.queueUsed m)) || wHolds c v w
  if stalls ∧ !m.stop then none
  else
    let m := match (if stalls then lowItem s c v w us m else none) with
      | some i => lowerFence m i none 1
      | none => m
    let m := consumeFaults s c v w us m
    let before := m.queue.length
    let m := wordWrites s c v w us (wordPipes s c v w us m)
    let (c, m) := patchQueued c v m (m.queue.drop before)
    let gone := ((List.range 3).filter scn).flatMap (portElems v m)
    let m := (List.range 3).foldl (fun m k => if scn k then portStep v m k else m) m
    let m := ecStep c v w m
    let starts := (List.range 3).filter (fun k => bit w (124 + k))
    let m := starts.foldl (fun m k => { m with ports := m.ports.set k (some (ecOf m (k + 1))) }) m
    let anew := starts.filterMap (fun k => (portOpnd v k).map (·.1))
    let (c, m) := dropElems c v m (fun e => gone.contains e || anew.contains e.1)
    let next := if condHolds c v m w then (if mwCond w = 0x0E then c.recResume else mwAlt w) else mwNext w
    let m := { m with cyc := m.cyc + mwCyc w }
    if mwCommit w then some (commitPoint c v w m next)
    else some { c with micro := some { m with upc := next } }

/-- A routine under a stop request runs on to its next commit point without a stall (R290, R294). -/
def userStop (s : State) (v : Vop) : Nat → Core → Core
  | 0, c => { c with micro := none }
  | k + 1, c => match c.micro with
    | none => c
    | some m => match userWord s c v { m with stop := true } with
      | some c' => userStop s v k c'
      | none => { c with micro := none }

/-- The running microcoded instruction. -/
def Core.microVop (c : Core) : Option Vop := c.viq.find? (fun v => v.started && !v.released && v.isMicro)

/-- One step of the microsequencer: a word of a routine, or the next item of a factory routine whose words are not known. -/
def sequencerStep (s : State) (c : Core) : Core :=
  match c.microVop with
  | none => c
  | some v =>
    if c.vf ∨ v.fault.isSome ∨ c.pipeBusy v then c
    else if byWords s v then
      let m := match c.micro with
        | some m => m
        | none => match c.restart with
          | some r => microRestart r v.entry v.exempt
          | none => microFresh v.entry
      match userWord s c v m with
      | some c' => c'
      | none => { c with micro := some m }
    else microStep s c v

/-- A running routine goes to its commit point (R200, R290). -/
def Core.stopMicro (s : State) (c : Core) : Core :=
  match c.microVop, c.micro with
  | some v, some _ => userStop s v 64 c
  | _, _ => c

/-- The press stops for an exception or a halt (R200): a routine goes to its commit point, every group keeps its P. -/
def Core.stopPress (s : State) (c : Core) : Core := (c.stopMicro s).stopGroups

end Sys2Proof.Machine
end

