-- ==== Sys2Proof/Machine/Except.lean ====
section
/-! DEFINITION. Taking an exception, the Monitor's part in it, interrupts and the shield (chapter 11). -/
namespace Sys2Proof.Machine

/-- A rank ends (R427): its job keeps what its record needs, and the core is free; a halt request that has not taken effect
waits for the next job start (R603). -/
def rankEnd (s : State) (n : Nat) : State :=
  let c := s.core n
  match c.job with
  | none => s
  | some j =>
    if c.ended then s
    else
      let x := s.job j
      let e : RankEnd := { ended := true, crc := c.crc, crcN := c.crcN, taint := c.taint }
      let x := if c.partner then { x with pranks := tset {} x.pranks c.rank e } else { x with ranks := tset {} x.ranks c.rank e }
      trace ((s.setJob j x).setCore n { c with ended := true, freeAt := s.tick, jendBack := none, haltReq := false, haltPend := c.haltPend || c.haltReq }) 0 1 n x.seqNo

/-- Nothing has ended the job yet: what ends it first stands. -/
def Job.clear (x : Job) : Bool := x.err.isNone && x.abort.isNone && x.fail.isNone

/-- A core of an ended job stops (R309, R427, R607): groups stop and are dropped, outstanding loads and the divide are
dropped, stores already in the buffer and writes already handed to port W go on. -/
def coreStop (s : State) (n : Nat) : State :=
  let s := rankEnd s n
  let c := s.core n
  s.setCore n { c with wait := .none, stopDue := none, loads := [], late := [], div := none, micro := none, restart := none,
                       viq := [], saved := [], links := [], vsrd := [], fprd := [], rpt := 0, fetchErr := none, mcheck := none,
                       halted := false, haltReq := false, haltPend := false, ibpHit := 0, stepping := false,
                       haltCause := 0, ibpSkip := false }

/-- Cores whose stop is due stop, but for those whose TCLK still runs. -/
def stopsSettle (s : State) (all : Bool) : State :=
  foldS ((tkeys s.cores).filter (fun n => match (s.core n).stopDue with
    | some t => all || t != tclkNow s
    | none => false)) (fun n s => coreStop s n) s

/-- The Monitor ends the job that core n serves with status 0x10 (R309, R427): the first report stands, and of two in one TCLK
the lower rank's.  The other cores stop at their next bundle boundary. (DESIGN CHOICE, log entry 8.) -/
def monitorEnd (s : State) (n mcode : Nat) (ecause epc einfo : W64) : State :=
  let c := s.core n
  match c.job with
  | none => s
  | some j =>
    let x := s.job j
    let now := tclkNow s
    let takes := match x.err with | some e => e.at_ == now && decide (c.rank < e.rank) | none => x.clear
    let s := if takes then s.setJob j { x with err := some { einfo, epc, ecause, mcode, rank := c.rank, at_ := now } } else s
    foldS (x.cores ++ x.partners) (fun k s =>
      if (s.core k).job ≠ some j then s
      else if k = n then coreStop s k
      else if (s.core k).serving then s.setCore k { s.core k with stopDue := some now } else s) s

/-- SHIELD_COUNT: it decreases only while SH is 1 and the core is not halted (R318, R603). -/
def shieldCount (s : State) (c : Core) : Nat :=
  if bit c.status 4 && !c.halted then c.shieldEnd - s.cclk else c.shieldHeld
/-- STATUS takes a value: the count is held where SH falls, and goes on from what it held where SH rises (R318).
(DEDUCED, log entry 40.) -/
def Core.setStatus (c : Core) (now : Nat) (v : W64) : Core :=
  { c with status := v,
           shieldHeld := if bit c.status 4 && !bit v 4 && !c.halted then c.shieldEnd - now else c.shieldHeld,
           shieldEnd := if !bit c.status 4 && bit v 4 then now + c.shieldHeld else c.shieldEnd }
/-- The count of a core whose shield is up has reached 0, and the expiry has not been dropped. -/
def shieldOver (s : State) (c : Core) : Bool := bit c.status 4 && !c.halted && c.shieldEnd != 0 && decide (c.shieldEnd ≤ s.cclk)
/-- In the CCLK in which the count reaches 0 the hardware clears SH and sets SHD (R318). -/
def shieldSettle (s : State) (n : Nat) : State :=
  let c := s.core n
  if shieldOver s c then s.setCore n { c with status := setBit (setBit c.status 4 false) 8 true, shieldHeld := 0 } else s

/-- ECAUSE of a cause (Table 11.2). -/
def ecauseOf (code detail : Nat) (late shx : Bool) : W64 := w64 (code + detail * 256 + shx.toNat * 2 ^ 16 + late.toNat * 2 ^ 17)

/-- EDIVD of the divide abandoned at entry (R131, Table 4.8). -/
def edivdOf (d : DivRec) : W64 := w64 (d.dest + d.op * 32 + d.wide.toNat * 128 + 2 ^ 63)

/-- The registers that entry to the handler writes (R308).  ERPT holds the count of a repeated bundle whose own address EPC
names, and 0 for a fetch fault on a later word of it. (DEDUCED, log entry 127.)  A core that waits in `wfe` or for the end of
its `jend` bundle leaves that wait with EPC behind it; only the `jend` goes on after the return. (DEDUCED, log entry 172.) -/
def enterHandler (s : State) (n code detail : Nat) (info epc : W64) (late shx : Bool) : State :=
  let c := s.core n
  let rep := if epc = c.pc then c.rpt else 0
  let c := c.stopPress s
  let shield := bit c.evec 1 && fld c.shieldLimit 0 16 ≠ 0
  let st := setBit (setBit (setBit (setBit c.status 0 false) 1 false) 3 true) 8 false
  let st := if c.viqUsed ≠ 0 then setBit st 7 true else st
  let st := if shield then setBit st 4 true else setBit (setBit st 4 false) 2 false
  let c := { c with
    estatus := c.status, epc := epc, einfo := info, ecause := ecauseOf code detail late shx,
    erpt := (rep.setWidth 64), rpt := 0,
    ediva := match c.div with | some d => d.a | none => c.ediva,
    edivb := match c.div with | some d => d.b | none => c.edivb,
    edivd := match c.div with | some d => edivdOf d | none => setBit c.edivd 63 false,
    div := none, status := st,
    shieldEnd := if shield then s.cclk + fld c.shieldLimit 0 16 else c.shieldEnd,
    shieldHeld := if !shield && bit c.status 4 then c.shieldEnd - s.cclk else c.shieldHeld,
    pc := c.evec &&& 0x0000FFFFFFFFFFFC#64, wait := .none, fetchErr := none,
    jendBack := if c.wait = .jend then some (c.hstack.length, epc) else c.jendBack,
    notBefore := s.cclk + 2, ibpSkip := false, hstack := decide (0x80 ≤ code) :: c.hstack,
    vsrd := c.vsrd.map (fun x => { x with hand := false }), fprd := c.fprd.map (fun x => { x with hand := false }) }
  s.setCore n c

/-- A Monitor call (R309): JOB_FAULT ends the job; a code that the Monitor does not serve returns all ones in g1. -/
def monitorCall (s : State) (n : Nat) (call epc : W64) : State :=
  let c := s.core n
  if call = 0xFF00 then monitorEnd s n 0x41 c.ecause c.epc c.einfo
  else s.setCore n { (c.setG 1 (w64 m64)) with pc := epc }

/-- An exception is taken (R308), or routed to the Monitor (R309).  At M every exception goes to the Monitor, which ends the
job as it does for the codes that R309 names. (DESIGN CHOICE, log entry 134.) -/
def takeException (s : State) (n code detail : Nat) (info epc : W64) (late shx : Bool) : State :=
  let s := trace s 1 code n (epc.setWidth 32)
  let c := s.core n
  let cause := ecauseOf code detail late shx
  if code = 0x41 ∧ c.level ≠ 0 then monitorCall s n info epc
  else if c.level = 2 then monitorEnd s n code cause epc info
  else if code = 0x42 then monitorEnd s n 0x42 cause epc info
  else if code < 0x80 ∧ bit c.status 3 then monitorEnd s n 0x43 cause epc info
  else if !(bit c.evec 0) then monitorEnd s n 0x44 cause epc info
  else enterHandler s n code detail info epc late shx

/-! Boundaries (R311). -/

/-- The oldest late load fault that can be taken now: one of a load issued with EXC = 0 is held while EXC is 1 (R321). -/
def Core.lateNow (c : Core) : Option LateFault := c.late.find? (fun l => l.exc || !(bit c.status 3))

/-- Item 2 of R311: the older of the late load fault and the press fault. -/
def boundaryFault (s : State) (n : Nat) : Option State :=
  let c := s.core n
  let byLate := fun (l : LateFault) =>
    let s := s.setCore n { c with late := c.late.erase l }
    if l.exc then monitorEnd (trace s 1 l.code n (c.pc.setWidth 32)) n 0x43 (ecauseOf l.code 0 true false) c.pc (w64 l.addr)
    else takeException s n l.code 0 (w64 l.addr) c.pc true false
  let byPress := fun (v : Vop) (f : PFault) =>
    let c' := if f.code = 0x32 then c.mapGroup v.group (fun u => { u with exempt := true }) else c
    takeException (s.setCore n c') n f.code f.detail f.info c.pc true false
  match c.lateNow, c.pressFault with
  | some l, some (v, f) => some (if l.seqn < v.seqn then byLate l else byPress v f)
  | some l, none => some (byLate l)
  | none, some (v, f) => some (byPress v f)
  | none, none => none

/-- The takeable interrupt of a core (R316): lowest source first. -/
def takeable (s : State) (n : Nat) : Option Nat :=
  let c := s.core n
  if bit c.status 2 ∧ !(bit c.status 4) ∧ c.level ≠ 2 ∧ c.serving ∧ !c.halted then
    (List.range 24).find? (fun j => bit (regGet s .rowIpend n) j && bit (regGet s .rowIen n) j)
  else none

/-- Interrupt j is taken (R317); a fault or trap found while the press stops is taken in its place (R327).
(DEDUCED, log entry 41.) -/
def takeInterrupt (s : State) (n j : Nat) : State :=
  let c := s.core n
  let stopped := c.stopMicro s
  match stopped.pressFault with
  | some _ => (boundaryFault (s.setCore n stopped) n).getD s
  | none =>
    -- an event that has come with the interrupt is spent on the wake (R168)
    let s := if c.wait = .wfe ∧ c.latch then s.setCore n { c with latch := false } else s
    takeException (regClrBits s .rowIpend n (w64 (2 ^ j))) n (0x80 + j) 0 0 c.pc false (bit c.status 8)

/-- What a bundle boundary takes before the bundle (R311): a fault, then an interrupt. -/
def boundary (s : State) (n : Nat) : Option State :=
  match boundaryFault s n with
  | some t => some t
  | none => (takeable s n).map (takeInterrupt s n)

end Sys2Proof.Machine
end

