-- ==== Sys2Proof/Machine/Jobs.lean ====
section
/-! DEFINITION. Launch, dispatch and completion of descriptors (R421 to R438): jobs, MOVEs, HANDOVERs, WAITs. -/
namespace Sys2Proof.Machine

def jobId (r : Nat) (q : W32) : Nat := r * 2 ^ 32 + q.toNat
/-- A stamp axis as the Left Bank holds it. -/
def stampOf (s : State) (axis : Nat) : W64 := (busVal s 0 axis).value
def jobAxis (d : List Byte) : Nat := if jDlen d then jAxis d else 0
/-- The stamp axis of a descriptor of any type. -/
def descAxis (d : List Byte) : Nat := if dType d = 1 then jobAxis d else 0

/-! Completion (R433, R434). -/

/-- Bytes 0 to 19 of the normal form. -/
def normalBody (digest start end_ : W64) (late : Int) : List Byte :=
  leBytes digest.toNat 8 ++ leBytes (fld start 16 32) 4 ++ leBytes (fld end_ 16 32) 4 ++ leBytes (w32 (late % 2 ^ 32).toNat).toNat 4

/-- LATE (R434): whole counts, saturated to i32. -/
def lateness (d : List Byte) (start end_ : W64) : Int :=
  if !jDlen d then 0
  else
    let dl := if jDrel d then start + jDeadline d else jDeadline d
    let l := ((end_ - dl).sshiftRight 16).toInt
    max (-(2 ^ 31)) (min l (2 ^ 31 - 1))

def findStarted (s : State) (r : Nat) (q : W32) : Option Started :=
  (s.ring r).started.find? (fun e => e.seqNo == q && !e.stale)
def putStarted (s : State) (r : Nat) (e : Started) : State :=
  let x := s.ring r
  s.setRing r { x with started := x.started.map (fun y => if y.seqNo = e.seqNo ∧ y.stale = e.stale then e else y) }

/-- A core's reservation ends, and with it the time from which it may enter OFF (R558). -/
def unreserve (s : State) (n : Nat) : State :=
  if (s.core n).reserved.isSome then s.setCore n { s.core n with reserved := none, freeAt := s.tick } else s
/-- Cores that the job holds. -/
def heldBy (s : State) (j : Nat) : List Nat := (List.range 64).filter (fun n => (s.core n).reserved == some j)
/-- A stop or a reset makes the JOB or MOVE at the head give up what it has reserved (R423). -/
def giveUp (s : State) (r : Nat) : State :=
  let x := s.ring r
  let s := match x.engine with
    | some e => s.setEngine e {}
    | none => s
  let s := match x.fetched with
    | d :: _ => foldS (heldBy s (jobId r d.seqNo)) (fun n s => unreserve s n) s
    | [] => s
  s.setRing r { s.ring r with metAt := none, engine := none }

/-- A started descriptor completes: its record is made, and the ring stops where R423 says so. (DEDUCED, log entry 88.) -/
def complete (s : State) (r : Nat) (q : W32) (o : Outcome) : State :=
  match findStarted s r q with
  | none => s
  | some e =>
    if e.done.isSome then s
    else
      let (a, bs) := recordOf s r q e.mcver o
      let s := trace (putStarted s r { e with done := some (o, a, bs) }) 4 o.status r q
      if stopsRing o (dHalt e.bytes) then giveUp (ringStop s r q o) r else s

/-- A descriptor other than a JOB whose cores have started completes (R434): a JOB still has its deadline and its axis. -/
def completePlain (s : State) (r : Nat) (q : W32) (status detail : Nat) (addr : W64) : State :=
  match findStarted s r q with
  | none => s
  | some e =>
    let now := stampOf s (descAxis e.bytes)
    complete s r q { status, detail, body := normalBody addr e.start now (if dType e.bytes = 1 then lateness e.bytes e.start now else 0) }

/-! Starting (R420 to R423). -/

/-- The descriptor at the head leaves the queue and has started: CIDX moves past it. -/
def startHead (s : State) (r : Nat) : State :=
  let x := s.ring r
  match x.fetched with
  | [] => s
  | e :: rest =>
    let st : Started := { seqNo := e.seqNo, bytes := e.bytes, start := stampOf s (descAxis e.bytes), mcver := regGet32 s .glbMcVer 0, at_ := s.tick }
    let s := s.setRing r { x with fetched := rest, started := x.started ++ [st], metAt := none, engine := none, checked := false }
    trace (regPut s .rkRCidx r ((e.seqNo + 1).setWidth 64)) 4 0 r e.seqNo

/-- The launch condition of Table 16.11 takes a token. -/
def needsToken (x : Ring) (d : List Byte) : Bool := dLcond d == 2 || (dLcond d == 3 && !x.used)
def launchOk (x : Ring) (d : List Byte) : Bool := !needsToken x d || !x.tokens.isEmpty
def takeToken (s : State) (r : Nat) (d : List Byte) : State :=
  let x := s.ring r
  if needsToken x d then match x.tokens with
    | [] => s
    | t :: ts => regPut (s.setRing r { x with tokens := ts, used := true }) .rkRLstamp r t.stamp
  else s

/-! Cores (R424). -/

/-- No new job starts: a load, an update or a life-cycle transition pauses them (R298, R548), and in recovery no descriptor is dispatched (R542). -/
def jobsOff (s : State) : Bool := s.power.paused || s.sec.move.isSome || recovering s

def outOfService (s : State) (n : Nat) : Bool := bit (regGet s .glbRasRow (n / 8)) (4 + n % 8)
def coreFree (s : State) (n : Nat) : Bool :=
  let c := s.core n
  let w := s.row (n / 8)
  !c.serving && c.reserved.isNone && !(s.die (n / 32)).doze && !w.inReset && w.power != .off && w.goal != .off && !outOfService s n

/-- The partner core of a primary core (pair mode). -/
def partnerOf (d : List Byte) (n : Nat) : Nat := 8 * jProw d + n % 8
/-- The cores of a JOB without ANY, the partner row's among them. -/
def jobNeeds (d : List Byte) : List Nat := jSet d ++ (if jPair d then (jSet d).map (partnerOf d) else [])
/-- Too few cores of the set are in service (R524). -/
def jobUnservable (s : State) (d : List Byte) : Bool :=
  let ok := (jSet d).filter (fun n => !outOfService s n && (!jPair d || !outOfService s (partnerOf d n)))
  if jAny d then decide (ok.length < jNcore d) else decide (ok.length < (jSet d).length)

/-- The free cores of a list that a job would reserve next. -/
def jobClaims (s : State) (j : Nat) (d : List Byte) (free : List Nat) : List Nat :=
  if !jAny d then (jobNeeds d).filter (free.contains ·)
  else
    let held := heldBy s j
    let x := s.job j
    let gone := fun (n : Nat) => outOfService s n || (s.row (n / 8)).power == .off || (s.row (n / 8)).goal == .off
    let from_ := if (x.again || x.rerun.isSome) && !(x.cores ++ x.partners).any gone then x.cores else jSet d
    -- slots of which the job holds a core, and those that it takes next
    let begun := (jSet d).filter (fun n => held.contains n || (jPair d && held.contains (partnerOf d n)))
    let new := (from_.filter (fun n => free.contains n && !begun.contains n && (!jPair d || !outOfService s (partnerOf d n)))).take
      (jNcore d - begun.length)
    let slots := begun ++ new
    (slots ++ (if jPair d then slots.map (partnerOf d) else [])).filter (free.contains ·)

/-- Every core the job needs is reserved. -/
def jobHolds (s : State) (j : Nat) (d : List Byte) : Bool :=
  let held := heldBy s j
  if jAny d then
    decide (jNcore d ≤ ((jSet d).filter (fun n => held.contains n && (!jPair d || held.contains (partnerOf d n)))).length)
  else (jobNeeds d).all (held.contains ·)

/-- The waiting JOBs, by ring. -/
def ringWaiter (s : State) (ty : Nat) (t : Nat × Ring) : Option (Nat × Nat × W32 × List Byte) :=
  match t.2.metAt, t.2.fetched with
  | some k, e :: _ =>
    if t.2.state == .running && dType e.bytes == ty then some ((ringClass s t.1 * 2 ^ 192 + k) * 8192 + t.1, t.1, e.seqNo, e.bytes) else none
  | _, _ => none
def insertKey (a : Nat × Nat × W32 × List Byte) : List (Nat × Nat × W32 × List Byte) → List (Nat × Nat × W32 × List Byte)
  | [] => [a]
  | b :: r => if a.1 < b.1 then a :: b :: r else b :: insertKey a r
/-- Waiting descriptors of a type in the order of R424. -/
def waiters (s : State) (ty : Nat) : List (Nat × W32 × List Byte) :=
  ((s.rings.filterMap (ringWaiter s ty)).foldr insertKey []).map (·.2)

/-- A job has stopped and waits for its re-run. -/
def Job.awaits (x : Job) : Bool := x.rerun.isSome && !x.again
/-- Jobs to be re-run come before every waiting JOB from the decision on (R527), and so does a started JOB that lost a core it had
reserved. -/
def rerunWaiters (s : State) : List (Nat × W32 × List Byte) :=
  (s.jobs.filter (fun t => !t.2.running || (t.2.awaits && t.2.clear))).map (fun t => (t.2.ring, t.2.seqNo, t.2.bytes))

/-- Who gets each free core (R424). (DEDUCED, log entry 87.) -/
def assignCores (s : State) : List (Nat × W32 × List Byte) → List Nat → List (Nat × Nat)
  | [], _ => []
  | (r, q, d) :: rest, free =>
    let got := jobClaims s (jobId r q) d free
    got.map (fun n => (n, jobId r q)) ++ assignCores s rest (free.filter (fun n => !got.contains n))

def reserveCore (s : State) (n : Nat) : State :=
  if jobsOff s || !coreFree s n then s
  else
    let free := (List.range 64).filter (coreFree s)
    match (assignCores s (rerunWaiters s ++ waiters s 1) free).find? (fun p => p.1 == n) with
    | some (_, j) => s.setCore n { s.core n with reserved := some j }
    | none => s

/-- A free MOVE engine goes to the first waiting MOVE. -/
def reserveEngine (s : State) (e : Nat) : State :=
  if recovering s || (s.engine e).busy then s
  else match (waiters s 2).find? (fun w => (s.ring w.1).engine.isNone) with
    | some (r, q, _) =>
      let x := s.ring r
      (s.setRing r { x with engine := some e }).setEngine e { busy := true, claim := true, ring := r, seqNo := q }
    | none => s

/-! Object descriptors at their channel (R508, R519). -/

/-- The started descriptor of a type that has not completed: there is at most one of these types in a ring. -/
def activeOf (s : State) (r : Nat) (f : Nat → Bool) : Option Started :=
  (s.ring r).started.find? (fun e => !e.stale && e.done.isNone && f (dType e.bytes))
def objActive (s : State) (r : Nat) : Option Started := activeOf s r (fun t => decide (5 ≤ t) && decide (t ≤ 8))

/-- The words of a descriptor at their channel: OP 2 disables it at once, the words take effect now or at the next boundary.  The
blocks of a dozing die ignore them (R564). -/
def chanWords (s : State) (r : Nat) (e : Started) : State :=
  let d := e.bytes
  let n := oObj d
  let o : Owed := ⟨r, e.seqNo, d⟩
  if (s.die (objDie d)).doze then s else
  let s := if oOp d ≠ 2 then s else if dType d = 7 then egDisable s n else inDisable s n
  if objReady s d then owedPut s o
  else if dType d = 7 then s.setEgress n { s.egress n with owed := (s.egress n).owed ++ [o] }
  else
    let g : Ingest := tget {} s.ingests n
    { s with ingests := tset {} s.ingests n { g with owed := g.owed ++ [o] } }

/-- An EGRESS or INGEST descriptor reaches its channel as it starts; on the Right Bank over the bridge, where that is up (R384).
(DEDUCED, log entry 160.) -/
def objArrive (s : State) (r : Nat) : State :=
  match objActive s r with
  | none => s
  | some e =>
    if e.arrived || dType e.bytes < 7 || (bridgeDown s && objDie e.bytes == 1) then s
    else chanWords (putStarted s r { e with arrived := true }) r e

/-! DESCRIPTOR_START. -/

/-- The JOB at the head starts: its cores are reserved and its token is taken. -/
def startJob (s : State) (r : Nat) (e : Desc) : State :=
  let j := jobId r e.seqNo
  let s := startHead (takeToken s r e.bytes) r
  let held := heldBy s j
  let cores := held.filter ((jSet e.bytes).contains ·)
  s.setJob j { ring := r, seqNo := e.seqNo, bytes := e.bytes, cores
               partners := if jPair e.bytes then cores.map (partnerOf e.bytes) else []
               stamp := regGet s .rkRLstamp r, stamped := jPblk e.bytes == 0 }

/-- Conditions 1 to 3 hold for the JOB or MOVE at the head: it takes its place in the order of R424. -/
def headWaits (s : State) (r : Nat) : State :=
  let x := s.ring r
  if x.metAt.isSome then s else s.setRing r { x with metAt := some ((tclkNow s).1 * 2 ^ 96 + (tclkNow s).2) }

def startMove (s : State) (r : Nat) (e : Desc) : State :=
  match (s.ring r).engine with
  | none => headWaits s r
  | some k => (startHead (takeToken s r e.bytes) r).setEngine k { busy := true, ring := r, seqNo := e.seqNo }

/-- A well-formed descriptor whose conditions 1 to 3 hold. -/
def startGood (s : State) (r : Nat) (e : Desc) : State :=
  let d := e.bytes
  match dType d with
  | 1 =>
    if jobUnservable s d then completePlain (startHead (giveUp (takeToken s r d) r) r) r e.seqNo 0x40 5 0
    else if jobHolds s (jobId r e.seqNo) d then startJob s r e
    else headWaits s r
  | 2 => startMove s r e
  | 3 | 9 => completePlain (startHead (takeToken s r d) r) r e.seqNo 0 0 0
  | 4 =>
    let s := startHead (takeToken s r d) r
    if dByte d 2 = 0 then completePlain s r e.seqNo 0 0 0 else s
  | 10 => startHead (takeToken s r d) r
  | _ =>
    let s := startHead (takeToken s r d) r
    if oMask d = 0 ∧ oOp d = 0 then completePlain s r e.seqNo 0 0 0 else objArrive s r

def exempt2 (d : List Byte) : Bool := (dType d == 1 && dLcond d == 0) || dType d == 9

def descStart (s : State) (r : Nat) : State :=
  let x := s.ring r
  if recovering s || !ringLive x then s
  else match x.fetched with
  | [] => s
  | e :: _ =>
    let below := x.started.all (fun t => t.done.isSome || t.stale)
    match e.fail with
    -- a failed fetch completes in a stopped ring too (R420)
    | some (det, a) => if below then completePlain (startHead s r) r e.seqNo 0x21 det a else s
    | none =>
      if x.state != .running || !(below || exempt2 e.bytes) then s
      else match (if x.checked then none else descBad s r e.bytes) with
        | some k => completePlain (startHead (giveUp s r) r) r e.seqNo 0x20 k 0
        | none =>
          let s := s.setRing r { x with checked := true }
          if !(jobsOff s && dType e.bytes == 1) && launchOk x e.bytes then startGood s r e else s

/-! Job start (R425, Table 16.12). -/

def jobIdReg (rank nrank : Nat) : W64 := w64 (rank + (nrank - 1) * 256)

/-- The state of Table 16.12 for one core. (DESIGN CHOICE, log entry 38.) -/
def coreAtStart (s : State) (j : Nat) (x : Job) (n rank : Nat) (partner : Bool) : Core :=
  let d := x.bytes
  let old := s.core n
  { g := (List.range 4).foldl (fun t k => tset 0 t (k + 1) (jArg d k)) (tset 0 [] 5 (w64 (jPblk d)))
    pc := w64 (jEntry d), jobid := jobIdReg rank x.cores.length, job := some j, rank, partner
    mcver := regGet32 s .glbMcVer 0, notBefore := s.cclk, halted := old.haltPend, haltCause := if old.haltPend then 1 else 0, haltAt := w64 (jEntry d) }

def startCore (j : Nat) (x : Job) (partner : Bool) (s : State) (p : Nat × Nat) : State :=
  let (n, rank) := p
  let s := regPut (s.setCore n (coreAtStart s j x n rank partner)) .rowIpend n 0
  let s := if partner then s else s.setRow (n / 8) { s.row (n / 8) with rrt := [], wrt := [], clobber := false }
  let s := trace s 0 0 n x.seqNo
  if (s.core n).halted then trace s 2 0 n ((s.core n).pc.setWidth 32) else s

/-- Core n can start: awake in a row that stays in RUN (R559), and no write of its last job waits to be accepted (R427). -/
def coreReady (s : State) (n : Nat) : Bool :=
  let c := s.core n
  !c.off && c.sb.isEmpty && c.wq.isEmpty && !ownComing s n && (s.row (n / 8)).power == .run && (s.row (n / 8)).goal == .run
  && !(s.row (n / 8)).inReset && !(s.die (n / 32)).doze

/-- The cores of a launch: those reserved, in rank order (R424, R426); a re-run may have taken others (R527). -/
def launchCores (s : State) (j : Nat) (x : Job) : Job :=
  let cores := (heldBy s j).filter ((jSet x.bytes).contains ·)
  { x with cores, partners := if jPair x.bytes then cores.map (partnerOf x.bytes) else [] }

/-- The cores of the job start in the same TCLK (R425). -/
def jobLaunch (s : State) (r : Nat) (q : W32) (x : Job) : State :=
  let j := jobId r q
  let x' := { x with running := true, ranks := [], pranks := [] }
  let s := s.setJob j x'
  let s := (x.cores.zip (List.range 64)).foldl (startCore j x' false) s
  let s := (x.partners.zip (List.range 64)).foldl (startCore j x' true) s
  match findStarted s r q with
  | some e => putStarted s r { e with start := if x.again then e.start else stampOf s (jobAxis x.bytes)
                                      mcver := regGet32 s .glbMcVer 0 }
  | none => s

/-! Job completion (R427, R433). -/

def rankOf (t : Table RankEnd) (k : Nat) : RankEnd := tget {} t k
def ranksList (t : Table RankEnd) (n : Nat) : List RankEnd := (List.range n).map (rankOf t)
def digestOf (l : List RankEnd) : W64 := jobDigest (l.map (fun e => (e.crc, e.crcN)))

/-- Every write of the job made by core n is visible. -/
def coreDrained (s : State) (j n : Nat) : Bool :=
  let c := s.core n
  c.job != some j || (c.sb.isEmpty && c.wq.isEmpty && !ownComing s n)
def jobOver (s : State) (j : Nat) (x : Job) : Bool :=
  x.running && (ranksList x.ranks x.cores.length).all (·.ended) && (ranksList x.pranks x.partners.length).all (·.ended) &&
  (x.cores ++ x.partners).all (coreDrained s j)

def jobTaint (x : Job) : Bool :=
  (ranksList x.ranks x.cores.length).any (·.taint) || (ranksList x.pranks x.partners.length).any (·.taint)

def errBody (e : JobErr) : List Byte :=
  leBytes e.einfo.toNat 8 ++ leBytes (fld e.epc 0 48) 6 ++ leBytes (fld e.ecause 0 16) 2 ++ leBytes e.mcode 1 ++
    leBytes (e.rank + 64 * (bit e.ecause 16).toNat + 128 * (bit e.ecause 17).toNat) 1 ++ [0, 0]

/-- The primary row's CLOBBER bit (R528). -/
def clobbered (s : State) (x : Job) : Bool := x.cores.any (fun n => (s.row (n / 8)).clobber)

/-- What the record of a job says (R427, R433 to R435, R527, R528). -/
def jobOutcome (s : State) (x : Job) (start : W64) : Outcome :=
  let e := stampOf s (jobAxis x.bytes)
  let taint := jobTaint x
  let body := fun (dg : W64) => normalBody dg start e (lateness x.bytes start e)
  match x.err, x.abort, x.fail with
  | some k, _, _ => { status := 0x10, body := errBody k, taint }
  | none, some k, _ => { status := 0x11, detail := k, body := body 0, taint }
  | none, none, some k => { status := 0x40, detail := k, body := body 0, taint }
  | none, none, none =>
    let dg := digestOf (ranksList x.ranks x.cores.length)
    let shown := if jDigest x.bytes || jPair x.bytes then dg else 0   -- R94, R101
    if jPair x.bytes && dg != digestOf (ranksList x.pranks x.partners.length) then
      { status := 0x30, detail := (clobbered s x).toNat, body := body shown, taint }
    else match x.again, x.rerun with
      | true, some k => { status := 0x12, detail := k, body := body shown, taint }
      | _, _ => { status := 0, body := body shown, taint }

/-- The event log takes an entry for a mismatch, a re-run and a refused re-run (R532). -/
def jobReports (x : Job) (o : Outcome) : List Report :=
  let who := w64 (jobId x.ring x.seqNo)
  let how := w64 (o.status * 256 + o.detail)
  (if o.status = 0x30 then [({ src := 0x13, code := 1, sev := 2, info0 := who, info1 := digestOf (ranksList x.pranks x.partners.length) } : Report)] else []) ++
  (if x.again && x.running then [({ src := 0x11, code := 1, sev := 2, info0 := who, info1 := how } : Report)] else []) ++
  (match x.fail with
   | some k => if k < 7 && (x.running || x.again) then [({ src := 0x11, code := 2, sev := 2, info0 := who, info1 := how } : Report)] else []
   | none => [])

def jobFinish (s : State) (j : Nat) (x : Job) : State :=
  match findStarted s x.ring x.seqNo with
  | none => s.setJob j {}
  | some e =>
    let o := jobOutcome s x e.start
    let s := { s with reports := s.reports ++ jobReports x o }
    let s := foldS (heldBy s j) (fun n s => unreserve s n) s
    (complete s x.ring x.seqNo o).setJob j {}

def jobComplete (s : State) (r : Nat) (q : W32) : State :=
  let j := jobId r q
  let s := foldS ((s.job j).cores ++ (s.job j).partners) (fun n s =>
    if (s.core n).job = some j ∧ (s.core n).stopDue.isSome then coreStop s n else s) s
  let x := s.job j
  if jobOver s j x && !x.awaits then jobFinish s j x else s

/-- A job is ended from outside with status 0x11 or 0x40 (R427, R438, R439, R530, R531); a re-run that has been decided on and not
launched is not made.  A reset in the TCLK of a core error wins over what the error has decided (R539). -/
def jobEnd (abort : Bool) (detail : Nat) (s : State) (j : Nat) : State :=
  let x := s.job j
  if x.bytes.isEmpty then s
  else
    let wins := abort && x.err.isNone && x.abort.isNone && x.failAt == some (tclkNow s)
    let s := if !(x.clear || wins) then s
      else
        let y : Job := if x.awaits then { x with rerun := none } else x
        s.setJob j (if abort then { y with abort := some detail, fail := none } else { y with fail := some detail })
    let s := foldS (x.cores ++ x.partners) (fun n s => if (s.core n).job = some j ∧ (s.core n).serving then coreStop s n else s) s
    let s := foldS (heldBy s j) (fun n s => unreserve s n) s
    -- a job whose cores have not started ends at once
    if x.running then s else
      let x := s.job j
      match findStarted s x.ring x.seqNo with
      | none => s.setJob j {}
      | some e =>
        let now := stampOf s (jobAxis x.bytes)
        let o := jobOutcome s x (if x.again then e.start else now)
        (complete { s with reports := s.reports ++ jobReports x o } x.ring x.seqNo o).setJob j {}

/-- JOB_START (R425); a JOB whose cores are no longer in service completes at its start (R524). -/
def jobStart (s : State) (r : Nat) (q : W32) : State :=
  let j := jobId r q
  let x := launchCores s j (s.job j)
  if !(s.job j).bytes.isEmpty && !x.running && jobUnservable s x.bytes then jobEnd false 5 s j
  else if jobsOff s || x.bytes.isEmpty || x.running || !jobHolds s j x.bytes
     || !(x.cores ++ x.partners).all (fun n => coreReady s n && (s.core n).reserved == some j) then s
  else jobLaunch s r q x

/-! MOVE (R428). -/

def respCode : Resp → Nat
  | .ok => 0
  | .decErr => 1
  | .ownErr => 2
  | .datErr => 3

def moveAgent : Agent := { master := mRk0, level := 1 }
def chunkLen (d : List Byte) (pos : Nat) : Nat :=
  min (min (4096 - (mvSrc d + pos) % 4096) (4096 - (mvDst d + pos) % 4096)) (mvLen d - pos)

/-- The bytes of a chunk are written: to host memory as posted writes, or to device memory. -/
def moveOut (s : State) (e : Nat) (d : List Byte) (bs : List Byte) (chk : Check) : State :=
  let x := s.engine e
  let a := mvDst d + x.pos
  if mvDsth d then
    let s := s.setEngine e { x with pos := x.pos + bs.length, wait := false }
    (splitWrites s.link.mps (w64 a) (bs.length + 1) bs).foldl (fun s w => request s (.moveData e) w.1 w.2.length w.2) s
  else
    let (s, err) := writeSpan s moveAgent a bs chk
    match err with
    | some (b, r) => s.setEngine e { x with err := some (3 + 16 * respCode r, w64 b), wait := false }
    | none => s.setEngine e { x with pos := x.pos + bs.length, wait := false }

def moveReadReq (e : Nat) (q : OutReq) : Bool := q.kind == .moveRead e

/-- DESIGN CHOICE, log entry 86. -/
def moveChunk (s : State) (e : Nat) (source target : Check) : State :=
  let x := s.engine e
  match findStarted s x.ring x.seqNo with
  | none => s
  | some t =>
    let d := t.bytes
    let n := chunkLen d x.pos
    let far := (!mvSrch d && bridgeHolds s mRk0 (mvSrc d + x.pos) n) || (!mvDsth d && bridgeHolds s mRk0 (mvDst d + x.pos) n)
    -- a ring that is being reset begins no further chunk (R438)
    let ended := (s.ring x.ring).state == .resetting && (findOut s (moveReadReq e)).isNone
    if !x.busy || x.claim || x.err.isSome || mvLen d ≤ x.pos || far || ended then s
    else
      if mvSrch d then
        if (findOut s (moveReadReq e)).isNone then
          requestRead (s.setEngine e { x with wait := true }) (.moveRead e) (w64 (mvSrc d + x.pos)) n
        else match readResult s (moveReadReq e) with
          | none => s
          | some (.ok bs) => moveOut (dropRead s (moveReadReq e)) e d ((bs ++ zeroBytes n).take n) target
          | some (.error (code, a)) =>
            (dropRead s (moveReadReq e)).setEngine e { x with err := some (2 + 16 * code, a), wait := false }
      else
        let (s, err, bs) := readSpan s moveAgent (mvSrc d + x.pos) n source
        match err with
        | some (b, r) => s.setEngine e { x with err := some (2 + 16 * respCode r, w64 b) }
        | none => moveOut s e d bs target

/-- Every device write has been accepted and every host write issued, or an error has ended the MOVE. -/
def moveComplete (s : State) (e : Nat) : State :=
  let x := s.engine e
  match findStarted s x.ring x.seqNo with
  | none => s
  | some t =>
    if !x.busy || x.claim || (findOut s (fun q => q.kind == .moveData e)).isSome then s
    else match x.err with
      | some (det, a) => completePlain (s.setEngine e {}) x.ring x.seqNo 0x21 det a
      | none => if mvLen t.bytes ≤ x.pos then completePlain (s.setEngine e {}) x.ring x.seqNo 0 0 0 else s

/-! HANDOVER, object descriptors, WAIT (R429 to R432). -/

def handoverStep (s : State) (r : Nat) : State :=
  match activeOf s r (· == 4) with
  | none => s
  | some e =>
    let w := dWord e.bytes (8 + 2 * e.prog) 2
    let b := w % 64
    if e.busy then
      if (s.bay b).coming ≠ [] then s
      else
        let s := putStarted s r { e with prog := e.prog + 1, busy := false }
        if dByte e.bytes 2 ≤ e.prog + 1 then completePlain s r e.seqNo 0 0 0 else s
    else if (s.ring r).state == .resetting then s
    else
      let res := ownResult (s.bay b).owner (overtaken s b) (w / 64 % 16) (w / 1024 % 16) .handover
      let s := ownWrite s b (w / 64 % 16) (w / 1024 % 16) .handover
      if res = 0 then putStarted s r { e with busy := true }
      else completePlain s r e.seqNo 0x20 (0x80 + res * 32 + e.prog) 0

/-- The object has had time to report its words: those of an ingest channel take 64 TCLK on the Left Bank and 160 on the Right Bank at
least (R519), and the Right Bank is reached over the bridge (R384). -/
def objDue (s : State) (e : Started) : Bool :=
  (dType e.bytes != 8 || decide (e.at_ + (if objDie e.bytes = 0 then 32 else 80) ≤ s.tick)) &&
  !(bridgeDown s && objDie e.bytes == 1)

/-- The words of the descriptor still wait for their channel. -/
def objOwed (s : State) (r : Nat) (e : Started) : Bool :=
  let n := oObj e.bytes
  (if dType e.bytes = 7 then (s.egress n).owed else (tget {} s.ingests n : Ingest).owed).any (fun o => o.ring == r && o.seqNo == e.seqNo)

/-- OBJECT_DESCRIPTOR: an alarm or a timer takes its words and reports them; a channel reports those that it has taken, or that
they would leave it invalid. -/
def objectStep (s : State) (r : Nat) : State :=
  let s := objArrive s r
  match objActive s r with
  | none => s
  | some e =>
    if !objDue s e then s
    else if dType e.bytes < 7 then completePlain (objApply s e.bytes) r e.seqNo 0 0 0
    else if e.refused then completePlain s r e.seqNo 0x20 8 0
    else if e.arrived && !objOwed s r e then completePlain s r e.seqNo 0 0 0 else s

def waitStep (s : State) (r : Nat) : State :=
  match activeOf s r (· == 10) with
  | none => s
  | some e =>
    let w := dWord e.bytes 2 2 % 8192
    if !ringLive (s.ring w) || regGet32 s .rkREpoch w != w32 (dWord e.bytes 8 4) then completePlain s r e.seqNo 0x20 0x0A 0
    else if 0 ≤ (regGet32 s .rkRDone w - w32 (dWord e.bytes 4 4)).toInt then completePlain s r e.seqNo 0 0 0
    else s

/-- An alarm's ring token arrives, after those for the same ring that come before it (R422, R449, R451). -/
def launchToken (s : State) (n : Nat) : State :=
  (dueActions s n .ring (fun a => fld a.word 0 13)).foldl (fun s a =>
    tokenPut (dropAction s a) (fld a.word 0 13) { stamp := a.stamp, axis := a.axis }) s

/-! Ring commands (R438, R439). -/

/-- A read of the link whose requester is gone (R403, R438). -/
def orphan (f : OutReq → Bool) (l : Link) : Link :=
  { l with out := (l.out.filter (fun q => !(f q && (!q.sent || q.res.isSome)))).map (fun q => if f q then { q with kind := .orphan } else q) }

def engineOf (r : Nat) (s : State) : List Nat := (tkeys s.engines).filter (fun e => (s.engine e).busy && (s.engine e).ring == r)
def ringRead (r : Nat) (es : List Nat) (q : OutReq) : Bool :=
  match q.kind with
  | .fetch k _ _ => k == r
  | .moveRead e => es.contains e
  | _ => false

/-- An object descriptor that a reset passes over keeps its words in force: those that wait for a boundary take effect there
(R438, Table 16.17). -/
def objLeave (s : State) (r : Nat) (e : Started) : State :=
  let d := e.bytes
  let due := dType d = 5 || dType d = 6 || ((dType d = 7 || dType d = 8) && !e.arrived)
  if !due then s
  else if bridgeDown s && objDie d == 1 then { s with objLate := s.objLate ++ [(r, e)] }
  else if dType d = 5 || dType d = 6 then objApply s d else chanWords s r e
/-- The words that waited for the die bridge get over it. -/
def objFlush (s : State) : State := s.objLate.foldl (fun s p => objLeave s p.1 p.2) { s with objLate := [] }

/-- Descriptors of the ring that have started and not completed. -/
def openStarted (s : State) (r : Nat) : List Started := (s.ring r).started.filter (fun e => !e.stale && e.done.isNone)
/-- Every started JOB of the ring is stopped, and one whose cores have drained completes (R427, R438). -/
def abortJobs (s : State) (r detail : Nat) : State :=
  ((openStarted s r).filter (fun e => dType e.bytes == 1)).foldl (fun s e =>
    let j := jobId r e.seqNo
    let s := jobEnd true detail s j
    if jobOver s j (s.job j) then jobFinish s j (s.job j) else s) s
/-- Every other started descriptor of the ring, and a JOB that an FLR does not wait for, receives status 0x11 with the DETAIL
given. -/
def abortStarted (s : State) (r detail : Nat) : State :=
  (openStarted s r).foldl (fun s e =>
    if dType e.bytes = 1 then
      let j := jobId r e.seqNo
      let x := s.job j
      if x.bytes.isEmpty then s else jobFinish s j x
    else completePlain (objLeave s r e) r e.seqNo 0x11 detail 0) s

/-- Records that still wait for the link move no DONE of the ring any more; words that wait at a channel report to no ring. -/
def recordsPass (s : State) (r : Nat) : State :=
  let past := fun (q : OutReq) => match q.kind with
    | .record k _ => if k = r then { q with kind := .pastRecord } else q
    | _ => q
  let loose := fun (l : List Owed) => l.map (fun o => if o.ring = r then { o with ring := 8192 } else o)
  { s.setLink { s.link with out := s.link.out.map past } with
    egresses := s.egresses.map (fun t => (t.1, { t.2 with owed := loose t.2.owed }))
    ingests := s.ingests.map (fun t => (t.1, { t.2 with owed := loose t.2.owed })) }

/-- Steps 2 to 7 of R438, with nothing left to wait for. (DEDUCED, log entry 83.) -/
def ringResetDo (s : State) (r detail : Nat) : State :=
  if (s.ring r).state == .disabled then s
  else
    let es := engineOf r s
    let s := abortStarted (abortJobs (giveUp s r) r detail) r detail
    let s := s.setLink (orphan (ringRead r es) s.link)
    let s := recordsPass (foldS es (fun e s => s.setEngine e {}) s) r
    let x := s.ring r
    let s := s.setRing r { x with state := .disabled, tokens := [], used := false, fetched := [], metAt := none, engine := none, checked := false
                                  started := (x.started.filter (fun e => !e.issued)).map (fun e => { e with stale := true }) }
    let s := regPut s .rkRDone r (regGet s .rkRCidx r)
    regPut s .rkRCfg r (putFld (regGet s .rkRCfg r) 0 5 0)

def rkBusy (s : State) : Bool := bit (regGet s .rkCmdstat 0) 0
def rkBusySet (s : State) (b : Bool) : State := regPut s .rkCmdstat 0 (w64 b.toNat)

/-- The ring holds no epoch any more: every WAIT on it completes (R432, Table 16.17). -/
def waitsFail (s : State) (w : Nat) : State :=
  foldS (tkeys s.rings) (fun r s => match activeOf s r (· == 10) with
    | some e => if r ≠ w ∧ dWord e.bytes 2 2 % 8192 = w then completePlain s r e.seqNo 0x20 0x0A 0 else s
    | none => s) s

/-- Step 1: the RESET command is taken. -/
def ringResetTake (s : State) (r : Nat) : State :=
  rkBusySet (if (s.ring r).state == .resetting then s else waitsFail (s.setRing r { s.ring r with state := .resetting }) r) true

/-- A chunk of a MOVE of the ring is in progress: its read is out, or its data have not been written. -/
def chunkOpen (s : State) (r : Nat) : Bool := (engineOf r s).any (fun e => (findOut s (moveReadReq e)).isSome)
/-- A started JOB of the ring has not completed: its stores still drain. -/
def jobsOpen (s : State) (r : Nat) : Bool := (openStarted s r).any (fun e => dType e.bytes == 1)

/-- A RESET completes: the one in progress for this ring, or one given by the command itself.  It stops the ring's jobs, and goes on
while one of them drains or a MOVE of the ring has a chunk in progress (R427, R438). -/
def ringReset (s : State) (r : Nat) : State :=
  if rkBusy s && (s.ring r).state != .resetting then rkEvent s rkCmdrej
  else
    let s := ringResetTake s r
    let s := abortJobs (giveUp s r) r 1
    if chunkOpen s r || jobsOpen s r then s else rkBusySet (ringResetDo s r 1) false

def ringResume (s : State) (r : Nat) : State :=
  if rkBusy s then rkEvent s rkCmdrej
  else
    let x := s.ring r
    if x.state == .stopped then s.setRing r { x with state := .running } else s
def pollCmd (s : State) : State := if rkBusy s then rkEvent s rkCmdrej else pollStart s

/-- A write of RK_CMD (Table 16.16). -/
def rkCmdWrite (s : State) (v : W64) : State :=
  if rkBusy s then rkEvent s rkCmdrej
  else match fld v 16 3 with
    | 1 => ringResetTake s (fld v 0 13)
    | 2 => ringResume s (fld v 0 13)
    | 3 => pollCmd s
    | _ => s

end Sys2Proof.Machine
end

