-- ==== Sys2Proof/Machine/Trellis.lean ====
section
/-! DEFINITION. The Trellis (chapter 14): arbitration, rate limiters, their over-subscription test, and the die bridge. -/
namespace Sys2Proof.Machine

/-! Rate limiters (R379, Table 14.11). -/

def rlIx (m t : Nat) : Nat := 15 * m + t
def rlWord (s : State) (m t : Nat) : W64 := regGet s .trRl (rlIx m t)
def rlRate (w : W64) : Nat := fld w 0 12
def rlDepth (w : W64) : Nat := fld w 12 12
def rlEn (w : W64) : Bool := bit w 24
def rlCap (w : W64) : Bool := bit w 25

/-- What happens when a request of pair (m, t) would leave its port: it leaves assured with a token, leaves unassured,
or waits for a token (none). -/
def leavePort (s : State) (m t : Nat) : Option Bool × State :=
  let w := rlWord s m t
  if !rlEn w || rlRate w == 0 || rlDepth w == 0 then (some false, s)
  else
    let k := tget 0 s.buckets (16 * m + t)
    if 256 ≤ k then (some true, { s with buckets := tset 0 s.buckets (16 * m + t) (k - 256) })
    else if rlCap w then (none, s)
    else (some false, s)

/-- One TCLK of every enabled bucket. -/
def refillOne (s : State) (m t : Nat) : State :=
  let w := rlWord s m t
  if rlEn w then
    let k := tget 0 s.buckets (16 * m + t)
    { s with buckets := tset 0 s.buckets (16 * m + t) (min (k + rlRate w) (256 * rlDepth w)) }
  else s
def bucketRefill (s : State) : State :=
  foldS (List.range 16) (fun m s => foldS (List.range 15) (fun t s => refillOne s m t) s) s

/-! The condition of R380. -/

/-- Die of a target: 0 Left, 1 Right, 2 both (HBM), 3 the requester's own (Table 14.2). -/
def targetDie (t : Nat) : Nat := if t = 8 then 2 else if t = 14 then 3 else if (4 ≤ t ∧ t < 8) ∨ t = 12 then 1 else 0

/-- Sum of RATE over the enabled pairs that a test picks. -/
def rateSum (s : State) (f : Nat → Nat → Bool) : Nat :=
  ((List.range 16).map (fun m => ((List.range 15).map (fun t =>
    let w := rlWord s m t
    if rlEn w && trellisPath m t && f m t then rlRate w else 0)).sum)).sum

/-- CCLK in units of 0.5 GHz: 2, 3 or 4 (R561). -/
def oppHalfGhz (s : State) : Nat := 2 + min 2 (fld (regGet s .pwrOpp 0) 4 2)

/-- The sum is above the capacity of target t.  A slice grants one block each 41 CCLK with no knowledge of its users
(R267; DESIGN CHOICE). (DESIGN CHOICE, log entry 63.) -/
def overTarget (s : State) (t : Nat) : Bool :=
  let n := rateSum s (fun _ u => u == t)
  if t < 8 then decide (256 * oppHalfGhz s < 2 * 41 * n)
  else if t = 8 then decide (256 * 19 < n)
  else if t = 10 then decide (256 < 8 * n)
  else if t = 14 then [0, 1].any (fun d => decide (256 < rateSum s (fun m u => u == 14 && masterDie m == d)))
  else decide (256 < 2 * n)

/-- A request or its response crosses the bridge in the direction that leaves die d. -/
def crosses (d m t : Nat) : Bool :=
  let td := targetDie t
  if td = 3 then false else if td = 2 then true
  else (masterDie m == d && td != d) || (masterDie m != d && td == d)

def ovsubRead (s : State) : W64 :=
  let ts := (List.range 15).foldl (fun w t => if overTarget s t then setBit w t true else w) (0 : W64)
  let b := fun (d : Nat) => decide (256 * 31 < rateSum s (crosses d))
  setBit (setBit ts 16 (b 0)) 17 (b 1)

/-! Registers (R390). -/

def prioMask (i : Nat) : W64 :=
  (List.range 8).foldl (fun w j =>
    let t := 8 * (i % 2) + j
    if t < 15 && trellisPath (i / 2) t then w ||| w64 (15 <<< (4 * j)) else w) 0

def trPrioWrite (s : State) (i : Nat) (v : W64) : State := regPut s .trPrio i (v &&& prioMask i)

def trRlWrite (s : State) (i : Nat) (v : W64) : State :=
  let m := i / 15
  let t := i % 15
  if !trellisPath m t then s
  else
    let old := regGet s .trRl i
    let before := ovsubRead s
    let s := regCommit s .trRl i v
    let w := regGet s .trRl i
    let s := if rlEn w && !rlEn old then { s with buckets := tset 0 s.buckets (16 * m + t) (256 * rlDepth w) } else s
    if ovsubRead s &&& ~~~ before ≠ 0 then regSetBits s .trEvt 0 4 else s

def trLogClear (s : State) (v : W64) : State :=
  let s := if bit v 0 then regPut s .trDeclog 0 0 else s
  if bit v 1 then regPut s .trDeclog 1 0 else s

/-! Places and paths (Tables 14.2 and 14.3).  Places 0 to 7 are the slices, 8 to 11 the HBM stacks, 12 the control
space, 13 MRAM, 14 and 15 the Vaults, 16 the boot ROM, 17 and 18 the default targets of the dies, 19 and 20 the die bridge
out of the Left and the Right Bank, 21 and 22 the response networks of the dies. -/

def State.arbiter (s : State) (p : Nat) : Arbiter := tget {} s.arbiters p
def State.setArbiter (s : State) (p : Nat) (x : Arbiter) : State := { s with arbiters := tset {} s.arbiters p x }
def State.trPort (s : State) (m : Nat) : TrPort := tget {} s.trPorts m
def State.setTrPort (s : State) (m : Nat) (x : TrPort) : State := { s with trPorts := tset {} s.trPorts m x }
def State.bridge (s : State) (d : Nat) : Bridge := tget {} s.bridges d
def State.setBridge (s : State) (d : Nat) (x : Bridge) : State := { s with bridges := tset {} s.bridges d x }

/-- The target that a port sends a request to: the default target where the master has no path, and for a read by VGL
ingest or a write by VGL egress (R373). -/
def routed (m t : Nat) (write : Bool) : Nat :=
  if !trellisPath m t || ((m == 10 || m == 11) && !write) || ((m == 12 || m == 13) && write) then 14 else t
/-- What the port finds in the address of a block: the HBM stack, by the hash of R357, or 1 for a register block of the Right Bank
(R372). -/
def partOf (s : State) (t block : Nat) : Nat :=
  if t = 8 then hbmStack s (64 * block) else if t = 9 then (rightBlock (64 * block - 0xF0000000)).toNat else 0
/-- Die of a target: HBM by its stack, the default target by its master. -/
def dieOf (m t part : Nat) : Nat :=
  if t = 8 then part / 2 else if t = 14 then masterDie m else if (4 ≤ t ∧ t < 8) ∨ t = 12 then 1 else 0
def trPlace (m t part : Nat) : Nat := if t < 8 then t else if t = 8 then 8 + part else if t = 14 then 17 + masterDie m else t + 3
/-- The first arbiter on a path. -/
def firstPlace (m t part : Nat) : Nat := if dieOf m t part = masterDie m then trPlace m t part else 19 + masterDie m

/-! Credits of the die bridge (Table 14.7). -/

def credits (k : Nat) : Nat := match k with | 0 => 512 | 1 => 256 | 2 => 512 | 3 => 16 | _ => 64
def creditLeft (s : State) (d k : Nat) : Nat := credits k - tget 0 (s.bridge d).used k
def creditTake (s : State) (d k n : Nat) : State :=
  let x := s.bridge d
  s.setBridge d { x with used := tset 0 x.used k (tget 0 x.used k + n) }
def creditGive (s : State) (d k : Nat) : State :=
  let x := s.bridge d
  s.setBridge d { x with used := tset 0 x.used k (tget 0 x.used k - 1) }
def reqClass (write : Bool) : Nat := if write then 1 else 2

/-! Room at the targets and at the masters (R375, R387). -/

/-- Queue of a target in which a request waits: of HBM one for each pseudo-channel (R362). -/
def queueOf (s : State) (p block : Nat) : Nat := if 8 ≤ p ∧ p < 12 then hbmPc s (64 * block) else 0
/-- `need` more fit beside `used`, where a queue takes `sure` for certain and as many beyond them as the chip has. -/
def fits (sure extra used need : Nat) : Bool := decide (used + need ≤ sure) || decide (used + need ≤ sure + extra)
/-- Requests of one kind that the queue q of place p holds. -/
def queued (s : State) (p q : Nat) (write : Bool) : Nat :=
  ((s.arbiter p).waiting.filter (fun t => t.leg == .request && t.write == write && queueOf s p t.block == q)).length
/-- Place p takes n more reads or writes into the queue of a block: of HBM 64 of each kind for a pseudo-channel (R362), of another
target as many as Config gives, which a whole burst fits into; the die bridge has its credits instead.
(DESIGN CHOICE, log entry 158.) -/
def roomAt (s : State) (p block n : Nat) (write : Bool) : Bool :=
  let used := queued s p (queueOf s p block) write
  if 19 ≤ p then true
  else if 8 ≤ p ∧ p < 12 then decide (used + n ≤ 64)
  else fits 16 (Config.queueRoom p) used n

/-- Responses for which a master has space (R387): of a row the 640 transactions of each core's stream engine and the eight loads of
each steward; of another master as many as Config gives, a whole burst at least. (DESIGN CHOICE, log entry 158.) -/
def responseRoom (m out : Nat) : Bool := if m < 8 then decide (out < 8 * (640 + 8)) else fits 16 (Config.responseRoom m) out 1

/-! Ports (R375, R379, R387). -/

/-- Only these masters issue bursts (R375). -/
def burstMaster (m : Nat) : Bool := decide (8 ≤ m) && m != mCellarer

/-- The master is in reset: it issues nothing (R385). -/
def masterInReset (s : State) (m : Nat) : Bool := decide (m < 8) && (s.row m).inReset
/-- A request comes to its master's port, a burst as far as its aligned 4 KiB range goes (R375). -/
def arrive (s : State) (q : PortReq) : State :=
  let m := q.master.val
  let x := s.trPort m
  let k := q.addr.toNat / 64
  let b : Burst := { target := routed m (targetNo q.addr.toNat (target s q.addr.toNat)) q.write, block := k, write := q.write, words := q.words
                     gen := x.gen, left := if burstMaster m then min (q.more.val + 1) (64 - k % 64) else 1 }
  if masterInReset s m then s else s.setTrPort m { x with queue := x.queue ++ [b] }

/-- Blocks of a request that have not left. -/
def Burst.blocks (b : Burst) : List Nat := (List.range b.left).map (· + b.block)
/-- The next block of a request is one of the other die, and how many of those left are. -/
def blockFar (s : State) (m : Nat) (b : Burst) (k : Nat) : Bool := dieOf m b.target (partOf s b.target k) != masterDie m
def farBlocks (s : State) (m : Nat) (b : Burst) : Nat := (b.blocks.filter (blockFar s m b)).length
/-- Requests in progress have room for the rest of their transactions (R375): those of the die at their ports, those of the other
die once the bridge has taken up the first. -/
def promised (s : State) (p q : Nat) (write : Bool) : Nat :=
  ((List.range 16).map (fun m => (((s.trPort m).queue.filter (fun b => b.begun && b.write == write)).map (fun b =>
    (b.blocks.filter (fun k => !blockFar s m b k && trPlace m b.target (partOf s b.target k) == p && queueOf s p k == q)).length)).sum)).sum
  + (([0, 1].flatMap (fun d => (s.bridge d).owed)).filter (fun e => e.1 == p && queueOf s p e.2.1 == q && e.2.2 == write)).length
/-- The first transaction of a request leaves when every one of them has room: a credit of the bridge for each that crosses (R383),
a place in its target's queue for each of the others (R375). -/
def burstReady (s : State) (m : Nat) (b : Burst) : Bool :=
  b.begun || (decide (farBlocks s m b ≤ creditLeft s (masterDie m) (reqClass b.write)) &&
    b.blocks.all (fun k => blockFar s m b k ||
      (let p := trPlace m b.target (partOf s b.target k)
       let mine := (b.blocks.filter (fun j => !(blockFar s m b j) && trPlace m b.target (partOf s b.target j) == p
         && queueOf s p j == queueOf s p k)).length
       roomAt s p k (promised s p (queueOf s p k) b.write + mine) b.write)))

/-- A transaction comes to an arbiter: one that is idle and parked on another master takes it up one TCLK later (R378). -/
def arbAdd (s : State) (p : Nat) (t : Txn) : State :=
  let x := s.arbiter p
  s.setArbiter p { x with waiting := x.waiting ++ [{ t with late := x.waiting.all (·.late) && t.master != x.park }] }

/-- The lowest tag that is free: a tag is not reused before its response has come (R385, R387). -/
def freeTag (l : List Nat) : Nat := ((List.range (l.length + 1)).find? (fun k => !l.contains k)).getD 0

/-- One transaction of a request leaves its port, with a token or without, for the first arbiter on its path; space for its
response is reserved.  None: it waits at the port. -/
def leaveOne (s : State) (m : Nat) (b : Burst) : Option State :=
  if b.left = 0 || !burstReady s m b || !responseRoom m (s.trPort m).tags.length then none
  else match leavePort s m b.target with
    | (none, _) => none
    | (some a, s) =>
      let part := partOf s b.target b.block
      let s := if b.begun then s else creditTake s (masterDie m) (reqClass b.write) (farBlocks s m b)
      let x := s.trPort m
      let t : Txn := { master := m, target := b.target, part, block := b.block, write := b.write, assured := a, empty := b.padded,
                       gen := b.gen, held := blockFar s m b b.block, words := b.words, tag := freeTag x.tags
                       ahead := if b.crossed then none else some (b.blocks.tail.filter (blockFar s m b)) }
      some (arbAdd (s.setTrPort m { x with tags := x.tags ++ [t.tag] }) (firstPlace m b.target part) t)

/-- The place to which the next transaction of a request goes first. -/
def nextPlace (s : State) (m : Nat) (b : Burst) : Nat := firstPlace m b.target (partOf s b.target b.block)
/-- Transactions of one request leave for place p until one has to wait. -/
def leaveBurst (m p : Nat) : Nat → Burst → State → State × Burst
  | 0, b, s => (s, b)
  | k + 1, b, s => if nextPlace s m b != p then (s, b) else match leaveOne s m b with
    | none => (s, b)
    | some t => leaveBurst m p k { b with left := b.left - 1, block := b.block + 1, begun := true, crossed := b.crossed || blockFar s m b b.block } t

/-- Two accesses of a target reach a word in common: of HBM, a codeword, which is a block (R361, R376). -/
def sameWord (target k : Nat) (v : BitVec 8) (j : Nat) (w : BitVec 8) : Bool := k == j && (target == 8 || v &&& w != 0)
/-- A request waits behind an earlier one of its pair (R376), but a write behind a read only to a word that it writes (R388).
(DEDUCED, log entry 157.) -/
def behind (q : List Burst) (b : Burst) : Bool :=
  q.any (fun c => c.target == b.target &&
    (c.write || !b.write || c.blocks.any (fun k => b.blocks.any (fun j => sameWord b.target k c.words j b.words))))

/-- The requests at a port whose path begins at place p leave it, in order; `kept` are those that stay. -/
def leaveAll (m p : Nat) : List Burst → List Burst → State → State
  | [], kept, s => s.setTrPort m { s.trPort m with queue := kept }
  | b :: q, kept, s =>
    if behind kept b then leaveAll m p q (kept ++ [b]) s
    else
      let (s, b) := leaveBurst m p b.left b s
      -- what stays promised is seen by the requests behind it
      let s := s.setTrPort m { s.trPort m with queue := kept ++ (if b.left = 0 then [] else [b]) ++ q }
      leaveAll m p q (if b.left = 0 then kept else kept ++ [b]) s

/-- The reset of a master (R385): what has not begun to leave is dropped, the rest of a burst in progress leaves at once, a
write with every byte enable clear, and the responses to all of it are discarded. -/
def shimReset (s : State) (m : Nat) : State :=
  let x := s.trPort m
  let live := (x.queue.filter (·.begun)).map (fun b => { b with padded := b.write })
  let s := if live.any (·.padded) then regCount s .trShimcnt 0 1 else s
  let s := foldS (List.range 23) (fun p s => leaveAll m p (s.trPort m).queue [] s) (s.setTrPort m { x with queue := live })
  s.setTrPort m { s.trPort m with gen := x.gen + 1 }

/-! Arbitration (R377, R378). -/

def pairPrio (s : State) (m t : Nat) : Nat := fld (regGet s .trPrio (2 * m + t / 8)) (4 * (t % 8)) 4

/-- Capacity of an arbiter in eighths of a transaction per TCLK (Table 14.2): of a slice one block per CCLK at most, which
is two, three or four half GHz.  The response network has none that the spec states: one. (DESIGN CHOICE, log entry 75.) -/
def capacity (s : State) (p : Nat) : Nat :=
  if p < 8 then 4 * oppHalfGhz s else if p < 12 then 8 * 19 else if p = 13 then 1 else if p < 17 then 4
  else if p < 19 then 8 else if p < 21 then 8 * 31 else 8

/-- The far targets have room for a request of which t is the first transaction to cross, and the far endpoint for its responses
(R375, R387). -/
def farRoom (s : State) (d : Nat) (t : Txn) (l : List Nat) : Bool :=
  let place := fun (k : Nat) => trPlace t.master t.target (partOf s t.target k)
  let ks := t.block :: l
  fits 16 (Config.responseRoom (16 + d)) (s.bridge d).resv ks.length &&
  ks.all (fun k =>
    let mine := (ks.filter (fun j => place j == place k && queueOf s (place k) j == queueOf s (place k) k)).length
    roomAt s (place k) k (promised s (place k) (queueOf s (place k) k) t.write + mine) t.write)

/-- A transaction may pass place p: a direction of the bridge runs and has a credit of its class for a response, or room on the far
die for a whole request; the control target forwards only with a CF credit of each direction, which reserves the space of the answer
(R387, Tables 14.7 and 14.14). -/
def mayPass (s : State) (p : Nat) (t : Txn) : Bool :=
  if t.late then false
  else if p = 19 ∨ p = 20 then
    !(s.bridge (p - 19)).stopped &&
    (match t.leg with
     | .request => (match t.ahead with | some l => farRoom s (p - 19) t l | none => true)
     | .response => decide (0 < creditLeft s (p - 19) 0)
     | .forward => true
     | .forwardAck => true)
  else if p = 12 ∧ t.leg = .request ∧ t.part = 1 then decide (0 < creditLeft s 0 3) && decide (0 < creditLeft s 1 3)
  else true

/-- A transaction waits behind an earlier one: of its master on the same leg and to the same target, though a write behind a read
only to a word that it writes (R376, R388); and at a target behind every request to a word that both reach and one of them writes,
since requests to one word are served as they arrive (R376). (DEDUCED, log entry 157.) -/
def follows (p : Nat) (u t : Txn) : Bool :=
  let word := u.target == t.target && sameWord t.target u.block u.words t.block t.words
  u.leg == t.leg &&
    ((u.master == t.master && u.target == t.target && (u.write || !t.write || word)) ||
     (decide (p < 19) && word && (u.write || t.write)))
/-- The transactions of a place that wait behind no other. -/
def heads (p : Nat) (ts : List Txn) : List Txn :=
  (ts.foldl (fun (l : List Txn × List Txn) t => (l.1 ++ [t], if l.1.any (fun u => follows p u t) then l.2 else l.2 ++ [t])) ([], [])).2

/-- The transaction that is granted: assured first, then the higher priority, then the next master after the one last
granted at that priority. (DEDUCED, log entry 75.) -/
def arbPick (s : State) (p : Nat) (x : Arbiter) : Option Txn :=
  let c := (heads p x.waiting).filter (mayPass s p)
  let a := if c.any (·.assured) then c.filter (·.assured) else c
  let top := a.foldl (fun k t => max k (pairPrio s t.master t.target)) 0
  let b := a.filter (fun t => pairPrio s t.master t.target == top)
  let l := tget 15 x.last top
  ((List.range 16).map (fun k => (l + 1 + k) % 16)).findSome? (fun m => b.find? (fun t => t.master == m))

/-- Control space, MRAM, Vaults and boot ROM stay parked on the Cellarer. -/
def parksLast (p : Nat) : Bool := decide (p < 12) || decide (17 ≤ p)

/-- The response leaves die e for its master. -/
def respond (s : State) (e : Nat) (t : Txn) : State :=
  let t := { t with leg := .response, held := false }
  if masterDie t.master = e then arbAdd s (21 + e) t else arbAdd s (19 + e) t

/-- The buffer of a forwarded access's answer is free. -/
def ackFree (s : State) (t : Txn) : State := if t.acked then creditGive s 1 3 else s

/-- A request goes over the bridge out of die d: with its first transaction the rest of it has its room, and the far endpoint has
reserved space for every response. -/
def crossed (s : State) (d : Nat) (t : Txn) : State :=
  let x := s.bridge d
  match t.ahead with
  | some l => s.setBridge d { x with owed := x.owed ++ l.map (fun k => (trPlace t.master t.target (partOf s t.target k), k, t.write))
                                     resv := x.resv + 1 + l.length }
  | none => s.setBridge d { x with owed := x.owed.erase (trPlace t.master t.target t.part, t.block, t.write) }
/-- A response has left the endpoint of the bridge out of die d. -/
def unreserved (s : State) (d : Nat) : State :=
  let x := s.bridge d
  s.setBridge d { x with resv := x.resv - 1 }

/-- What follows a grant at place p. -/
def granted (s : State) (p : Nat) (t : Txn) : State :=
  let d := p - 19
  if p = 19 ∨ p = 20 then
    match t.leg with
    | .request => arbAdd (crossed s d t) (trPlace t.master t.target t.part) { t with ahead := none }
    | .response => arbAdd (unreserved (ackFree (creditTake s d 0 1) t) (1 - d)) (21 + (1 - d)) { t with held := true, acked := false }
    -- the Right Bank's register block answers at once and gives the credit back; the answer keeps its own until the response has
    -- gone on
    | .forward => arbAdd (creditGive s 0 3) 20 { t with leg := .forwardAck }
    | .forwardAck => respond s 0 { t with acked := true }
  else if p < 19 then
    let s := if t.held then creditGive s (masterDie t.master) (reqClass t.write) else s
    if p = 12 ∧ t.part = 1 then arbAdd (creditTake (creditTake s 0 3 1) 1 3 1) 19 { t with leg := .forward, held := false }
    else respond s (dieOf t.master t.target t.part) t
  else
    let s := ackFree (if t.held then creditGive s (1 - masterDie t.master) 0 else s) t
    let x := s.trPort t.master
    s.setTrPort t.master { x with tags := x.tags.erase t.tag, got := x.got + (t.gen == x.gen).toNat }

/-- Grants while capacity is left; the masters granted are added to the answer. -/
def grants (p : Nat) : Nat → State → State
  | 0, s => s
  | k + 1, s =>
    let x := s.arbiter p
    if x.room < 8 then s
    else match arbPick s p x with
      | none => s
      | some t =>
        let y := { x with waiting := x.waiting.erase t, last := tset 15 x.last (pairPrio s t.master t.target) t.master
                          park := if parksLast p then t.master else 14, room := x.room - 8 }
        grants p k (granted { s.setArbiter p y with readBytes := s.readBytes ++ [BitVec.ofNat 8 t.master] } p t)

/-- Unused capacity does not add up: of one transaction or more per TCLK the fraction stays, of less up to one. -/
def settleRoom (s : State) (p : Nat) : State :=
  let x := s.arbiter p
  s.setArbiter p { x with room := if 8 ≤ capacity s p then x.room % 8 else min 8 x.room }

/-- One TCLK of an arbiter: requests arrive at their ports, those whose path begins here leave, and the arbiter grants at
most its capacity.  The answer is the list of masters granted. -/
def trellisGrant (s : State) (p : Nat) (qs : List PortReq) : State :=
  let s := qs.foldl arrive s
  let s := foldS (List.range 16) (fun m s => leaveAll m p (s.trPort m).queue [] s) s
  let x := s.arbiter p
  let s := settleRoom (grants p 32 { s.setArbiter p { x with room := x.room + capacity s p } with readBytes := [] }) p
  let x := s.arbiter p
  s.setArbiter p { x with waiting := x.waiting.map (fun t => { t with late := false }) }

/-! The die bridge (R384, R530). -/

/-- One replay of the flit in hand of a direction; the sixteenth failure in a row stops the bridge: its machine check is
the Monitor's (R530). -/
def bridgeReplay (s : State) (d : Nat) (ok : Bool) : State :=
  let x := s.bridge d
  if x.stopped then s
  else
    let s := regSetBits (regCount s .trBrce 0 1) .trEvt 0 8
    if ok then s.setBridge d { x with fails := 0 }
    else if x.fails + 1 < 16 then s.setBridge d { x with fails := x.fails + 1 }
    else regSetBits (s.setBridge d { x with fails := 16, stopped := true }) .trEvt 0 16

end Sys2Proof.Machine
end

