-- ==== Sys2Proof/Machine/Ras.lean ====
section
/-! DEFINITION. Error handling (chapter 20): core errors and the spare, re-runs, row, bridge and device errors, the event
log. -/
namespace Sys2Proof.Machine

/-! Slots (R31, R523, R524). -/

def rasSubst (s : State) (r : Nat) : Nat := fld (regGet s .glbRasRow r) 0 4
def rasOut (s : State) (r : Nat) : Nat := fld (regGet s .glbRasRow r) 4 8
/-- The physical slot that serves a logical core. -/
def physSlot (s : State) (n : Nat) : Nat := if rasSubst s (n / 8) = n % 8 then 8 else n % 8
/-- The logical slot that a physical slot serves, if any. -/
def slotServed (s : State) (r p : Nat) : Option Nat :=
  let b := rasSubst s r
  let l := if p = 8 then b else p
  if p = 8 ∧ b = 0xF then none
  else if p ≠ 8 ∧ b = p then none
  else if (rasOut s r).testBit l then none
  else some l

def rasStatRead (s : State) : W64 :=
  (List.range 8).foldl (fun w r =>
    setBit (if rasSubst s r ≠ 0xF then setBit w r true else w) (8 + r) (rasOut s r != 0)) (regGet s .glbRasStat 0)

/-- The retirement and substitution records in MRAM (Table 22.9).  Their layout is open: their bytes come from Config, and where
something else has written the region, so does what boot reads from it. (DESIGN CHOICE, log entry 161.) -/
def retireLo : Nat := 0xF8001000
def retireHi : Nat := 0xF8002000
def retireBytes (t : Table W64) : List Byte :=
  if t.isEmpty then [] else (Config.retireRecords ((List.range 8).map (tget 0xF t))).take 4096
/-- The values of GLB_RAS_ROWr that boot takes from the records. -/
def retiredAtBoot (s : State) : Table W64 :=
  if s.mem.filter (fun c => retireLo ≤ c.1 && c.1 < retireHi) = bytesPut [] retireLo (retireBytes s.retired) then s.retired
  else
    let bs := bytesGet s.mem retireLo 4096
    (List.range 8).foldl (fun t r => tset 0xF t r (Config.retiredRow bs r)) []

def report (s : State) (e : Report) : State := { s with reports := s.reports ++ [e] }

/-- GLB_RAS_ROWr changes, in the register and in the records of MRAM (R524, R575). (DESIGN CHOICE, log entry 161.) -/
def rasRowPut (s : State) (r : Nat) (v : W64) : State :=
  let t := tset 0xF s.retired r v
  regPut (bytesStore { s with retired := t, mem := bytesClear s.mem retireLo retireHi } retireLo (retireBytes t)) .glbRasRow r v

/-- The event log's entry for a slot that is retired (R532). -/
def retirement (s : State) (r p l code : Nat) : Report :=
  { src := 0x10, code, sev := 3, unit := 9 * r + p, info0 := w64 (8 * r + l), info1 := w64 (tget 0 s.slotErrs (9 * r + p)) }

/-- A logical slot goes out of service. -/
def slotOut (s : State) (r l : Nat) : State :=
  let n := 8 * r + l
  let s := report s (retirement s r (physSlot s n) l 8)
  let s := rasRowPut s r (setBit (regGet s .glbRasRow r) (4 + l) true)
  degrade (unreserve s n)

/-- The slot's count reaches the threshold: the spare takes over, or the logical slot is out of service (R523).  The
answer says whether the spare was substituted. -/
def retireSlot (s : State) (r p l : Nat) : State × Bool :=
  if rasSubst s r = 0xF ∧ bit (regGet s .glbRasCfg 0) 8 then
    (report (rasRowPut s r (putFld (regGet s .glbRasRow r) 0 4 l)) (retirement s r p l 7), true)
  else (slotOut s r l, false)

/-! The re-run decision (R525 to R528). -/

def rangeMeets (a b : Nat × Nat) : Bool := decide (a.1 ≤ b.2) && decide (b.1 ≤ a.2)

/-- Rows that serve a job; the partner row keeps no tables. -/
def jobRows (x : Job) : List Nat := (x.cores.map (· / 8)).eraseDups
def inputsIntact (s : State) (x : Job) : Bool :=
  let rs := jobRows x
  !rs.any (fun r => (s.row r).clobber) &&
  rs.all (fun a => rs.all (fun b => a == b ||
    !((s.row a).rrt.any (fun p => (s.row b).wrt.any (fun q => rangeMeets p q)))))

/-- DETAIL of status 0x40 that forbids a re-run after cause k (Table 20.3), or none. -/
def rerunBar (s : State) (x : Job) (k : Nat) : Option Nat :=
  let d := x.bytes
  let bar :=
    if x.again then some 4
    else if !jRestart d || !bit (regGet s .glbRasCfg 0) 9 then some 1
    else if !inputsIntact s x then some 2
    else if x.outside then some 3
    else if jobUnservable s d then some 5
    else none
  if k = 3 then bar.map (fun _ => 6) else bar

/-- A write that a core of the job has committed and its port still holds is one to the control space, MRAM or a Vault (R525). -/
def outsideQueued (s : State) (j n : Nat) : Bool :=
  (s.core n).job == some j && (s.core n).wq.any (fun w => w.dig && (accHalves w.addr w.bytes.length).any (fun h => taints (target s h.1)))

/-- Every core of a job stops, and what they have committed outside is kept for the decision. -/
def jobStop (s : State) (j : Nat) : State :=
  let x := s.job j
  let s := if x.bytes.isEmpty then s else s.setJob j { x with outside := x.outside || (x.cores ++ x.partners).any (outsideQueued s j) }
  foldS (x.cores ++ x.partners) (fun n s => if (s.core n).job = some j ∧ (s.core n).serving then coreStop s n else s) s

/-- The Monitor decides on the re-run of a job: cause k, in row r, with or without a spare. -/
def decideRerun (s : State) (j k r : Nat) (sub : Bool) : State :=
  let x := s.job j
  if x.bytes.isEmpty || !x.running || !x.clear || x.awaits then s
  else match rerunBar s x k with
    | some d => s.setJob j { x with fail := some d, failAt := some (tclkNow s) }
    | none => s.setJob j { x with rerun := some (k + 8 * sub.toNat + 16 * r) }

/-- The re-run is launched: its cores are reserved again, and its ranks start afresh (R527). -/
def jobRerun (s : State) (r : Nat) (q : W32) : State :=
  let j := jobId r q
  let x := s.job j
  if x.awaits && x.clear && jobOver s j x then
    let y : Job := { x with again := true, running := false, ranks := [], pranks := [], outside := false, shadow := [] }
    s.setJob j { y with stamped := jPblk x.bytes == 0 }
  else s

/-! Core errors (R522, R523). -/

def unitCode : CoreUnit → Nat
  | .fa => 1
  | .fb => 2
  | .ix => 3
  | .cask => 4
  | .store => 5
  | .other => 6

/-- Ring and SEQ of the job that a core serves, or all ones. -/
def jobWord (s : State) (n : Nat) : W64 :=
  match (s.core n).job with
  | some j => if (s.core n).serving then w64 j else w64 m64
  | none => w64 m64

/-- The machine check of a core is routed to the Monitor (R308, R311). -/
def machineCheck (s : State) (n : Nat) : State := trace s 1 0x45 n ((s.core n).pc.setWidth 32)

/-- The Monitor's part after the error is counted. -/
def afterCheck (s : State) (n k r : Nat) (sub : Bool) : State :=
  let c := s.core n
  match c.job with
  | some j => if c.serving then decideRerun (jobStop s j) j k r sub else s
  | none => s

def coreError (s : State) (r p code place : Nat) : State :=
  match slotServed s r p with
  | none => s
  | some l =>
    let n := 8 * r + l
    let k := tget 0 s.slotErrs (9 * r + p) + 1
    let s := machineCheck s n
    let s := report s { src := 0x10, code, sev := 2, unit := 9 * r + p, info0 := jobWord s n, info1 := w64 place }
    let s := { s with slotErrs := tset 0 s.slotErrs (9 * r + p) k }
    let (s, sub) := if max 1 (fld (regGet s .glbRasCfg 0) 0 8) ≤ k then retireSlot s r p l else (s, false)
    afterCheck s n 1 r sub

/-- A double-bit error in a control store word: not counted; the store is reloaded from MRAM (R302, R523). -/
def storeError (s : State) (n word : Nat) : State :=
  let r := n / 8
  let s := machineCheck s n
  let s := report s { src := 0x10, code := 5, sev := 2, unit := 9 * r + physSlot s n, info0 := jobWord s n, info1 := w64 word }
  afterCheck s n 2 r false

/-! Row errors and row resets (R529, R573). -/

def jobsOnRow (s : State) (r : Nat) : List Nat :=
  (s.jobs.filter (fun t => (t.2.cores ++ t.2.partners).any (fun n => n / 8 == r))).map (·.1)

/-- A core after the reset of its row: what its stores and port W still held is dropped (R385). -/
def wipeCore (s : State) (n : Nat) : State :=
  let c := s.core n
  let s := s.setCore n { reserved := c.reserved, off := c.off, freeAt := s.tick }
  regPut (regPut s .rowIpend n 0) .rowIen n 0

/-- DEDUCED, log entry 101. -/
def rowWipe (s : State) (r : Nat) : State :=
  let cs := (List.range 8).map (· + 8 * r)
  foldS cs (fun n s => wipeCore s n) (shimReset s r)

/-- A device error: every running job ends with 0x40, DETAIL 0x08, and every ring stops (R531). (DEDUCED, log entry 89.) -/
def ringsStopAll (s : State) (detail : Nat) : State :=
  foldS (tkeys s.rings) (fun r s => giveUp (ringStop s r (regGet32 s .rkRCidx r) { status := 0x40, detail }) r) s
def jobsEndAll (s : State) (detail : Nat) : State := foldS (tkeys s.jobs) (fun j s => jobEnd false detail s j) s

def deviceUnitCode : DeviceUnit → Nat
  | .trellis => 0
  | .rackingEngine => 1
  | .controlTarget => 2
  | .mram => 3

/-- DEDUCED, log entry 102. -/
def deviceEffects (s : State) (unit : Nat) (records : Bool) : State :=
  let s := jobsEndAll s 8
  let s := if records then ringsStopAll s 8 else { s with power := { s.power with rkDead := true } }
  report (degrade s) { src := 0x15, code := 1, sev := 3, info0 := w64 unit }
/-- A live update under way when the error comes does not complete (Table 20.9). (DEDUCED, log entry 102.) -/
def deviceError (s : State) (unit : Nat) (records : Bool) : State :=
  let s := if s.sec.op = some .update then { s with sec := { s.sec with op := none, switch := none, slot := none } } else s
  deviceEffects s unit records

/-- A row error: the row's jobs stop, the row is reset and tested, and then each of them is decided on (R529). -/
def rowError (s : State) (r : Nat) (passes : Bool) : State :=
  if !bit (regGet s .glbRasCfg 0) 10 then deviceError s 0 true
  else
    let js := jobsOnRow s r
    let s := rowWipe (foldS js (fun j s => jobStop s j) s) r
    let s := report s { src := 0x12, code := 1, sev := 2, unit := r, info0 := w64 r, info1 := w64 js.length }
    let s := if passes then s else foldS ((List.range 8).filter (fun l => !(rasOut s r).testBit l)) (fun l s => slotOut s r l) s
    foldS js (fun j s => decideRerun s j 3 r false) s

/-! The die bridge (R530). -/

/-- A retraining ends; after one that failed the bridge stays stopped until a warm device reset. -/
def bridgeRetrain (s : State) (ok : Bool) : State :=
  let ds := [0, 1].filter (fun d => (s.bridge d).stopped)
  if ds.isEmpty || ds.any (fun d => (s.bridge d).failed) then s
  else
    let say := fun (d : Nat) (s : State) =>
      report s { src := 0x14, code := if ok then 1 else 2, sev := if ok then 1 else 3, info0 := w64 d, info1 := w64 (s.bridge d).fails }
    let s := foldS ds say s
    if ok then objFlush (raisesFlush (foldS ds (fun d s => s.setBridge d { s.bridge d with fails := 0, stopped := false }) s))
    else degrade (ringsStopAll (jobsEndAll (foldS ds (fun d s => s.setBridge d { s.bridge d with failed := true }) s) 7) 7)

/-! The event log (R532 to R534). -/

def logBase : Nat := 0xF8100000
def logSlot (e : Nat) : Nat := logBase + 32 * (e % 32768)

/-- The 32 bytes of an entry (Table 20.4). -/
def logBytes (time : W64) (e : Nat) (x : Report) : List Byte :=
  leBytes time.toNat 8 ++ leBytes e 4 ++ leBytes x.src 1 ++ leBytes x.code 1 ++ leBytes x.sev 1 ++ leBytes x.unit 1 ++
    leBytes x.info0.toNat 8 ++ leBytes x.info1.toNat 8

/-- The Monitor writes the oldest report into the log. (DEDUCED, log entry 15; DEDUCED, log entry 100.) -/
def logEntry (s : State) : State :=
  match s.reports with
  | [] => s
  | x :: rest =>
    let e := (regGet s .glbRasLognext 0).toNat
    let s := bytesStore { s with reports := rest } (logSlot e) (logBytes (s.die 0).ax0 e x)
    let s := regPut s .glbRasLognext 0 (w64 ((e + 1) % 2 ^ 32))
    -- a machine check of a core or of the die bridge (R384, R523)
    let s := if (x.src = 0x10 ∧ x.code < 7) ∨ x.src = 0x14 then { s with power := { s.power with mcLogged := true } } else s
    let irq := regGet s .glbRasIrq 0
    if bit irq 11 ∧ fld irq 12 2 ≤ x.sev then msixAsk s (fld irq 0 11) else s

/-- GLB_RAS_LOGDATAi. -/
def logData (s : State) (i : Nat) : W64 :=
  w64 (leNat (bytesGet s.mem (logSlot (fld (regGet s .glbRasLogidx 0) 0 15) + 4 * i) 4))

end Sys2Proof.Machine
end

