-- ==== Sys2Proof/Machine/MicroLoad.lean ====
section
/-! DEFINITION. Loading a user microcode image (R295 to R299). -/
namespace Sys2Proof.Machine

def uBase : Nat := 0x3800
def uEnd : Nat := 0x4000

/-- The Monitor on the Trellis. -/
def monitorAgent : Agent := { master := mCellarer, level := 2 }

/-! The checks of R295, word by word. -/

def inUser (a : Nat) : Bool := decide (uBase ≤ a) && decide (a < uEnd)
def condData (k : Nat) : Bool := (decide (0x1D ≤ k) && decide (k < 0x40))
/-- Source selectors 14 and 15 are reserved. -/
def srcBad (w : MWord) (lo : Nat) : Bool := decide (14 ≤ fld w lo 4)
/-- A reserved encoding in a datapath field, or TLU (Tables 10.3 to 10.7). -/
def fieldBad (w : MWord) : Bool :=
  fld w 71 4 == 15 || fld w 87 4 == 15 || decide (29 ≤ fld w 103 5) || fld w 116 4 == 7 || decide (10 ≤ fld w 116 4)
  || [75, 79, 83, 91, 95, 99, 108, 112, 120].any (srcBad w)
  || (fld w 138 2 == 1 && bit w 137) || (fld w 145 2 == 1 && bit w 144)
  || (decide (2 ≤ fld w 145 2) && fld w 140 5 != 0) || fld w 151 3 == 7

def pdefBad (w : MWord) : Bool := bit w 156 && !(decide (18 ≤ fld w 103 5) && decide (fld w 103 5 ≤ 21))
def ecopBad (w : MWord) : Bool := fld w 151 3 == 5 && decide (6 ≤ fld w 39 4)

/-- ECODE of a word by itself, the commit interval aside. -/
def wordCode (w : MWord) : Option Nat :=
  if !inUser (mwNext w) || !inUser (mwAlt w) then some 4
  else if condData (mwCond w) then some 5
  else if fieldBad w then some 6
  else if mwEnd w && !mwCommit w then some 8
  else if pdefBad w then some 9
  else if ecopBad w then some 10
  else none

/-! Commit intervals: the longest path in CCLK from each word up to and including the next commit point. -/

/-- Words that may follow (Table 10.6: condition 0 never, condition 1 always). -/
def wordNexts (w : MWord) : List Nat :=
  if mwCond w = 0 then [mwNext w] else if mwCond w = 1 then [mwAlt w] else [mwNext w, mwAlt w]

/-- One more word of every path; lengths saturate at 65.  A word outside the image is the empty fill, 1 CCLK long. -/
def pathStep (first : Nat) (ws : List MWord) (len : List Nat) : List Nat :=
  ws.map (fun w =>
    if mwCommit w then mwCyc w
    else
      let after := (wordNexts w).foldl (fun m a => max m (if a < first then 1 else (len[a - first]?).getD 1)) 0
      min 65 (mwCyc w + after))
def pathLens (first : Nat) (ws : List MWord) : Nat → List Nat
  | 0 => ws.map (fun _ => 0)
  | k + 1 => pathStep first ws (pathLens first ws k)

/-- The first word that fails a check, and its ECODE. (DEDUCED, log entry 64.) -/
def firstBad (first : Nat) (ws : List MWord) : Option (Nat × Nat) :=
  let lens := pathLens first ws 65
  ((ws.zip lens).zipIdx).findSome? (fun p =>
    match wordCode p.1.1 with
    | some k => some (first + p.2, if k < 7 then k else if 64 < p.1.2 then 7 else k)
    | none => if 64 < p.1.2 then some (first + p.2, 7) else none)

/-! The image (Table 10.9). -/

def wordsOf (bs : List Byte) (n : Nat) : List MWord :=
  (List.range n).map (fun i => BitVec.ofNat 160 (leNat ((bs.drop (20 * i)).take 20)))

structure UHead where
  utag   : Nat
  nwords : Nat
  first  : Nat
  crc    : Nat
  ok     : Bool
  deriving DecidableEq, Repr

def uHead (h : List Byte) : UHead :=
  let g := fun (o n : Nat) => leWord h o n
  { utag := g 0 2, nwords := g 2 2, first := g 4 2, crc := g 8 4,
    ok := g 0 2 != 0 && decide (1 ≤ g 2 2) && decide (g 2 2 ≤ 2048) && decide (uBase ≤ g 4 2)
      && decide (g 4 2 + g 2 2 ≤ uEnd) && g 6 2 == 0 && leWord h 12 52 == 0 }

/-! GLB_MC_UCTRL and GLB_MC_USTAT. -/

def mcBusy (s : State) : Bool := bit (regGet s .glbMcUstat 0) 0
def mcVer (s : State) (utag : Nat) : State := regPut s .glbMcVer 0 (putFld (regGet s .glbMcVer 0) 0 16 utag)

/-- A LOAD or CLEAR starts: dispatch pauses (R298). -/
def mcStart (s : State) (bitNo : Nat) : State :=
  let s := regPut (regPut s .glbMcUctrl 0 (w64 (2 ^ bitNo))) .glbMcUstat 0 (setBit (regGet s .glbMcUstat 0) 0 true)
  { s with power := { s.power with paused := true } }

/-- DEDUCED, log entry 65. -/
def mcCtrlWrite (s : State) (v : W64) : State :=
  if mcBusy s then s
  else if bit v 0 then mcStart s 0
  else if bit v 1 then mcStart s 1
  else s

/-- Dispatch resumes; the status says how the load ended: none is a CLEAR. -/
def mcEnd (s : State) (how : Option (Option (Nat × Nat))) : State :=
  let st := regGet s .glbMcUstat 0 &&& 6
  let s := regPut s .glbMcUctrl 0 0
  let s := { s with power := { s.power with paused := s.sec.switch.isSome } }   -- an update may still wait (R545)
  match how with
  | none => regPut s .glbMcUstat 0 st
  | some none => regPut (regPut s .glbMcUstat 0 2) .glbMcUerra 0 0
  | some (some (code, a)) => regPut (regPut s .glbMcUstat 0 (w64 (4 + 256 * code))) .glbMcUerra 0 (w64 a)

/-- No core serves a job, and every write of an ended job has left its core. -/
def coresIdle (s : State) : Bool := s.cores.all (fun c => !c.2.serving && c.2.viq.isEmpty)

/-- The user area receives a list of words from address `first` on, and the empty fill elsewhere. -/
def storeWords (first : Nat) (ws : List MWord) : Table MWord :=
  (ws.zipIdx).foldl (fun t p => tset emptyFill t (first + p.2) p.1) []

/-- The Monitor reads and checks the image, and loads it (R297, R298); an image behind a stopped bridge waits (R530). -/
def mcLoad (s : State) (chk : Check) : State :=
  let s0 := s
  let a := (regGet s .glbMcUaddr 0).toNat
  let (s, e1, h) := readSpan s monitorAgent a 64 chk
  let u := uHead h
  if bridgeHolds s0 mCellarer a 64 || (e1.isNone && u.ok && bridgeHolds s0 mCellarer (a + 64) (20 * u.nwords)) then s0
  else if e1.isSome then mcEnd s (some (some (3, 0)))
  else if !u.ok then mcEnd s (some (some (1, 0)))
  else
    let (s, e2, bs) := readSpan s monitorAgent (a + 64) (20 * u.nwords) chk
    let ws := wordsOf bs u.nwords
    if e2.isSome then mcEnd s (some (some (3, 0)))
    else if crc32 bs ≠ w32 u.crc then mcEnd s (some (some (2, 0)))
    else match firstBad u.first ws with
      | some (at_, code) => mcEnd s (some (some (code, at_)))
      | none =>
        let s := mcVer { s with ustore := storeWords u.first ws } u.utag
        let s := regPut s .glbMcUcrc 0 (w64 u.crc)
        mcEnd (report s { src := 0x15, code := 3, sev := 0, info0 := w64 u.utag }) (some none)

def mcClear (s : State) : State :=
  mcEnd (regPut (mcVer { s with ustore := [] } 0) .glbMcUcrc 0 0) none

/-- A LOAD goes on once no core serves a job. -/
def mcStep (s : State) (chk : Check) : State :=
  if mcBusy s ∧ coresIdle s then
    (if bit (regGet s .glbMcUctrl 0) 0 then mcLoad s chk else if bit (regGet s .glbMcUctrl 0) 1 then mcClear s else s)
  else s

end Sys2Proof.Machine
end

