-- ==== Sys2Proof/Machine/Power.lean ====
section
/-! DEFINITION. Power, clocks, DOZE, resets, boot and the calibration page (chapter 22). -/
namespace Sys2Proof.Machine

def pwrEvent (s : State) (b : Nat) : State := regSetBits s .pwrEvt 0 (w64 (2 ^ b))

/-! Operating points (R560 to R562). -/

def oppReq (s : State) : Nat := fld (regGet s .pwrOpp 0) 0 2
def oppCur (s : State) : Nat := fld (regGet s .pwrOpp 0) 4 2
def oppBusy (s : State) : Bool := bit (regGet s .pwrOpp 0) 7

/-- PWR_OPP with the point in force, THR and BUSY. -/
def oppPut (s : State) (cur : Nat) (busy : Bool) : State :=
  let req := oppReq s
  -- below REQ because of temperature: the limit is below REQ, or it was when this point came into force
  let thr := decide (cur < req) && (decide (s.power.thermal < req) || (bit (regGet s .pwrOpp 0) 6 && cur == oppCur s))
  regPut s .pwrOpp 0 (w64 (req + 16 * cur + 64 * thr.toNat + 128 * busy.toNat))

/-- A change begins when none is in progress and the point in force is not the lower of REQ and the thermal limit. -/
def oppStart (s : State) : State :=
  let goal := min (oppReq s) s.power.thermal
  if oppBusy s then oppPut s (oppCur s) true
  else if goal = oppCur s then oppPut s (oppCur s) false
  else oppPut { s with power := { s.power with oppGoal := goal } } (oppCur s) true

def oppRequest (s : State) (v : W64) : State := oppStart (regCommit s .pwrOpp 0 v)

def oppDone (s : State) : State :=
  if oppBusy s then oppStart (oppPut s s.power.oppGoal false) else s

/-- A sensor at 100 °C or more lowers the point by one step. -/
def throttle (s : State) (t : Temps) : State :=
  let hot := hottestOf s t
  let base := min s.power.thermal (if oppBusy s then s.power.oppGoal else oppCur s)
  if hot.toInt < 100 ∨ base = 0 then s
  else oppStart (pwrEvent { s with power := { s.power with thermal := base - 1 } } 2)

/-- Below 95 °C the point rises by one step, never above REQ. -/
def throttleOff (s : State) (t : Temps) : State :=
  let hot := hottestOf s t
  let k := s.power.thermal
  if 95 ≤ hot.toInt ∨ 2 ≤ k then s
  else
    let s' := { s with power := { s.power with thermal := k + 1 } }
    oppStart (if k < oppReq s then pwrEvent s' 2 else s')

/-! Cores and rows (R558, R559). -/

def coreBound (s : State) (n : Nat) : Bool := (s.core n).serving || (s.core n).reserved.isSome
def rowCores (r : Nat) : List Nat := (List.range 8).map (· + 8 * r)

/-- Power state of a logical core (R558): IDLE is entered by `wfe` and `waitax` alone. -/
inductive CorePower where
  | run | idle | off
  deriving DecidableEq, Repr
def corePower (s : State) (n : Nat) : CorePower :=
  let c := s.core n
  if c.off then .off
  else match c.wait with
    | .wfe => .idle
    | .waitax _ _ => .idle
    | _ => .run

/-- A core that is OFF has lost the state of Table 16.12 (R558); a halt request that waits is the debug block's (R603). -/
def coreOffAt (s : State) (n : Nat) : State :=
  regPut (s.setCore n { off := true, freeAt := s.tick, haltPend := (s.core n).haltPend }) .rowIpend n 0

def coreAutoOff (s : State) (n : Nat) : State :=
  let c := s.core n
  let cfg := regGet s .pwrCorecfg 0
  if bit cfg 0 && !coreBound s n && !c.off && c.sb.isEmpty && c.wq.isEmpty && decide (c.freeAt + 500 * fld cfg 4 12 ≤ s.tick)
  then coreOffAt s n else s

def coreWake (s : State) (n : Nat) : State :=
  let c := s.core n
  if c.off && c.reserved.isSome && (s.row (n / 8)).power == .run && (s.row (n / 8)).goal == .run && !(s.die (n / 32)).doze
  then s.setCore n { c with off := false } else s

/-- The switched power domains (Table 22.1). -/
inductive Domain where
  | core (row : Fin 8) (slot : Fin 9)
  | bay (b : Fin 64)
  | rowCommon (row : Fin 8)
  | vglPort (p : Fin 8)
  | hbm (stack : Fin 4)
  | dieBridge (die : Fin 2)
  | pciExpress | cellarer | security
  deriving DecidableEq, Repr
/-- A domain is switched off; those of the Cellarer and the security engine are held in retention while the Left Bank dozes. -/
def domainOff (s : State) : Domain → Bool
  | .core r p => match slotServed s r p with
    | none => true
    | some l => (s.core (8 * r + l)).off
  | .bay b => (s.bay b).power != .on || (s.bay b).rowP != .on || (s.die (b / 32)).doze
  | .rowCommon r => (s.row r).power != .run || (s.die (r / 4)).doze
  | .vglPort p => !portEn s p || (s.die (portDie p)).doze
  | .hbm k => (s.die (k / 2)).doze
  | .dieBridge d => (s.die d).doze
  | .pciExpress => false
  | .cellarer => false
  | .security => false

/-- Bays of slice r follow their row. -/
def rowBays (s : State) (r : Nat) (p : BayPower) : State :=
  foldS (List.range 8) (fun k s => s.setBay (8 * r + k) { s.bay (8 * r + k) with rowP := p }) s

def rowGoalOf (v : Nat) : RowPower := if v = 0 then .run else if v = 1 then .ret else .off

/-- One field of a write of PWR_ROWPWR. -/
def rowAsk (s : State) (v r : Nat) : State :=
  let x := s.row r
  let g := rowGoalOf v
  if v = 3 then s
  else if g ≠ .run ∧ (rowCores r).any (coreBound s) then pwrEvent s 4
  else if g = .off ∧ (List.range 8).any (fun k => (s.bay (8 * r + k)).owner != 0xF) then pwrEvent s 4
  else if g = x.goal then regPut s .pwrRowpwr 0 (putFld (regGet s .pwrRowpwr 0) (2 * r) 2 v)
  else
    let s := regPut s .pwrRowpwr 0 (putFld (regGet s .pwrRowpwr 0) (2 * r) 2 v)
    let s := s.setRow r { x with goal := g }
    -- a row that is asked for RUN before it has left RUN stays there, and its bays with it
    if g = .run then (if x.power = .run then rowBays s r .on else s) else rowBays (foldS (rowCores r) (fun n s => coreOffAt s n) s) r .ret

/-- DEDUCED, log entry 112. -/
def rowPowerWrite (s : State) (v : W64) : State :=
  foldS (List.range 8) (fun r s => rowAsk s (fld v (2 * r) 2) r) s

/-- The change of a row's power state ends; a row that was or goes OFF has lost its slice's contents.  A row that a JOB has reserved
since does not go to RET: it is to be woken (R559). -/
def rowPowerEnd (s : State) (r : Nat) : State :=
  let x := s.row r
  if x.goal = x.power ∨ (x.goal = .ret ∧ (rowCores r).any (coreBound s)) then s
  else
    let s := if x.goal = .off ∨ x.power = .off then foldS (List.range 8) (fun k s => bayLose s (8 * r + k)) s else s
    rowBays (s.setRow r { x with power := x.goal }) r (match x.goal with | .run => .on | .ret => .ret | .off => .off)

/-- A JOB that has reserved a core of a row in RET wakes it. -/
def rowWake (s : State) (r : Nat) : State :=
  let x := s.row r
  if (x.power = .ret ∨ x.goal = .ret) ∧ (rowCores r).any (fun n => (s.core n).reserved.isSome) then
    rowBays (s.setRow r { x with power := .run, goal := .run }) r .on
  else s

/-! Row resets (R573). -/

def rowRstBit (s : State) (r : Nat) : Bool := bit (regGet s .pwrRowrst 0) r

/-- The host asks for a reset of row r: its jobs complete with 0x11, DETAIL 0x03 (R439). -/
def rowResetStart (s : State) (r : Nat) : State :=
  if rowRstBit s r then s
  else
    let s := regPut s .pwrRowrst 0 (setBit (regGet s .pwrRowrst 0) r true)
    let s := foldS (jobsOnRow s r) (fun j s => jobEnd true 3 s j) s
    let s := s.setRow r { s.row r with inReset := true }
    if (s.row r).power = .run then rowWipe s r
    else foldS (rowCores r) (fun n s => regPut (regPut (s.setCore n { s.core n with haltReq := false, haltPend := false }) .rowIpend n 0) .rowIen n 0) s

def rowRstWrite (s : State) (v : W64) : State := foldS ((List.range 8).filter (bit v)) (fun r s => rowResetStart s r) s

/-- A reset of row r that has begun ends. -/
def rowResetEnd (s : State) (r : Nat) : State :=
  if !rowRstBit s r then s
  else (regPut s .pwrRowrst 0 (setBit (regGet s .pwrRowrst 0) r false)).setRow r { s.row r with inReset := false }

/-! The calibration page (R576 to R578). -/

def calBase : Nat := 0xF8000000
def calMagic : Nat := 0x4C41434B

/-- A byte of the page of defaults (Table 22.10). -/
def calDefault (i : Nat) : Byte :=
  if 0x018 ≤ i ∧ i < 0x01C then BitVec.ofNat 8 ((2 ^ 32 - 8960) / 256 ^ (i - 0x018))
  else if 0x100 ≤ i ∧ i < 0x240 then (if (i - 0x100) % 5 = 2 then 48 else 0)
  else 0

def calValid (p : List Byte) : Bool :=
  leWord p 0 4 == calMagic && (crc32 (p.take 0xFFC)).toNat == leWord p 0xFFC 4

/-- The page in force and CAL_STAT. -/
def calApply (s : State) (p : List Byte) (defaults : Bool) : State :=
  let s := foldS (List.range 1024) (fun i s => regPut s .calPage i (w64 (leWord p (4 * i) 4))) s
  regPut s .calStat 0 (w64 (defaults.toNat + 2 * (leWord p 6 2 % 2)))

/-- The check at boot. -/
def calBoot (s : State) : State :=
  let p := bytesGet s.mem calBase 4096
  let s := if calValid p then calApply s p false else calApply s ((List.range 4096).map calDefault) true
  -- the subsystem IDs are taken at PORST_N alone (R394, R578)
  if fld (regGet s .pwrBoot 0) 8 3 = 0 then
    s.setLink { s.link with cfg := { s.link.cfg with subsys := regGet32 s .calPage 2 } } else s

def calBusy (s : State) : Bool := bit (regGet s .pwrCalStat 0) 0
def calCmdWrite (s : State) (v : W64) : State := if bit v 0 && !calBusy s then regPut s .pwrCalStat 0 1 else s

/-- The Monitor runs (R542). -/
def monitorRuns (s : State) : Bool := decide (2 ≤ fld (regGet s .pwrBoot 0) 0 3) && fld (regGet s .secBootstat 0) 0 2 != 3

/-- Bytes of the new page go over the old one, at most as many as `most`; once all are there the page is applied. -/
def calPut (s : State) (off : Nat) (bs : List Byte) (most : Option Nat) : State :=
  let k := min (most.getD bs.length) bs.length
  let s := bytesStore s (calBase + off) (bs.take k)
  if k < bs.length then { s with power := { s.power with calLeft := some (off + k, bs.drop k) } }
  else regPut (calApply { s with power := { s.power with calLeft := none } } (bytesGet s.mem calBase 4096) false) .pwrCalStat 0 2

/-- The Monitor has the page that the host gave, or a failed read, and begins to write a page that passes its check. -/
def calStore (s : State) (page : HostImage) (most : Option Nat) : State :=
  match page with
  | none => regPut s .pwrCalStat 0 (w64 (4 + 256 * 1))
  | some p =>
    let p := (p ++ zeroBytes 4096).take 4096
    if calValid p && leWord p 6 2 == 1 then calPut s 0 p most else regPut s .pwrCalStat 0 (w64 (4 + 256 * 2))

/-- A calibration write that has been asked for goes on, where a Monitor runs and the Racking Engine is awake. -/
def calRun (s : State) (x : Install) : State :=
  if !(calBusy s && monitorRuns s) || (s.die 0).doze then s
  else match s.power.calLeft with
    | some (off, bs) => calPut s off bs x.most
    | none => calStore s x.image x.most

/-- A loss of power while the page is being written leaves one whose CRC fails (R578). (DESIGN CHOICE, log entry 176.) -/
def calSpoil (s : State) : State :=
  if s.power.calLeft.isSome && calValid (bytesGet s.mem calBase 4096) then
    { s with mem := cellPut s.mem (calBase + 0xFFC) (~~~ cellGet s.mem (calBase + 0xFFC)) }
  else s

/-- A signed 32-bit word of the page in force. -/
def calInt (s : State) (off : Nat) : Int := ((regGet32 s .calPage (off / 4))).toInt

/-! DOZE (R563 to R566). -/

/-- The correction for one temperature, in ppb (R566). -/
def dozeCorr (d : Die) (t : Int) : Int := d.slowtrim + d.tca * (t - 25) + (d.tcb * (t - 25) * (t - 25)).tdiv 256

/-- Elapsed time of a DOZE in ns. (DEDUCED, log entry 110.) -/
def dozeNs (d : Die) (e0 n e1 : Nat) : Nat :=
  let c := if d.samples = 0 then dozeCorr d d.entryT.toInt else d.corr.tdiv d.samples
  let fs : Int := (n : Int) * 30517578125 * (1000000000 - c)
  let ns := (fs.tdiv 1000000000000000 + 40 * ((e0 : Int) + e1)) % 2 ^ 64
  ns.toNat / 2 * 2

def countingMode (m : Nat) : Bool := decide (1 ≤ m) && decide (m ≤ 3)
def dieAxes (d : Nat) : List Nat := ((List.range 16).map (· + 16 * d)).filter (· ≠ 0)

/-- Reasons of Table 22.3 against DOZE of die d. -/
def dozeBars (s : State) (d : Nat) : Nat :=
  let cores := ((List.range 32).map (· + 32 * d)).any (coreBound s)
  let axes := (dieAxes d).any (fun n => axEn s n && countingMode (axMode s n) && !axDzok s n)
  let ports := ((List.range 4).map (· + 4 * d)).any (fun p => bit (regGet s .vglCfg p) 0)
  let left := d == 0 && (s.rings.any (fun x => x.2.state != .disabled) || mcBusy s || bit (regGet s .hbmStat 0) 0
    || bit (regGet s .secCmdstat 0) 0 || calBusy s)
  cores.toNat + 2 * axes.toNat + 4 * ports.toNat + 8 * left.toNat + 16 * (bit (regGet s .pwrStat 0) 0).toNat

/-- Counting and frame axes of a dozing die are LOST (R68). (DESIGN CHOICE, log entry 122.) -/
def dozeAxis (s : State) (n : Nat) : State :=
  let m := axMode s n
  if axEn s n && (countingMode m || m == 4 || m == 7) then
    axStat (axLose (s.setAxis n { s.axis n with frames := [] }) n .lost) n stDozelost
  else s

def dozeStat (s : State) (d : Nat) (b : Bool) : State := regPut s .pwrDozestat 0 (setBit (regGet s .pwrDozestat 0) d b)

def dieDoze (s : State) (d : Nat) : State :=
  let s := foldS (dieAxes d) (fun n s => dozeAxis s n) s
  let s := foldS ((List.range 32).map (· + 32 * d)) (fun n s => coreOffAt s n) s
  let x := s.die d
  let s := s.setDie d { x with
    doze := true, entryAx0 := x.ax0, entryT := s.power.tHot, samples := 0, corr := 0, ax0jump := false, woke := false
    slowtrim := calInt s 0x10, tca := calInt s 0x14, tcb := calInt s 0x18 }
  dozeStat (regPut s .pwrDoze 0 (setBit (regGet s .pwrDoze 0) d true)) d true

/-- DOZE is requested for a set of dies: refused for all, or entered by all. (DEDUCED, log entry 111.) -/
def dozeRequest (s : State) (dies : List Nat) : State :=
  let ds := dies.filter (fun d => !(s.die d).doze)
  if ds.isEmpty then s
  else
    let bar := fun (d : Nat) => if ds.contains d then dozeBars s d else 0
    let st := putFld (putFld (regGet s .pwrDozestat 0) 4 5 (bar 0)) 12 5 (bar 1)
    let s := regPut s .pwrDozestat 0 st
    if bar 0 + bar 1 = 0 then foldS ds (fun d s => dieDoze s d) s else pwrEvent s 0

/-- AX0 at wake (R70): the other die's while it runs, else the value at entry plus the measured time, with JUMP; two dies
that wake in one tick both carry JUMP. -/
def wakeDie (s : State) (d ns : Nat) : Die :=
  let x := s.die d
  let y := s.die (1 - d)
  let z : Die := if y.doze then { x with ax0 := x.entryAx0 + w64 (ns * 65536), ax0jump := true }
    else { x with ax0 := y.ax0, ax0jump := y.woke && y.ax0jump }
  { z with doze := false, woke := true, samples := 0, corr := 0 }

/-- A dozing die returns to full operation: its axes that the Axis Bus showed LOST and that are RUN return to RUN with JUMP
(R70, R448). -/
def dieWake (s : State) (d e0 n e1 : Nat) : State :=
  if !(s.die d).doze then s
  else
    let ns := dozeNs (s.die d) e0 n e1
    let s := s.setDie d (wakeDie s d ns)
    let s := dozeStat (regPut s .pwrDoze 0 (setBit (regGet s .pwrDoze 0) d false)) d false
    let s := pwrEvent (regPut s .pwrDozetime 0 (w64 ns)) 1
    let s := foldS (dieAxes d) (fun n s => modCore s n (fun c => { c with jump := c.jump || c.state == .run })) s
    let s := foldS ((List.range 32).map (· + 32 * d)) (fun k s => k5Wake (if tmMadeUp s k then tmMakeup s k (ns / 4) else s) k) s
    pump s      -- requests that waited while the Left Bank dozed

/-- The always-on domain samples the hottest sensor. -/
def dozeSample (s : State) (d : Nat) (t : Temps) : State :=
  let x := s.die d
  let hot := hottestOf s t
  if x.doze then s.setDie d { x with samples := x.samples + 1, corr := x.corr + dozeCorr x hot.toInt } else s

/-! Resets (R570 to R572). -/

/-- A device in which PORST_N is low, SYSCLK is absent, or a tamper response holds it in reset does nothing.
(DEDUCED, log entry 5.) -/
def inReset (s : State) : Bool := s.power.porst || s.power.sysLost || s.sec.hold

def mramCells (c : Host.Cell) : Bool := 0xF8000000 ≤ c.1 && c.1 < 0xF9000000

/-- The device at the release of PORST_N (Table 22.7): OTP, MRAM, retirements and the strapped pins' levels remain. -/
def porstState (s : State) (scope : Bool) (smb : Nat) : State :=
  let s := calSpoil s
  regPut { State.reset with
    otp := s.otp, hbmHard := s.hbmHard, retired := s.retired, tap := s.tap, pending := s.pending, mem := s.mem.filter mramCells
    poison := s.poison.filter (fun e => mramCells (e.1 * 8, 0))
    power := { thermN := s.power.thermN } } .pwrStrap 0 (w64 (scope.toNat + 2 * smb))

/-- PORST_N goes low: every pin is an input until its release. -/
def porstAssert (s : State) : State :=
  let t := porstState s false 0
  { t with regs := [], power := { t.power with porst := true } }

/-- What a warm device reset leaves of a timer: its native half is reset (R483), the compatibility half is not (R479). -/
def Timer.k5Part (t : Timer) : Timer :=
  { capLvl := t.capLvl, k5psc := t.k5psc, k5next := t.k5next, k5cap := t.k5cap, k5cnt := t.k5cnt, k5wrap := t.k5wrap
    k5match := t.k5match, k5out := t.k5out, k5late := t.k5late }

def k5Off (o : Nat) : Bool := 0x1820000 ≤ o && o < 0x1820800

/-- Registers that a warm device reset keeps: the compatibility timers' and the always-on ones. -/
def warmRegs (s : State) (last : Nat) : State :=
  let t := { State.reset with regs := s.regs.filter (fun e => k5Off e.1) }
  let t := foldS ((List.range 64).filter (tmCompat s)) (fun n t => regPut t .tmrCfg n (setBit (regReset .tmrCfg n) 20 true)) t
  let t := regPut (regPut t .pwrBoot 0 (w64 (256 * last))) .pwrDozetime 0 (regGet s .pwrDozetime 0)
  let t := regPut (regPut t .pwrStrap 0 (regGet s .pwrStrap 0)) .secTampstat 0 (regGet s .secTampstat 0)
  let t := regPut t .secTampcnt 0 (regGet s .secTampcnt 0)
  let cfg := regGet s .secTampcfg 0
  if bit cfg 3 then regPut t .secTampcfg 0 cfg else t

/-- A warm device reset with LASTRST `last` (Table 22.7, R572): it keeps the link, its configuration and the MSI-X table,
and sends nothing more on the link. (DEDUCED, log entry 109; DESIGN CHOICE, log entry 113.) -/
def warmReset (s : State) (last : Nat) : State :=
  let t := warmRegs s last
  let p := s.power
  { t with
    otp := s.otp, hbmHard := s.hbmHard, retired := s.retired, slotErrs := s.slotErrs, tap := s.tap, pending := s.pending
    mem := s.mem.filter (fun c => c.1 < hbmBase), poison := s.poison.filter (fun e => e.1 * 8 < hbmBase)
    timers := (tkeys s.timers).foldl (fun t n => tset {} t n (s.timer n).k5Part) []
    link := { (orphan (fun _ => true) s.link) with reads := [], reply := none }, msix := s.msix, pba := s.pba
    sec := { count := s.sec.count, held := s.sec.held, hold := s.sec.hold || s.sec.holdDue.isSome }
    power := { thermN := p.thermN, tLeft := p.tLeft, tRight := p.tRight, pkg := p.pkg, vdd := p.vdd
               seen := p.seen, smb := p.smb } }

/-- Configuration space, MSI-X table and PBA return to their reset state; the AER registers are sticky (R403). -/
def linkConfigReset (s : State) (sticky : Bool) : State :=
  { s with msix := [], pba := [], msixReq := [],
           link := { s.link with mse := false, bme := false, msixEn := false, fmask := false, mps := 128, mrrs := 512,
                                 cfg := { subsys := s.link.cfg.subsys }, aer := if sticky then s.link.aer else {} } }

/-- A function-level or hot reset (R403, R439). -/
def functionReset (s : State) : State :=
  let s := linkConfigReset s true
  let s := foldS (tkeys s.rings) (fun r s =>
    let s := if (s.ring r).state == .disabled then s else ringResetDo (s.setRing r { s.ring r with state := .resetting }) r 2
    s.setRing r { s.ring r with started := [] }) s
  let s := s.setLink { (orphan (fun _ => true) s.link) with reads := [] }
  let s := { s with poll := { count := s.poll.count, start := s.poll.start } }
  hlEvent (rkBusySet s false) hlFlr

/-- PERST_N: its scope is strapped. -/
def perst (s : State) : State :=
  if bit (regGet s .pwrStrap 0) 0 then
    let s := linkConfigReset (warmReset s 2) false
    s.setLink { s.link with rate := 0, width := 0, flit := false, out := [] }
  else functionReset s

/-! Boot (R574). -/

def bootStageNo (s : State) : Nat := fld (regGet s .pwrBoot 0) 0 3
def bootPut (s : State) (k : Nat) : State := regPut s .pwrBoot 0 (putFld (regGet s .pwrBoot 0) 0 3 k)

/-- Retirements and substitutions are applied (R524, R537). -/
def applyRetired (s : State) : State :=
  let s := { s with retired := retiredAtBoot s }
  let s := foldS (List.range 8) (fun r s => regPut s .glbRasRow r (tget 0xF s.retired r)) s
  if (List.range 8).any (fun r => rasOut s r != 0) then degrade s else s

def bootStep (s : State) : State :=
  match bootStageNo s with
  | 0 => bootPut (calBoot s) 1
  | 1 => if s.sec.booted && s.otp.lcs != 4 then bootPut s 2 else s
  | 2 => if recovering s then s else bootPut (applyRetired s) 3
  | 3 =>
    let st := regGet s .hbmStat 0
    if bit st 0 then s else if fld st 0 8 = 0 then hbmTrain s else bootPut s 4
  | 4 =>
    let s := pump (bootPut s 5)
    report s { src := 0x15, code := 2, sev := 0, info0 := (tget (0 : W32) s.sec.version 1).setWidth 64 }
  | _ => s

/-! Clocks (R568). -/

def slowBad (s : State) (b : Bool) : State :=
  let s := regPut s .pwrStat 0 (setBit (regGet s .pwrStat 0) 0 b)
  if b then pwrEvent s 3 else s

def vglRefLoss (s : State) : State := foldS (List.range 8) (fun p s => if (s.port p).ls == .down then s else portFall s p false) s

/-! Registers of the PWR block. -/

/-- A write of PWR_DOZE: bits that rise request DOZE; bits that fall are wake writes, whose measured time comes with
DOZE_WAKE. -/
def dozeWrite (s : State) (v : W64) : State :=
  dozeRequest (regPut s .pwrDoze 0 (regGet s .pwrDoze 0 &&& v)) ([0, 1].filter (bit v))

end Sys2Proof.Machine
end

