-- ==== Sys2Proof/Machine/Tap.lean ====
section
/-! DEFINITION. The test access port: its instructions, and TRST_N (R589, R600). -/
namespace Sys2Proof.Machine

def tapCode (b : Byte) : TapOp :=
  match b.toNat with
  | 0x00 => .extest
  | 0x01 => .sample
  | 0x02 => .idcode
  | 0x03 => .pulse
  | 0x04 => .train
  | 0x10 => .dbgacc
  | _ => .bypass
def tapDrives : TapOp → Bool
  | .extest => true
  | .pulse => true
  | .train => true
  | _ => false
/-- EXTEST and its pulse and train forms: in FACTORY and DEVELOPMENT, and elsewhere only while PORST_N is low (Table 21.6). -/
def tapAllows (s : State) (op : TapOp) : Bool := !tapDrives op || decide (s.otp.lcs < 2) || s.power.porst
/-- An instruction is loaded; a driving one drives the boundary register. -/
def tapSelect (s : State) (op : TapOp) : State :=
  let op := if tapAllows s op then op else .bypass
  { s with tap := { s.tap with op, driven := if tapDrives op then some s.tap.cells else none } }
/-- A command of the TAP: while TRST_N is not high the TAP stays in Test-Logic-Reset (R589). -/
def tapRun (s t : State) : State := if s.tap.trst then t else s

def idCode : W64 := 0x17820B47

/-- A driving instruction that PORST_N or the life-cycle state no longer allows becomes BYPASS, and every ball returns to its
function (R600). -/
def tapRelease (s : State) : State := if tapAllows s s.tap.op then s else tapSelect s .bypass

/-- The level of TRST_N: low, or open, resets the TAP (R589). -/
def trstPin (s : State) (w : PadInputs) : State :=
  match w.trst with
  | none => s
  | some true => { s with tap := { s.tap with trst := true } }
  | some false =>
    let s := tapSelect s .idcode
    { s with tap := { s.tap with trst := false } }

end Sys2Proof.Machine
end

