-- ==== Sys2Proof/Machine/Security.lean ====
section
/-! DEFINITION. Images, secure boot, the security engine's commands, tamper and the shield cap (chapter 21). -/
namespace Sys2Proof.Machine

/-! Images (R541, Table 21.2). -/

/-- First byte and size of slot b of a KIND in MRAM (Table 22.9). -/
def slotAddr (kind b : Nat) : Nat :=
  if kind = 1 then 0xF8200000 + b * 0x100000 else if kind = 2 then 0xF8400000 + b * 0x200000 else 0xF8800000 + b * 0x100000
def slotSize (kind : Nat) : Nat := if kind = 2 then 0x200000 else 0x100000
def slotBytes (s : State) (kind b : Nat) : List Byte := bytesGet s.mem (slotAddr kind b) (slotSize kind)

def imgKind (i : List Byte) : Nat := leWord i 4 1
def imgKey (i : List Byte) : Nat := leWord i 5 1
def imgVersion (i : List Byte) : W32 := w32 (leWord i 8 4)
def imgSvn (i : List Byte) : Nat := leWord i 12 4
def imgLen (i : List Byte) : Nat := leWord i 16 4
def imgBody (i : List Byte) : List Byte := (i.drop 384).take (imgLen i)
def imgHash (i : List Byte) : List Byte := (i.drop 48).take 48
def imgPub (i : List Byte) : List Byte := (i.drop 96).take 96
def imgSig (i : List Byte) : List Byte := (i.drop 192).take 96

def imgHeaderOk (i : List Byte) : Bool :=
  let k := imgKind i
  decide (384 ≤ i.length) && leWord i 0 4 == 0x474D494B && decide (1 ≤ k) && decide (k ≤ 3) && leWord i 6 2 == 0
    && leWord i 20 28 == 0 && leWord i 288 96 == 0 && decide (imgSvn i ≤ 64) && imgLen i % 64 == 0
    && decide (imgLen i ≤ slotSize k - 384) && decide (384 + imgLen i ≤ i.length) && (k != 3 || decide (leWord i 10 2 = 0))
def rbcOf (s : State) (kind : Nat) : Nat := tget 0 s.otp.rbc kind
/-- Keys that the life-cycle state accepts (Table 21.6). -/
def keyAccepted (s : State) (k : Nat) : Bool :=
  (decide (k < 3) || (k == 3 && decide (s.otp.lcs < 2))) && !tget false s.otp.revoked k && s.otp.lcs != 4

/-- What is wrong with an image (Table 21.5); none is valid. (DEDUCED, log entry 105.) -/
def imgCode (s : State) (i : List Byte) : Option Nat :=
  if !imgHeaderOk i then some 2
  else if !keyAccepted s (imgKey i) then some 3
  else if Config.sha384 (imgPub i) ≠ Config.keyHash (imgKey i) ∨ Config.sha384 (imgBody i) ≠ imgHash i
      ∨ !Config.ecdsaValid (imgPub i) (Config.sha384 (i.take 192)) (imgSig i) then some 4
  else if s.otp.lcs ≠ 0 ∧ imgSvn i < rbcOf s (imgKind i) then some 5
  else none

/-- A word of the image in a slot holds an uncorrectable error (Table 20.1). (DESIGN CHOICE, log entry 67.) -/
def slotBroken (s : State) (kind b : Nat) : Bool :=
  let a := slotAddr kind b
  s.poison.any (fun e => decide (a ≤ e.1 * 8) && decide (e.1 * 8 < a + 384 + imgLen (slotBytes s kind b)))
/-- A slot of a KIND holds a valid image. -/
def slotValid (s : State) (kind b : Nat) : Bool :=
  let i := slotBytes s kind b
  imgKind i == kind && !slotBroken s kind b && (imgCode s i).isNone

/-! Secure boot (R542). -/

/-- The slot of a KIND that boot runs: the valid one with the higher VERSION; 3 is none. -/
def bootSlot (s : State) (kind : Nat) (va vb : Bool) : Nat :=
  if va && vb then (if (imgVersion (slotBytes s kind 0)).toNat < (imgVersion (slotBytes s kind 1)).toNat then 1 else 0)
  else if va then 0 else if vb then 1 else 3

/-- An image of a KIND runs: its version, SVN and body hash, the keys that its body revokes (R541), and for microcode GLB_MC_VER.FVER and GLB_MC_PATCHN.
(DEDUCED, log entry 66.) -/
def runImage (s : State) (kind : Nat) (i : List Byte) : State :=
  let x := s.sec
  let s := { s with sec := { x with version := tset 0 x.version kind (imgVersion i), svn := tset 0 x.svn kind (imgSvn i)
                                    hash := tset [] x.hash kind (imgHash i) } }
  let gone := (List.range 4).foldl (fun t k => if (Config.revokes (imgBody i)).getLsbD k then tset false t k true else t) s.otp.revoked
  let s := { s with otp := { s.otp with revoked := gone } }
  if kind = 3 then
    let s := regPut s .glbMcVer 0 (putFld (regGet s .glbMcVer 0) 16 16 (imgVersion i).toNat)
    -- at most 64 entries, each from the factory area to the patch area (R300)
    let map := ((Config.patchMap (imgBody i)).filter (fun p => decide (p.1 < 0x3000) && decide (0x3000 ≤ p.2) && decide (p.2 < 0x3800))).take 64
    regPut { s with mcImage := imgBody i, patches := map } .glbMcPatchn 0 (w64 map.length)
  else s

def bootKind (s : State) (kind : Nat) : State :=
  let va := slotValid s kind 0
  let vb := slotValid s kind 1
  let k := bootSlot s kind va vb
  let st := putFld (regGet s .secBootstat 0) (2 * (kind - 1)) 2 k
  let st := putFld st (6 + 2 * (kind - 1)) 2 ((!va).toNat + 2 * (!vb).toNat)
  let s := regPut s .secBootstat 0 st
  if k = 3 then s else runImage s kind (slotBytes s kind k)

def runningSlot (s : State) (kind : Nat) : Nat := fld (regGet s .secBootstat 0) (2 * (kind - 1)) 2
/-- No Monitor runs: the boot ROM serves recovery alone (R544). -/
def noMonitor (s : State) : Bool := runningSlot s 1 == 3
/-- The Cellarer firmware and the microcode are verified by the Monitor; without one none of them runs. -/
def bootNone (s : State) (kind : Nat) : State := regPut s .secBootstat 0 (putFld (regGet s .secBootstat 0) (2 * (kind - 1)) 2 3)

/-- DESIGN CHOICE, log entry 73. -/
def secureBoot (s : State) : State :=
  if s.sec.booted || bootStageNo s != 1 || s.otp.lcs == 4 then s
  else
    let s := bootKind s 1
    let s := if noMonitor s then bootNone (bootNone s 2) 3 else bootKind (bootKind s 2) 3
    let lost := [1, 2, 3].any (fun k => runningSlot s k == 3)
    let s := regPut s .secBootstat 0 (setBit (regGet s .secBootstat 0) 12 lost)
    { s with sec := { s.sec with booted := true } }

/-! Commands (R555, Table 21.5). -/

def secBusy (s : State) : Bool := bit (regGet s .secCmdstat 0) 0
def secStart (s : State) (op : SecOp) : State :=
  if secBusy s then s else regPut { s with sec := { s.sec with op := some op } } .secCmdstat 0 1
def secEnd (s : State) (err : Option Nat) : State :=
  regPut { s with sec := { s.sec with op := none } } .secCmdstat 0
    (match err with | none => 2 | some e => w64 (4 + 256 * e))

/-- A command goes on: it is started by its own row, or by the write of SEC_CMD before; another one in progress makes the
block ignore it. -/
def secRun (s : State) (op : SecOp) (f : State → State) : State :=
  let s := secStart s op
  if s.sec.op = some op then f s else s

def secCmdWrite (s : State) (v : W64) : State :=
  match fld v 0 4 with
  | 1 => secStart s .attest
  | 2 => secStart s .update
  | 3 => secStart s .commit
  | 4 => secStart s .lcreq
  | 5 => secStart s .recover
  | _ => s

/-- Bytes 0 to 223 of the report (Table 21.3). -/
def reportBody (s : State) : List Byte :=
  let x := s.sec
  let flags := (bit (regGet s .calStat 0) 0).toNat + 2 * (regGet s .secTampstat 0 != 0 : Bool).toNat
    + 4 * (bit (regGet s .glbRasStat 0) 16).toNat
  let img := fun (k : Nat) => leBytes (tget (0 : W32) x.version k).toNat 4 ++ leBytes (tget 0 x.svn k) 4
  let hash := fun (k : Nat) => (tget [] x.hash k ++ zeroBytes 48).take 48
  leBytes 0x5454414B 4 ++ leBytes 1 2 ++ leBytes s.otp.lcs 1 ++ leBytes flags 1 ++ leBytes Config.devid.toNat 8 ++
    (List.range 8).flatMap (fun i => leBytes (regGet s .secNonce i).toNat 4) ++ img 1 ++ img 2 ++
    leBytes (regGet s .glbMcVer 0).toNat 4 ++ leBytes (tget 0 x.svn 3) 4 ++ leBytes (regGet s .glbMcUcrc 0).toNat 4 ++
    leBytes (x.count + 1).toNat 4 ++ hash 1 ++ hash 2 ++ hash 3

def attest (s : State) : State :=
  secRun s .attest (fun s =>
    if s.otp.lcs = 4 ∨ noMonitor s then secEnd s (some 7)
    else
      let body := reportBody s
      let bytes := body ++ (Config.ecdsaSign (Config.sha384 body) ++ zeroBytes 96).take 96
      let s := foldS (List.range 80) (fun i s => regPut s .secReport i (w64 (leWord bytes (4 * i) 4))) s
      secEnd { s with sec := { s.sec with count := s.sec.count + 1 } } none)

/-- The switch to a new image in a dispatch pause (R545). (DEDUCED, log entry 106.) -/
def updateSwitch (s : State) (kind b : Nat) : State :=
  let i := slotBytes s kind b
  let s := runImage s kind i
  let s := regPut s .secBootstat 0 (putFld (regGet s .secBootstat 0) (2 * (kind - 1)) 2 b)
  let s := { s with sec := { s.sec with switch := none }, power := { s.power with paused := mcBusy s } }
  secEnd (report s { src := 0x15, code := 4, sev := 0, info0 := (imgVersion i).setWidth 64 }) none

/-- What a host read of SEC_ARGLEN bytes from SEC_ARG has brought (R544, R545). (DEDUCED, log entry 146.) -/
def hostImage (s : State) (image : HostImage) : HostImage := image.map (·.take (regGet s .secArglen 0).toNat)

/-- Bytes of the image go to the slot that is not running, at most as many as `most`; once all are there dispatch is paused, and
the switch takes place when no core serves a job. -/
def slotWrite (s : State) (kind b off : Nat) (bs : List Byte) (most : Option Nat) : State :=
  let k := min (most.getD bs.length) bs.length
  let s := bytesStore s (slotAddr kind b + off) (bs.take k)
  if k < bs.length then { s with sec := { s.sec with slot := some (kind, b, off + k, bs.drop k) } }
  else
    let s := { s with sec := { s.sec with slot := none, switch := some (kind, b) }, power := { s.power with paused := true } }
    if coresIdle s then updateSwitch s kind b else s

/-- The Monitor has the image, verifies it and begins to write it. -/
def updateImage (s : State) (image : HostImage) (most : Option Nat) : State :=
  match image with
  | none => secEnd s (some 1)
  | some i => match imgCode s i with
    | some e => secEnd s (some e)
    | none =>
      let kind := imgKind i
      slotWrite s kind (if runningSlot s kind = 0 then 1 else 0) 0 (i.take (384 + imgLen i)) most

/-- UPDATE starts, or goes on where it stood. -/
def update (s : State) (x : Install) : State :=
  secRun s .update (fun s => match s.sec.switch, s.sec.slot with
    | some (kind, b), _ => if coresIdle s then updateSwitch s kind b else s
    | none, some (kind, b, off, bs) => slotWrite s kind b off bs x.most
    | none, none => if s.otp.lcs = 4 ∨ recovering s then secEnd s (some 7) else updateImage s (hostImage s x.image) x.most)

def commitRbc (s : State) : State :=
  secRun s .commit (fun s =>
    if s.otp.lcs = 4 ∨ noMonitor s then secEnd s (some 7)
    else
      let r := [1, 2, 3].foldl (fun t k => tset 0 t k (max (tget 0 t k) (tget 0 s.sec.svn k))) s.otp.rbc
      secEnd { s with otp := { s.otp with rbc := r } } none)

/-- RECOVER installs an image into the first invalid slot of its kind, or slot A, and resets the device (R544). -/
def recoverImage (s : State) (i : List Byte) : State :=
  let kind := imgKind i
  let b := if !slotValid s kind 0 then 0 else if !slotValid s kind 1 then 1 else 0
  warmReset (bytesStore s (slotAddr kind b) (i.take (384 + imgLen i))) 3

/-- The recovering code reads the image into a bay of the Cellar that it holds as owner 0xA, in force at the slice; a word that the
image covers in part keeps its mark (R338). (DESIGN CHOICE, log entry 162.) -/
def recoverBay (s : State) (i : List Byte) : State :=
  let b := Config.recoveryBay % 64
  let s := bytesStore s (bayRange b).1 (i.take (2 ^ 22))
  s.setBay b { s.bay b with owner := 0xA, force := 0xA, coming := [] }

def recover (s : State) (image : HostImage) : State :=
  secRun s .recover (fun s =>
    if s.otp.lcs = 4 ∨ !recovering s then secEnd s (some 7)
    else match hostImage s image with
      | none => secEnd s (some 1)
      | some i =>
        let s := recoverBay s i
        match imgCode s i with
        | some e => secEnd s (some e)
        | none => if runningSlot s 1 = 3 ∧ imgKind i ≠ 1 then secEnd s (some 2) else recoverImage s i)

/-! The Vaults (R550, R551). -/

/-- Both Vaults become zero with valid check bits. -/
def wipeVaults (s : State) : State :=
  { s with mem := bytesClear s.mem 0xFA000000 0xFA200000
           poison := s.poison.filter (fun e => !(0xFA000000 ≤ e.1 * 8 && e.1 * 8 < 0xFA200000)) }

/-! Life cycle (R547, R548). -/

/-- Transitions the host alone may ask for; the return to DEVELOPMENT needs an authorisation (Table 21.4). -/
def lcAllowed (a b : Nat) : Bool :=
  (a == 0 && (b == 1 || b == 2)) || (a == 1 && (b == 2 || b == 4)) || (a == 2 && (b == 3 || b == 4)) || (a == 3 && b == 4)

/-- Steps 3 to 5 of R548 once no job is left: the Vaults are wiped, the fuses blow, the device resets; the new state may take a
driving TAP instruction away (R600). -/
def lcFinish (s : State) (b : Nat) : State :=
  if !s.jobs.isEmpty then s
  else
    let s := wipeVaults s
    tapRelease (warmReset { s with otp := { s.otp with lcs := b, keyGone := s.otp.keyGone || b == 4 } } 3)
/-- A transition is accepted: dispatch stops, and every running job ends with status 0x40, DETAIL 0x08; the rest follows when
they have completed. (DEDUCED, log entry 177.) -/
def lcMove (s : State) (b : Nat) : State := lcFinish (jobsEndAll { s with sec := { s.sec with move := some b } } 8) b

def lcreq (s : State) (auth : HostImage) : State :=
  secRun s .lcreq (fun s => if let some b := s.sec.move then lcFinish s b else
    let a := s.otp.lcs
    let b := fld (regGet s .secArglen 0) 0 3
    if noMonitor s then secEnd s (some 7)
    else if lcAllowed a b then lcMove s b
    else if a = 2 ∧ b = 1 then match auth with
      | none => secEnd s (some 1)
      | some x => if Config.authorised (x.take 192) then lcMove s b else secEnd s (some 6)
    else secEnd s (some 6))

/-! Tamper (R552, R553). -/

def tampResp (s : State) : Nat := fld (regGet s .secTampcfg 0) 1 2

/-- The hold of RESP 2 follows what the Monitor does as for RESP 1: once no job runs and nothing waits to be logged, 100 µs after the
event at the latest. (DESIGN CHOICE, log entry 174.) -/
def tamperHold (s : State) : State :=
  match s.sec.holdDue with
  | none => s
  | some t => if (s.jobs.isEmpty && s.reports.isEmpty) || decide (t + 50000 ≤ s.tick) then warmReset s 3 else s

/-- DEDUCED, log entry 107. -/
def tamper (s : State) (src : Nat) : State :=
  if src = 0 ∧ !bit (regGet s .secTampcfg 0) 0 then s
  else
    let s := wipeVaults s
    let s := regCount (regPut s .secTampstat 0 (setBit (regGet s .secTampstat 0) src true)) .secTampcnt 0 1
    let s := if src = 0 then { s with sec := { s.sec with held := true } } else s
    if inReset s then s
    else match tampResp s with
    | 0 => s
    | 1 => deviceEffects s 4 true      -- an UPDATE continues (Table 21.9)
    | _ =>
      let s := deviceError s 4 true
      { s with sec := { s.sec with holdDue := some (s.sec.holdDue.getD s.tick) } }

def tamperRelease (s : State) : State := { s with sec := { s.sec with held := false } }

/-- A write of SEC_TAMPCFG: PINEN and RESP are locked by LOCK. -/
def tampcfgWrite (s : State) (v : W64) : State :=
  let old := regGet s .secTampcfg 0
  let w := if bit old 3 then old else regMerge (regRow .secTampcfg) old v
  regPut s .secTampcfg 0 (setBit w 3 (bit old 3 || bit v 3))
def tamperLock (s : State) : State := regPut s .secTampcfg 0 (setBit (regGet s .secTampcfg 0) 3 true)

/-- SYSCLK is lost: a clock tamper, and the device is held in reset (R568). -/
def sysclkLoss (s : State) : State :=
  let s := tamper s 2
  { s with power := { s.power with sysLost := true } }
def sysclkReturn (s : State) : State :=
  if s.power.sysLost then
    let s := { s with power := { s.power with sysLost := false } }
    if s.power.porst then s else warmReset s 4
  else s

/-! Shield cap (R554). -/

/-- The Monitor applies what was asked for. -/
def shcapWrite (s : State) (v : W64) : State := regPut s .secShcap 0 (w64 (fld v 16 16 * 65537))
def shcapRequest (s : State) (q : W16) : State := regPut s .secShcap 0 (w64 (q.toNat * 65537))
def shieldCap (s : State) : Nat := fld (regGet s .secShcap 0) 0 16

/-- A write to the SEC block. -/
def secRegWrite (s : State) (r : RegName) (i : Nat) (v : W64) : State :=
  match r with
  | .secCmd => secCmdWrite s v
  | .secShcap => shcapWrite s v
  | .secTampcfg => tampcfgWrite s v
  | r => regCommit s r i v

def secRegRead (s : State) (r : RegName) (i : Nat) : W64 :=
  match r with
  | .secLcs => w64 s.otp.lcs
  | .secRbc => w64 (rbcOf s (i + 1))
  | .secDevid => Config.devid
  | .secDevpub => (Config.devpub i).setWidth 64
  | r => regGet s r i

end Sys2Proof.Machine
end

