-- ==== Sys2Proof/Machine/CoreRegs.lean ====
section
/-! DEFINITION. The control registers of a core (Table 4.3) as `mfcr`, `mtcr` and the debug port reach them, with the
privilege rules of R112, R306 and R319. -/
namespace Sys2Proof.Machine

/-- Lowest level that may read or write a control register; 3 is read-only, none is no register (Table 4.3). -/
def crAccess (n : Nat) : Option (Nat × Nat) :=
  if n = 7 then some (1, 3)
  else if n = 8 ∨ n = 9 then some (0, 0)
  else if n = 0xA ∨ n = 0xB ∨ n = 0xC then some (0, 3)
  else if n ≤ 0x11 ∨ (0x20 ≤ n ∧ n ≤ 0x3F) then some (1, 1)
  else none

/-- Reads of these taint at U and S (R89). -/
def crTaints (n : Nat) : Bool := n == 0xA || n == 0xB

/-- Bits that a write of a control register may change. -/
def crMask (n : Nat) : W64 :=
  match n with
  | 0 | 1 => 0x17F
  | 3 => 0x3FFFF
  | 5 => 0xFFFFFFFFFFFF
  | 6 => 0xFFFF
  | 8 => 0xF
  | 9 => 0x1F1F07
  | 0xD => 0xFFFFFFFF
  | 0x10 => 0x80000000000000FF
  | 0x11 => 0xFFFFFFFFFFC0
  | n => if 0x20 ≤ n ∧ n ≤ 0x2F then 0xFFFFFFFFFFCF
    else if 0x30 ≤ n ∧ n ≤ 0x3F then 0xFFFFFFFFFFC0
    else w64 m64

def mergeMask (m old v : W64) : W64 := (old &&& ~~~ m) ||| (v &&& m)

/-- COREID: logical slot, row, physical slot. -/
def coreId (s : State) (n : Nat) : W64 := w64 (n % 8 + 8 * (n / 8) + 64 * physSlot s n)

/-- The value of a control register at the present CCLK. -/
def crRead (s : State) (n cr : Nat) : W64 :=
  let c := s.core n
  match cr with
  | 0 => c.status
  | 1 => c.estatus
  | 2 => c.epc
  | 3 => c.ecause
  | 4 => c.einfo
  | 5 => c.evec
  | 6 => c.shieldLimit
  | 7 => w64 (shieldCount s c)
  | 8 => c.vstat
  | 9 => c.fpctl
  | 0xA => w64 s.cclk
  | 0xB => coreId s n
  | 0xC => c.jobid
  | 0xD => c.erpt
  | 0xE => c.ediva
  | 0xF => c.edivb
  | 0x10 => c.edivd
  | 0x11 => c.vctx
  | k => if 0x20 ≤ k ∧ k ≤ 0x2F then tget 0 c.mpuBase (k - 0x20)
    else if 0x30 ≤ k ∧ k ≤ 0x3F then tget 0 c.mpuLimit (k - 0x30)
    else 0

/-- A write of STATUS or ESTATUS at S that would set M, and not U, is a privilege fault (R305, R306). -/
def crDenied (lvl cr : Nat) (v : W64) : Bool := decide (cr < 2) && decide (lvl < 2) && bit v 1 && !bit v 0

/-- Bits of STATUS or ESTATUS that a write of v over old may change at a level: M only at M, and neither U nor M where
both would be 1 (R304, R306, Table 11.1). (DEDUCED, log entry 135.) -/
def statusMask (lvl : Nat) (old v : W64) : W64 :=
  let m := if lvl < 2 then bit old 1 else bit v 1
  if bit v 0 && (bit v 1 || m) then 0x17C else if lvl < 2 then 0x17D else 0x17F

/-- A write of STATUS: SH going from 0 to 1 loads the shield (R318, R319). -/
def statusWrite (s : State) (n lvl : Nat) (v : W64) : State :=
  let c := s.core n
  let lim := fld c.shieldLimit 0 16
  let w := mergeMask (statusMask lvl c.status v) c.status v
  if bit w 4 && !bit c.status 4 then
    if lim = 0 then s.setCore n (c.setStatus s.cclk (setBit w 4 false))
    else s.setCore n { c with status := w, shieldEnd := s.cclk + lim, shieldHeld := lim }
  else
    -- the written SH and SHD stand where the shield expires in this CCLK (R330)
    let c := if shieldOver s c then { c with shieldEnd := 0 } else c
    s.setCore n (c.setStatus s.cclk w)

/-- A write of VSTAT or FPCTL stands as if every older vector instruction had completed (R234). -/
def Core.suppress (c : Core) (v : Bool) : Core :=
  { c with viq := c.viq.map (fun x => if x.released then x else if v then { x with suppV := true } else { x with suppF := true }) }

/-- FPCTL: rounding modes 5 to 7 are reserved encodings and leave RM (R11, R239). -/
def fpctlMask (v : W64) : W64 := if 5 ≤ fld v 0 3 then 0x1F1F00 else 0x1F1F07

/-- A write of a control register at a level that may write it.  For VSTAT and FPCTL a vector operation in the bundle of the
`mtcr` counts as older (R234). (DESIGN CHOICE, log entry 130.) -/
def crWrite (s : State) (n lvl cr : Nat) (v : W64) : State :=
  let c := s.core n
  let m := crMask cr
  match cr with
  | 0 => statusWrite s n lvl v
  | 1 => s.setCore n { c with estatus := mergeMask (statusMask lvl c.estatus v) c.estatus v }
  | 2 => s.setCore n { c with epc := v }
  | 3 => s.setCore n { c with ecause := mergeMask m c.ecause v }
  | 4 => s.setCore n { c with einfo := v }
  | 5 => s.setCore n { c with evec := mergeMask m c.evec v }
  | 6 => s.setCore n { c with shieldLimit := if lvl < 2 then w64 (min (fld v 0 16) (shieldCap s)) else v &&& m }
  | 8 => s.setCore n (({ c with vstat := v &&& m } : Core).suppress true)
  | 9 => s.setCore n (({ c with fpctl := mergeMask (fpctlMask v) c.fpctl v } : Core).suppress false)
  | 0xD => s.setCore n { c with erpt := v &&& m }
  | 0xE => s.setCore n { c with ediva := v }
  | 0xF => s.setCore n { c with edivb := v }
  | 0x10 => s.setCore n { c with edivd := v &&& m }
  | 0x11 => s.setCore n { c with vctx := v &&& m }
  | k =>
    if 0x20 ≤ k ∧ k ≤ 0x2F then s.setCore n { c with mpuBase := tset 0 c.mpuBase (k - 0x20) (v &&& m) }
    else if 0x30 ≤ k ∧ k ≤ 0x3F then s.setCore n { c with mpuLimit := tset 0 c.mpuLimit (k - 0x30) (v &&& m) }
    else s

/-- `mfcr` of VSTAT or FPCTL (R234): the register waits for every older vector instruction; entries before `lo` were
suppressed by a younger write. -/
def statReadOf (c : Core) (reg : Nat) (supp : Vop → Bool) (now : W64) : StatRead :=
  { reg, lo := c.viq.foldl (fun m v => if supp v && !v.released then max m (v.seqn + 1) else m) 0, pos := c.seqn, acc := now,
    hand := c.vf }

end Sys2Proof.Machine
end

