-- ==== Sys2Proof/Machine/Debug.lean ====
section
/-! DEFINITION. Debug (chapter 24): halting and stepping a core, its registers through DBG_k_RDATA, and the test access
port. -/
namespace Sys2Proof.Machine

/-! Halting (R603 to R605). -/

/-- Core n halts at a bundle boundary: the press stops, and the shield count is held. -/
def haltCore (s : State) (n cause hit : Nat) : State :=
  let c := s.core n
  let held := shieldCount s c
  let c := c.stopPress s
  trace (s.setCore n { c with halted := true, haltReq := false, haltCause := cause, ibpHit := hit, haltAt := c.pc, stepping := false,
                              shieldHeld := held, wait := .none }) 2 0 n (c.pc.setWidth 32)

/-- A halt request: a core that serves no job keeps it for its next job start. (DEDUCED, log entry 114.) -/
def haltRequest (s : State) (n : Nat) : State :=
  let c := s.core n
  if c.halted then s
  else if c.serving then s.setCore n { c with haltReq := true }
  else s.setCore n { c with haltPend := true }

/-- RESUME, or STEP: the core runs from DBG_k_PC; a breakpoint that halted it does not match that bundle again.
(DEDUCED, log entry 115.) -/
def haltRelease (s : State) (n : Nat) (step : Bool) : State :=
  let c := s.core n
  if !c.halted then s
  else
    trace (s.setCore n { c with halted := false, haltCause := 0, ibpHit := 0, stepping := step, ibpSkip := c.haltCause == 4 && c.pc == c.haltAt,
                                shieldEnd := if c.shieldEnd = 0 then 0 else s.cclk + c.shieldHeld, notBefore := s.cclk, fetchErr := none }) 2 1 n (c.pc.setWidth 32)

/-- Instruction breakpoints of core n that match the bundle at its pc (R605): never at M. -/
def ibpMatch (s : State) (n : Nat) : Nat :=
  let c := s.core n
  if c.level = 2 ∨ c.ibpSkip then 0
  else (List.range 4).foldl (fun m j =>
    let w := regGet s .dbgIbp (4 * n + j)
    if bit w 0 && decide (fld w 2 46 = fld c.pc 2 62) && decide (fld c.pc 0 2 = 0) then m + 2 ^ j else m) 0

/-- What a boundary takes for the debugger: a halt request, the end of a step, a breakpoint. The wait of a `jend` that shared
its bundle is no boundary. (DEDUCED, log entry 31.) -/
def debugBoundary (s : State) (n : Nat) : Option State :=
  let c := s.core n
  if c.level = 2 ∨ c.wait = .jend then none
  else if c.haltReq then some (haltCore s n 1 0)
  else if ibpMatch s n ≠ 0 ∧ c.wait = .none then some (haltCore s n 4 (ibpMatch s n))
  else none

/-! Registers of a halted core (R606). -/

/-- Bits of word q of a stream descriptor that can be written (Tables 6.3 and 6.5). -/
def sdWordMask (q : Nat) : W64 := if q = 0 then 0xFFFFFFFFFFFFFF else if q = 3 then 0xFFFFFFFFFFFFFFF else w64 m64
def sdPutWord (d : BitVec 256) (q : Nat) (v : W64) : BitVec 256 := putFld d (64 * q) 64 (v &&& sdWordMask q).toNat
def Core.setSd (c : Core) (k : Nat) (d : BitVec 256) : Core := { c with sd := tset 0 c.sd k d }
def Core.setB (c : Core) (k : Nat) (v : W64) : Core := { c with b := tset 0 c.b k v }

def dbgSel (s : State) (n : Nat) : Nat × Nat × Nat :=
  let w := regGet s .dbgRsel n
  (fld w 8 3, fld w 0 8, fld w 12 6)

def dbgRead (s : State) (n : Nat) : W64 :=
  let c := s.core n
  let (cls, num, word) := dbgSel s n
  if !c.halted then 0
  else match cls with
    | 0 => if num < 32 then c.gr num else 0
    | 1 => if num < 8 then c.ar num else 0
    | 2 => if num < 8 then c.mr num else 0
    | 3 => c.lc.setWidth 64
    | 4 => if (crAccess num).isSome then crRead s n num else 0
    | 5 => if num < 16 ∧ word < 4 then w64 (fld (c.sdr num) (64 * word) 64) else 0
    | 6 => if num < 32 then w64 (fld (c.cask num) (64 * word) 64) else 0
    | _ => if num = 0 then c.pc else if num = 1 then c.rpt.setWidth 64
      else if 8 ≤ num ∧ num < 16 then c.br (num - 8) else 0

def dbgWrite (s : State) (n lvl : Nat) (v : W64) : State :=
  let c := s.core n
  let (cls, num, word) := dbgSel s n
  if !c.halted then s
  else match cls with
    | 0 => if num < 32 then s.setCore n (c.setG num v) else s
    | 1 => if num < 8 then s.setCore n { c with a := tset 0 c.a num v } else s
    | 2 => if num < 8 then s.setCore n { c with m := tset 0 c.m num v } else s
    | 3 => s.setCore n { c with lc := v.setWidth 32 }
    | 4 => match crAccess num with
      | some (_, w) => if w ≤ lvl then crWrite s n lvl num v else s
      | none => s
    | 5 => if num < 16 ∧ word < 4 then s.setCore n (c.setSd num (sdPutWord (c.sdr num) word v)) else s
    | 6 => if num < 32 then s.setCore n { c with casks := tset 0 c.casks num (putFld (c.cask num) (64 * word) 64 v.toNat) } else s
    | _ => if num = 0 then s.setCore n { c with pc := v } else if num = 1 then s.setCore n { c with rpt := v.setWidth 32 }
      else if 8 ≤ num ∧ num < 16 then s.setCore n (c.setB (num - 8) v) else s

/-! The DBG block (R611, Table 24.7). -/

/-- The block is there for the host and the debug port. -/
def dbgOpen (s : State) : Bool := s.otp.lcs != 2 && s.otp.lcs != 4

def dbgCtrlWrite (s : State) (n : Nat) (v : W64) : State :=
  let s := regPut s .dbgCtrl n (v &&& 8)
  let s := if bit v 0 then haltRequest s n else s
  let s := if bit v 1 then haltRelease s n false else s
  if bit v 2 then haltRelease s n true else s
def dbgCtrlRead (s : State) (n : Nat) : W64 :=
  let c := s.core n
  regGet s .dbgCtrl n ||| w64 (c.haltReq || c.haltPend).toNat

def dbgStatRead (s : State) (n : Nat) : W64 :=
  let c := s.core n
  w64 (c.halted.toNat + 2 * c.haltPend.toNat + 4 * c.haltCause + 32 * c.serving.toNat + 64 * c.ibpHit)

/-- TRCTL: setting EN starts a new count for STOPFULL (R610). -/
def dbgTrctlWrite (s : State) (v : W64) : State :=
  let was := bit (regGet s .dbgTrctl 0) 0
  let s := regCommit s .dbgTrctl 0 v
  if !was && bit v 0 then { s with traceCnt := 0 } else s

/-! The test access port (R600 to R602). -/

/-- Level of the debug port; it is absent in DEPLOYED and SCRAPPED (Table 21.6). (DEDUCED, log entry 108.) -/
def portLevel (s : State) : Option Nat :=
  if s.otp.lcs = 0 then some 2 else if dbgOpen s then some 1 else none

/-- Capture-DR of DBGACC (Table 24.3). -/
def dbgCapture (s : State) : State :=
  let w := if (portLevel s).isNone then 0
    else s.tap.data.toNat + respCode s.tap.resp * 2 ^ 64 + s.tap.acc.isSome.toNat * 2 ^ 66
  { s with readBytes := leBytes w 15, readData := w64 (w % 2 ^ 64) }

/-- Update-DR of DBGACC: with GO one access of the given size, its address aligned down. -/
def dbgUpdate (s : State) (r : BitVec 116) : State :=
  let size := 2 ^ fld r 112 2
  let a := fld r 64 48
  if bit r 115 && s.tap.acc.isNone && (portLevel s).isSome then
    let acc : DbgAcc := { addr := a / size * size, size, wr := bit r 114, data := w64 (fld r 0 64) }
    { s with tap := { s.tap with acc := some acc } }
  else s

end Sys2Proof.Machine
end

