-- ==== Sys2Proof/Machine/Control.lean ====
section
/-! DEFINITION. The control space as an address space (R6 to R18, R614): which register an offset names, what reading and
writing a register does, staging and snapshots, and the rules by which an access is rejected or kept out. -/
namespace Sys2Proof.Machine

def regs0 : List RegName :=
  [.glbMcVer, .glbMcUcrc, .glbMcUaddr, .glbMcUctrl, .glbMcUstat, .glbMcUerra,
   .glbMcPatchn, .glbHlStat, .glbHlEvt, .glbHlEvten, .glbBadaccCnt, .glbBadaccLog,
   .glbBadaccClr, .glbRasCfg, .glbRasStat, .glbRasIrq, .glbRasLognext, .glbRasLogidx,
   .glbRasLogdata, .glbRasRow, .calPage, .calStat, .pwrBoot, .pwrStrap,
   .pwrRst, .pwrRowrst, .pwrOpp, .pwrRowpwr, .pwrCorecfg, .pwrDoze,
   .pwrDozestat, .pwrWake]
def regs1 : List RegName :=
  [.pwrWaketime, .pwrDozetime, .pwrStat, .pwrEvt, .pwrEvten, .pwrCalArg,
   .pwrCalCmd, .pwrCalStat, .rkRCfg, .rkREpoch, .rkRSqbase, .rkRCqbase,
   .rkRCidx, .rkRDone, .rkRMod, .rkRStat, .rkRPidx, .rkRLstamp,
   .rkDbbase, .rkGrpbase, .rkPoll, .rkCmd, .rkCmdstat, .rkEvt,
   .rkEvten, .rkStoplog, .rkLogclr, .trPrio, .trRl, .trEvt,
   .trEvten, .trOvsub]
def regs2 : List RegName :=
  [.trDeccnt, .trDeclog, .trLogclr, .trBrce, .trShimcnt, .celOwn,
   .celBpwr, .celScrubCtrl, .celScrubInt, .celScrubPass, .celEvt, .celEvten,
   .celCecnt, .celUecnt, .celUelog, .celOecnt, .celOelog, .celLogclr,
   .hbmCfg, .hbmCtrl, .hbmStat, .hbmEvt, .hbmEvten, .hbmPprThr,
   .hbmCecnt, .hbmUecnt, .hbmUelog, .hbmPpr, .hbmTemp, .hbmTrain,
   .hbmLogclr, .axCfg]
def regs3 : List RegName :=
  [.axSrc, .axAux, .axCtrl, .axInc, .axLoadv, .axZval,
   .axOffs, .axNum, .axDen, .axStallt, .axTmo, .axSwrate,
   .axValue, .axRate, .axZcap, .axZerr, .axStat, .axErrcnt,
   .axEdgecnt, .axState, .axEvt, .axEvten, .axPin, .alCfg,
   .alHyst, .alTarget, .alIntv, .alRoute, .alPin, .alCore,
   .alSlog, .alSbase]
def regs4 : List RegName :=
  [.alCtrl, .alStat, .alK, .alNext, .alObs, .alLatecnt,
   .alEvt, .alEvten, .tmrCfg, .tmrPsc, .tmrPer, .tmrCmp0,
   .tmrCmp1, .tmrOcfg, .tmrSlv, .tmrCapcfg, .tmrIrq, .tmrIrqen,
   .tmrLoad, .tmrCtrl, .tmrStat, .tmrCnt, .tmrPera, .tmrCapPair,
   .tmrMissed, .tmrEvt, .tmrEvten, .k5Ctl, .k5Cnt, .k5Cmp,
   .k5Cap, .k5Sts]
def regs5 : List RegName :=
  [.k5Pin, .vglCfg, .vglStat, .vglTscfg, .vglTsint, .vglHbint,
   .vglDelay, .vglCecnt, .vglUecnt, .vglCrccnt, .vglRplcnt, .vglTrncnt,
   .vglUnmcnt, .vglHbcnt, .vglCred, .vglInCfg, .vglInNslot, .vglInBase,
   .vglInOrigin, .vglInPitch, .vglInSlotsz, .vglInCtrl, .vglInStat, .vglInFrmcnt,
   .vglInErrcnt, .vglEgCfg, .vglEgLen, .vglEgSrc, .vglEgCtrl, .vglEgStat,
   .vglEgFrmcnt, .vglEgDropcnt]
def regs6 : List RegName :=
  [.vglEvt, .vglEvten, .rowIpend, .rowIen, .rowIswi, .secLcs,
   .secBootstat, .secCmd, .secCmdstat, .secArg, .secArglen, .secNonce,
   .secShcap, .secTampcfg, .secTampstat, .secTampcnt, .secRbc, .secDevid,
   .secViolcnt, .secDevpub, .secReport, .dbgCtrl, .dbgStat, .dbgRsel,
   .dbgRdata, .dbgPc, .dbgIbp, .dbgTrctl, .dbgTrnext, .dbgTrdrop,
   .dbgTrbuf]
/-- Every register name. -/
def allRegs : List RegName := regs0 ++ regs1 ++ regs2 ++ regs3 ++ regs4 ++ regs5 ++ regs6

/-- The number of the register of name r whose lowest byte lies at an offset. -/
def regIndex (r : RegName) (off : Nat) : Option Nat :=
  let w := regRow r
  if off < w.base then none
  else
    let d := off - w.base
    let bank := if 1 < w.banks then d / w.bankStride else 0
    let e := d - bank * w.bankStride
    if bank < w.banks ∧ e % w.stride = 0 ∧ e / w.stride < w.count then some (bank * w.count + e / w.stride) else none

/-- The register at an offset. -/
def findReg (off : Nat) : Option (RegName × Nat) := allRegs.findSome? (fun r => (regIndex r off).map (fun i => (r, i)))

/-! Values. -/

/-- The value a register reads as. -/
def regValue (s : State) (r : RegName) (i : Nat) : W64 :=
  match r with
  | .glbHlStat => hlStatRead s
  | .glbRasStat => rasStatRead s
  | .glbRasLogdata => logData s i
  | .rkRStat => ringStatRead s i
  | .trOvsub => ovsubRead s
  | .celOwn => w64 ((s.bay i).owner + (s.bay i).res * 2 ^ 16)
  | .celBpwr => w64 (bayPowerCode (s.bay i).power + 16 * (s.bay i).busy.toNat)
  | .axValue => (busVal s (axisDie i) i).value
  | .axRate => axRate s i
  | .axZcap => (s.axis i).core.zcap
  | .axZerr => (s.axis i).core.zerr
  | .axStat => axStatRead s i
  | .axEdgecnt => (s.axis i).core.edgecnt.setWidth 64
  | .axState => axStateRead s i
  | .axPin => axPinRead s i
  | .alStat => alStatRead s i
  | .alK => (s.alarm i).k
  | .alNext => (s.alarm i).next
  | .alObs => (s.alarm i).obs
  | .tmrStat => tmStatRead s i
  | .tmrCnt => if tmCompat s i then 0 else (s.timer i).cnt.setWidth 64
  | .tmrPera => (s.timer i).perA.setWidth 64
  | .tmrCapPair => tmCapRead s i
  | .k5Ctl | .k5Cnt | .k5Cmp | .k5Cap | .k5Sts | .k5Pin => k5Read s i r
  | .vglStat => vglStatRead s i
  | .vglCred => vglCredRead s i
  | .vglEgStat => egStatRead s i
  | .secLcs | .secRbc | .secDevid | .secDevpub => secRegRead s r i
  | .dbgCtrl => dbgCtrlRead s i
  | .dbgStat => dbgStatRead s i
  | .dbgRdata => dbgRead s i
  | .hbmStat => hbmStatRead s
  | .dbgPc => if (s.core i).halted then (s.core i).pc else 0
  | r => regGet s r i

/-- What a read does to the register: it clears a counter (R9); a read of the capture pair or its low half clears NEW (R475). -/
def readEffect (s : State) (r : RegName) (i : Nat) : State :=
  if (regRow r).rc then regPut s r i 0
  else match r with
    | .tmrCapPair => tmClearNew s i
    | _ => s

/-! Writes. -/

/-- Who writes an ownership register (R343). -/
def ownAgentOf (ag : Agent) : OwnAgent :=
  if ag.master < 8 then .core ag.master ag.level else if ag.master = mCellarer then .cellarer else .host

/-- A committed write to a register, with every action its description names. -/
def regWrite (s : State) (ag : Agent) (r : RegName) (i : Nat) (v : W64) : State :=
  match r with
  | .glbMcUctrl => mcCtrlWrite s v
  | .glbBadaccClr => badaccClear s v
  | .pwrRst => if bit v 0 then warmReset s 1 else s
  | .pwrRowrst => rowRstWrite s v
  | .pwrOpp => oppRequest s v
  | .pwrRowpwr => rowPowerWrite s v
  | .pwrDoze => dozeWrite s v
  | .pwrCalCmd => calCmdWrite s v
  | .rkRCfg | .rkREpoch | .rkRSqbase | .rkRCqbase | .rkRCidx | .rkRMod => ringRegWrite s i r v
  | .rkCmd => rkCmdWrite s v
  | .rkLogclr => rkLogClear s v
  | .trPrio => trPrioWrite s i v
  | .trRl => trRlWrite s i v
  | .trLogclr => trLogClear s v
  | .celOwn => ownWrite s i (fld v 8 4) (fld v 12 4) (ownAgentOf ag) ag.core
  | .celBpwr => bayPowerWrite s i (fld v 0 2)
  | .celLogclr => celLogclr s i v
  | .hbmCtrl => if bit v 0 then hbmTrain s else s
  | .hbmLogclr => if bit v 0 then regPut s .hbmUelog i 0 else s
  | .axCfg | .axSrc | .axAux | .axCtrl | .axInc | .axLoadv | .axZval | .axOffs | .axNum | .axDen | .axStallt | .axTmo
  | .axSwrate | .axStat => axRegWrite s i r v
  | .axPin => axPinWrite s i v
  | .alCfg | .alHyst | .alTarget | .alIntv | .alRoute | .alPin | .alCore | .alSlog | .alSbase => alWordWrite s i r v
  | .alCtrl => alCtrlWrite s i v
  | .tmrCfg | .tmrPsc | .tmrPer | .tmrCmp0 | .tmrCmp1 | .tmrOcfg | .tmrSlv | .tmrCapcfg | .tmrIrq | .tmrIrqen | .tmrLoad
  | .tmrCtrl | .tmrStat => tmRegWrite s i r v
  | .k5Ctl | .k5Cnt | .k5Cmp | .k5Pin => k5Write s i r v
  | .k5Sts => k5StsWrite s i v
  | .vglCfg => vglCfgWrite s i v
  | .vglInCfg | .vglInNslot | .vglInBase | .vglInOrigin | .vglInPitch | .vglInSlotsz | .vglInCtrl | .vglInStat => inRegWrite s i r v
  | .vglEgCfg | .vglEgLen | .vglEgSrc | .vglEgCtrl | .vglEgStat => egRegWrite s i r v
  | .rowIswi => foldS ((List.range 8).filter (bit v)) (fun j s => raiseIrq s i j) s
  | .secCmd | .secShcap | .secTampcfg | .secArg | .secArglen | .secNonce => secRegWrite s r i v
  | .dbgCtrl => dbgCtrlWrite s i v
  | .dbgRdata => dbgWrite s i ag.level v
  | .dbgTrctl => dbgTrctlWrite s v
  | r => regCommit s r i v

/-! Staging and snapshots (R13 to R16). -/

/-- Any access to a 64-bit register ends its snapshot. -/
def dropSnap (s : State) (off : Nat) : State := { s with snap := tset none s.snap off none }
def dropStage (s : State) (off : Nat) : State := { s with stage := tset none s.stage off none }
/-- A 64-bit access to a register by a command of its own ends its snapshot (R16). -/
def endSnap (s : State) (r : RegName) (i : Nat) : State := if (regRow r).wide then dropSnap s (regOff r i) else s
/-- A 64-bit write by a command of its own is a commit: nothing stays staged (R13). -/
def endStage (s : State) (r : RegName) (i : Nat) : State :=
  if (regRow r).wide then dropStage (dropSnap s (regOff r i)) (regOff r i) else s
def lowHalf (v : W64) : W32 := v.setWidth 32
def highHalf (v : W64) : W32 := (v >>> 32).setWidth 32
def joinHalves (lo hi : W32) : W64 := hi ++ lo

/-! The MSI-X table at 0x3800000 and the pending bits at 0x3808000: they are no set-up registers, and each DW is read and
written on its own (R402). -/

def msixBase : Nat := 0x3800000
def pbaBase : Nat := 0x3808000
def inMsix (off : Nat) : Bool := decide (msixBase ≤ off) && decide (off < pbaBase + 256)
/-- The DW that holds an offset. -/
def msixDw (s : State) (off : Nat) : W32 :=
  if off < pbaBase then msixRead s ((off - msixBase) / 16) ((off - msixBase) / 4 % 4) else pbaWord s ((off - pbaBase) / 4)
def msixBytes (s : State) (off n : Nat) : List Byte := (List.range n).map (fun i => (msixDw s (off + i)).extractLsb' ((off + i) % 4 * 8) 8)
/-- The enabled bytes of one DW are written: the others keep their values. -/
def msixPutDw (s : State) (dw : Nat) (bs : List (Nat × Byte)) : State :=
  if pbaBase ≤ dw ∨ bs.isEmpty then s
  else msixWrite s ((dw - msixBase) / 16) ((dw - msixBase) / 4 % 4) (bs.foldl (fun w b => putFld w (b.1 % 4 * 8) 8 b.2.toNat) (msixDw s dw))
/-- A write of many bytes writes its DWs in ascending order (R402). -/
def msixPut (s : State) (off : Nat) (data : List (Option Byte)) : State :=
  let bs := data.zipIdx.filterMap (fun p => p.1.map (fun b => (off + p.2, b)))
  foldS ((List.range (data.length / 4 + 2)).map (fun i => off / 4 * 4 + 4 * i)) (fun dw s => msixPutDw s dw (bs.filter (fun b => b.1 / 4 * 4 == dw))) s

/-- A 32-bit read at a 4-byte-aligned offset. -/
def read32 (s : State) (off : Nat) : State × W32 :=
  match findReg off with
    | some (r, i) =>
      let v := regValue s r i
      let s := readEffect s r i
      if (regRow r).wide then ({ s with snap := tset none s.snap off (some (highHalf v)) }, lowHalf v) else (s, lowHalf v)
    | none =>
      if off < 4 then (s, 0)
      else match findReg (off - 4) with
      | some (r, i) =>
        if !(regRow r).wide then (s, 0)
        else match tget none s.snap (off - 4) with
          | some x => (dropSnap s (off - 4), x)
          | none => (s, highHalf (regValue s r i))
      | none => (s, 0)

/-- A 32-bit write at a 4-byte-aligned offset: the low half of a 64-bit register is staged, its high half commits both.
(DEDUCED, log entry 9.) -/
def write32 (s : State) (ag : Agent) (off : Nat) (x : W32) : State :=
  match windowFrozen s off with
  | some t => t
  | none => match findReg off with
    | some (r, i) =>
      if (regRow r).wide then { dropSnap s off with stage := tset none s.stage off (some x) }
      else regWrite s ag r i (x.setWidth 64)
    | none =>
      if off < 4 then s
      else match findReg (off - 4) with
      | some (r, i) =>
        if !(regRow r).wide then s
        else
          let o := off - 4
          let lo := match tget none s.stage o with
            | some y => y
            | none => lowHalf (regValue s r i &&& ~~~ (w64 (regRow r).w1c))   -- the committed low half is kept
          regWrite (dropStage (dropSnap s o) o) ag r i (joinHalves lo x)
      | none => s

/-- A 64-bit read or write: of one 64-bit register, or of the two offsets it covers, the lower first (R15, R614). -/
def read64 (s : State) (off : Nat) : State × W64 :=
  match findReg off with
  | some (r, i) =>
    if (regRow r).wide then (dropSnap (readEffect s r i) off, regValue s r i)
    else
      let (s, lo) := read32 s off
      let (s, hi) := read32 s (off + 4)
      (s, joinHalves lo hi)
  | none =>
    let (s, lo) := read32 s off
    let (s, hi) := read32 s (off + 4)
    (s, joinHalves lo hi)

/-- The lower half goes first; of AX_n_CFG and AX_n_SRC the higher, so that an axis is enabled with its new source (R64).
(DESIGN CHOICE, log entry 149.) -/
def write64 (s : State) (ag : Agent) (off : Nat) (v : W64) : State :=
  match windowFrozen s off, findReg off with
  | some t, _ => t
  | none, some (r, i) =>
    if (regRow r).wide then regWrite (dropStage (dropSnap s off) off) ag r i v
    else if r = .axCfg then write32 (write32 s ag (off + 4) (highHalf v)) ag off (lowHalf v)
    else write32 (write32 s ag off (lowHalf v)) ag (off + 4) (highHalf v)
  | none, none => write32 (write32 s ag off (lowHalf v)) ag (off + 4) (highHalf v)

/-! Who may reach what. -/

/-- The die whose registers lie at an offset (Table 0.5, R23). -/
def offDie (off : Nat) : Nat := (rightBlock off).toNat
def inPwr (off : Nat) : Bool := 0x200000 ≤ off && off < 0x400000
def inCal (off : Nat) : Bool := 0x100000 ≤ off && off < 0x200000
def inSec (off : Nat) : Bool := 0x3000000 ≤ off && off < 0x3400000
def inDbg (off : Nat) : Bool := 0x3400000 ≤ off && off < 0x3800000
def inGlb (off : Nat) : Bool := off < 0x100000

/-- The register blocks of a dozing die read 0 and ignore writes; the PWR block is always on (R564).  The DBG block is
absent in DEPLOYED and SCRAPPED (R611). -/
def offServed (s : State) (off : Nat) : Bool :=
  (inPwr off || (!(s.die 0).doze && !(s.die (offDie off)).doze)) && (!inDbg off || dbgOpen s)

/-- A write that its block does not serve at the requester's level, and whether it is a violation that the target counts
(R540, R611). -/
def writeBarred (ag : Agent) (off : Nat) : Option Bool :=
  if inSec off then (if ag.master = mRk1 ∨ 2 ≤ ag.level then none else some true)
  else if inCal off then (if 2 ≤ ag.level then none else some true)
  else if inDbg off ∧ ag.master < 8 ∧ ag.level < 2 then some false
  else none

/-- A legal size and alignment (R12). -/
def ctlAligned (off len : Nat) : Bool := (len == 4 && off % 4 == 0) || (len == 8 && off % 8 == 0)

/-- The block serves this requester: to the cores of the Right Bank the PWR block of a dozing Left Bank is a block of that die,
which reads 0 and ignores writes (R564). -/
def servesAgent (s : State) (ag : Agent) (off : Nat) : Bool :=
  offServed s off && !(inPwr off && (s.die 0).doze && decide (4 ≤ ag.master) && decide (ag.master < 8))

/-- A read of the control space.  An access that no block serves, or that is discarded, is no access to the register: what is
staged and what a snapshot holds stay (R13, R16). (DESIGN CHOICE, log entry 148.) -/
def controlRead (s : State) (ag : Agent) (off len : Nat) : State × List Byte :=
  if inMsix off then (s, if offServed s off then msixBytes s off len else zeroBytes len)
  else if !ctlAligned off len then (badAccess s off ag.master len false, zeroBytes len)
  else if !servesAgent s ag off then (s, zeroBytes len)
  else if len = 8 then
    let (s, v) := read64 s off
    (s, leBytes v.toNat 8)
  else
    let (s, v) := read32 s off
    (s, leBytes v.toNat 4)

/-- A write of the control space. -/
def controlWrite (s : State) (ag : Agent) (off : Nat) (bs : List Byte) : State :=
  if inMsix off then (if offServed s off then msixPut s off (bs.map some) else s)
  else if !ctlAligned off bs.length then badAccess s off ag.master bs.length true
  else if !servesAgent s ag off then s
  else match writeBarred ag off with
    | some v => if v then violation s else s
    | none => if bs.length = 8 then write64 s ag off (w64 (leNat bs)) else write32 s ag off (w32 (leNat bs))

end Sys2Proof.Machine
end

