-- ==== Sys2Proof/Machine/Access.lean ====
section
/-! DEFINITION. Accesses by their whole path: a transaction of any master to any target, the host's BAR0 and BAR2, the
debug port, stamp records and launch stamps. -/
namespace Sys2Proof.Machine

def ctlBase : Nat := 0xF0000000
/-- The master has a path to the control space (Table 14.3). -/
def ctlPath (ag : Agent) : Bool := hasPath ag.master 9

/-- A read inside one aligned 64-byte block, at any target. -/
def busRead (s : State) (ag : Agent) (a n : Nat) (chk : Check) : State × Resp × List Byte :=
  if target s a = .control then
    if ctlPath ag then
      let (s, bs) := controlRead s ag (a - ctlBase) n
      (s, .ok, bs)
    else (decodeError s ag a false true false, .decErr, zeroBytes n)
  else memRead s ag a n chk

/-- A write inside one aligned 64-byte block, at any target. -/
def busWrite (s : State) (ag : Agent) (a : Nat) (bs : List Byte) (chk : Check) : State × Resp :=
  if target s a = .control then
    if ctlPath ag then (controlWrite s ag (a - ctlBase) bs, .ok)
    else (decodeError s ag a true true false, .decErr)
  else memWrite s ag a bs chk

/-- A bit write (R615): in the control space it is an access of one byte, which R12 rejects. -/
def busBitWrite (s : State) (ag : Agent) (a k : Nat) (v : Bool) (chk : Check) : State × Resp :=
  if target s a = .control then busWrite s ag a [0] chk else memBitWrite s ag a k v chk

/-! Accesses of the cores: a partner core's writes go no further than its row (R101, R102). -/

def coreRead (s : State) (n level a len : Nat) (chk : Check) : State × Resp × List Byte :=
  let x := busRead s (coreAgent s n level) a len chk
  (x.1, x.2.1, if x.2.1 = .ok then shadowOver s n a x.2.2 else x.2.2)
def coreWrite (s : State) (n level a : Nat) (bs : List Byte) (chk : Check) : State :=
  if (s.core n).partner then shadowPut s n level a 0xFF bs else (busWrite s (coreAgent s n level) a bs chk).1
def coreBitWrite (s : State) (n level a k : Nat) (v : Bool) (chk : Check) : State :=
  if (s.core n).partner then shadowPut s n level a (setBit 0 k true) [setBit 0 k v]
  else (busBitWrite s (coreAgent s n level) a k v chk).1

/-! The host's BARs (R395 to R399). -/

/-- DEDUCED, log entry 10. -/
def hostAgent : Agent := { master := mRk1, level := 1, owned := false }

/-- Offsets that BAR0 serves: in recovery and in SCRAPPED only some blocks (R544, R549), and before stage 5 of a boot
after a warm device reset only the PWR block (R572). -/
def bar0Serves (s : State) (off : Nat) : Bool :=
  if s.otp.lcs = 4 then inSec off
  else if recovering s then inGlb off || inSec off
  else if bootStageNo s < 5 ∧ fld (regGet s .pwrBoot 0) 8 3 ≠ 0 then inPwr off
  else true

def queueReply (s : State) (status : Nat) (bs : List Byte) : State :=
  s.setLink { s.link with reads := s.link.reads ++ [{ status, data := bs }] }

/-- A BAR0 read TLP: one access, or a rejected one (R396). -/
def bar0Read (s : State) (off len : Nat) (whole : Bool) : State :=
  if !inMsix off && !(whole && ctlAligned off len) then queueReply (badAccess s off mRk1 len false) 0 (zeroBytes len)
  else if !bar0Serves s off then queueReply s 0 (zeroBytes len)
  else
    let (s, bs) := controlRead s hostAgent off len
    queueReply s 0 bs

/-- The enabled bytes of a write TLP: offset of the first, and the bytes when they are contiguous. -/
def enabledRun (off : Nat) (data : List (Option Byte)) : Nat × Option (List Byte) :=
  let skip := (data.takeWhile Option.isNone).length
  let rest := data.drop skip
  let run := rest.takeWhile Option.isSome
  let tail := rest.drop run.length
  (off + skip, if tail.all Option.isNone then some (run.filterMap id) else none)

/-- A BAR0 write TLP: one access when its enabled bytes form one aligned unit (R396). (DEDUCED, log entry 12.) -/
def bar0Write (s : State) (off : Nat) (data : List (Option Byte)) : State :=
  if inMsix off then (if bar0Serves s off && offServed s off then msixPut s off data else s)
  else match enabledRun off data with
  | (o, some bs) =>
    if !ctlAligned o bs.length then badAccess s o mRk1 bs.length true
    else if !bar0Serves s o then s
    else controlWrite s hostAgent o bs
  | (o, none) => badAccess s o mRk1 (data.filterMap id).length true

/-- An unsupported request (R399, R401). -/
def unsupported (s : State) (read : Bool) (header : BitVec 128) : State :=
  let s := s.setLink (s.link.error aerUnsupported header)
  if read then queueReply s 1 [] else s

/-- The function answers memory requests: Memory Space Enable is 1 and it is in D0 (R399, Table 15.1). -/
def Link.mayServe (l : Link) : Bool := l.mse && !l.cfg.d3
/-- A write longer than Max_Payload_Size is malformed (R398). -/
def tooLong (s : State) (wr : Bool) (len : Nat) : Bool := wr && decide (s.link.mps < len)
def malformed (s : State) (header : BitVec 128) : State := s.setLink (s.link.error aerMalformed header)

def bar0Access (s : State) (off : Nat) (wr : Bool) (len : Nat) (data : List (Option Byte)) : State :=
  if !s.link.isUp then s
  else if tooLong s wr len then malformed s (memHeader s.link wr (s.link.cfg.bar0 + w64 off) len)
  else if !s.link.mayServe then unsupported s (!wr) (memHeader s.link wr (s.link.cfg.bar0 + w64 off) len)
  else if bridgeDown s && rightBlock off then s
  else if wr then bar0Write s off data
  else bar0Read s off len (data.all Option.isSome)

/-- The oldest waiting read of the link is completed (R397). -/
def bar0Complete (s : State) : State :=
  match s.link.reads with
  | [] => s
  | r :: rest => s.setLink { s.link with reads := rest, reply := some r }

/-- A read that fails is answered with Completer Abort (R398, R401). -/
def completerAbort (s : State) (header : BitVec 128) : State := queueReply (s.setLink (s.link.error aerAborted header)) 2 []

/-- A BAR2 read: transactions inside 64-byte blocks in ascending order. -/
def bar2Read (s : State) (off len : Nat) (chk : Check) : State :=
  let (s, err, bs) := readSpan s hostAgent off len chk
  match err with
  | some _ => completerAbort s (memHeader s.link false (s.link.cfg.bar2 + w64 off) len)
  | none => queueReply s 0 bs

/-- Runs of enabled bytes inside aligned 8-byte words, lowest first: address and bytes. -/
def byteRuns : Nat → List (Option Byte) → List (Nat × List Byte)
  | _, [] => []
  | a, none :: r => byteRuns (a + 1) r
  | a, some b :: r =>
    match byteRuns (a + 1) r with
    | (k, bs) :: t => if k = a + 1 ∧ k % 8 ≠ 0 then (a, b :: bs) :: t else (a, [b]) :: (k, bs) :: t
    | [] => [(a, [b])]

/-- A BAR2 write: one transaction with byte enables for each aligned 64-byte block (R375, R398). -/
def bar2Put (s : State) (off : Nat) (data : List (Option Byte)) (chk : Check) : State :=
  let runs := byteRuns off data
  ((runs.map (fun r => r.1 / 64)).dedup).foldl (fun s b => cellarRuns s hostAgent (runs.filter (fun r => r.1 / 64 == b)) chk) s

/-- A BAR2 access; while the Left Bank dozes the Racking Engine is off: it stores nothing and answers with Completer Abort (R564). -/
def bar2Access (s : State) (off : Nat) (wr : Bool) (len : Nat) (data : List (Option Byte)) (chk : Check) : State :=
  if !s.link.isUp then s
  else if tooLong s wr len then malformed s (memHeader s.link wr (s.link.cfg.bar2 + w64 off) len)
  else if !s.link.mayServe || !bar2Present s then unsupported s (!wr) (memHeader s.link wr (s.link.cfg.bar2 + w64 off) len)
  else if bridgeHolds s mRk1 off (if wr then data.length else len) then s
  else if wr then (if (s.die 0).doze then s else bar2Put s off data chk)
  else if (s.die 0).doze then completerAbort s (memHeader s.link wr (s.link.cfg.bar2 + w64 off) len)
  else bar2Read s off len chk

/-- Inbound problems that are not part of a BAR access (Table 15.3). -/
def inbound (s : State) (w : InboundError) : State :=
  if !s.link.isUp then s
  else match w with
  | .outsideRead => unsupported s true (tlpHeader s.link 0x20000000)
  | .outsideWrite => unsupported s false (tlpHeader s.link 0x60000000)
  | .poisonedWrite => s.setLink (s.link.error aerPoisoned (tlpHeader s.link 0x60004000))
  | .unexpectedCompletion => s.setLink (s.link.error aerUnexpected (tlpHeader s.link 0x4A000000))

/-! The debug port (R602). -/

/-- The access of the debug port is answered. -/
def debugAnswer (s : State) (chk : Check) : State :=
  match s.tap.acc, portLevel s with
  | some x, some lvl =>
    if bridgeHolds s mDebug x.addr x.size then s else
    let ag : Agent := { master := mDebug, level := lvl, owned := false }
    if x.wr then
      let (s, r) := busWrite s ag x.addr (leBytes x.data.toNat x.size) chk
      { s with tap := { s.tap with acc := none, resp := r } }
    else
      let (s, r, bs) := busRead s ag x.addr x.size chk
      { s with tap := { s.tap with acc := none, resp := r, data := w64 (leNat bs) } }
  | some _, none => { s with tap := { s.tap with acc := none } }
  | none, _ => s

/-! Stamp records (R453) and launch stamps (R454). -/

def stampAgent : Agent := { master := mRk1, level := 1 }
/-- The 16 bytes of a stamp record. -/
def stampBytes (a : Action) : List Byte := leBytes a.stamp.toNat 8 ++ leBytes (fld a.k 0 32 + a.alarm % 2048 * 2 ^ 32) 8
def stampAddr (a : Action) : Nat := a.base.toNat + a.k.toNat % 2 ^ fld a.word 0 5 * 16

/-- The record is written, and the words that it covers in part are read and checked; its response is on its way back. -/
def stampWrite (s : State) (n : Nat) (chk : Check := {}) : State :=
  match dueAction s n .stamp with
  | none => s
  | some a =>
    if bridgeHolds s mRk1 (stampAddr a) 16 then s else
    let s := dropAction s a
    -- in the control space it is rejected wherever it lies (R12, R453)
    let (s, r) := if target s (stampAddr a) = .control then (badAccess s (stampAddr a - ctlBase) mRk1 16 true, Resp.ok)
      else busWrite s stampAgent (stampAddr a) (stampBytes a) chk
    { s with stampAns := s.stampAns ++ [(n, r)] }

/-- The oldest response for the alarm comes back. -/
def stampAnswer (s : State) (n : Nat) : State :=
  match s.stampAns.find? (fun p => p.1 == n) with
  | none => s
  | some p =>
    let s := { s with stampAns := s.stampAns.erase p }
    if p.2 = .decErr ∨ p.2 = .datErr then alEvent s n 11 2 else s

end Sys2Proof.Machine
end

