-- ==== Sys2Proof/Machine/StewardOps.lean ====
section
/-! DEFINITION. The scalar instructions of the steward, syllable by syllable (chapter 05): fields, legality, registers
read and written, and results. -/
namespace Sys2Proof.Machine

/-! Register keys: 0–31 g, 32–39 a, 40–47 m, 48 LC. -/

def keyA (k : Nat) : Nat := 32 + k
def keyLc : Nat := 48
def Core.readKey (c : Core) (k : Nat) : W64 :=
  if k < 32 then c.gr k else if k < 40 then c.ar (k - 32) else if k < 48 then c.mr (k - 40) else c.lc.setWidth 64
def Core.writeKey (c : Core) (k : Nat) (v : W64) : Core :=
  if k < 32 then c.setG k v else if k < 40 then { c with a := tset 0 c.a (k - 32) v }
  else if k < 48 then { c with m := tset 0 c.m (k - 40) v } else { c with lc := v.setWidth 32 }

/-- Sign-extend the low n bits of v to 64 bits. -/
def sx (v : W64) (n : Nat) : W64 := if n = 0 then 0 else iw64 (let x := fld v 0 n; if 2 ^ (n - 1) ≤ x then (x : Int) - 2 ^ n else x)
def sxFld (y : W32) (lo n : Nat) : W64 := sx (w64 (fld y lo n)) n

/-! Slots A and B: fields (Table 5.1). -/

def abOp (y : W32) : Nat := fld y 22 6
def abD (y : W32) : Nat := fld y 17 5
def abSA (y : W32) : Nat := fld y 12 5
def abSB (y : W32) : Nat := fld y 7 5
def abSub (y : W32) : Nat := fld y 0 7
def abSC (y : W32) : Nat := fld y 0 5

/-- Legality of a syllable in slot A or B (R138, R139, R142, R145): the DETAIL of its fault. -/
def movClassOk (cl r : Nat) : Bool := if cl = 3 then r == 0 else cl == 0 || decide (r < 8)
def abIllegal (slotB : Bool) (y : W32) : Option Nat :=
  let op := abOp y
  if 0x24 ≤ op ∧ op ≤ 0x2F ∧ !slotB then some 3
  else if 0x30 ≤ op then none
  else if op = 0x23 then
    if fld y 4 3 = 0 ∧ abSB y = 0 ∧ movClassOk (fld y 0 2) (abD y) ∧ movClassOk (fld y 2 2) (abSA y) then none else some 2
  else if 0x15 ≤ op ∧ op ≤ 0x19 then (if fld y 5 2 = 0 then none else some 2)
  else if abSub y ≠ 0 then some 2
  else if op = 0x1F then (if abSB y ≤ 8 then none else some 2)
  else if op = 0x25 ∨ op = 0x26 then (if abD y % 2 = 0 ∧ abD y ≠ 0 then none else some 2)
  else none

def movKey (cl r : Nat) : Nat := match cl with | 0 => r | 1 => 32 + r | 2 => 40 + r | _ => keyLc

/-- Registers that a syllable of slot A or B reads. -/
def abReads (y : W32) : List Nat :=
  let op := abOp y
  if op = 0x23 then [movKey (fld y 2 2) (abSA y)]
  else if op = 0x3F then (if bit y 16 then [abD y] else [])
  else if op = 0x3E then [abSA y, abD y]
  else if 0x30 ≤ op ∨ op = 0x1F then [abSA y]
  else if op = 0x22 then [abSA y, abSB y, abD y]
  else if 0x15 ≤ op ∧ op ≤ 0x19 then [abSA y, abSB y, abSC y]
  else [abSA y, abSB y]
/-- Registers that it writes. -/
def abWritesKeys (y : W32) : List Nat :=
  let op := abOp y
  if op = 0x23 then [movKey (fld y 0 2) (abD y)]
  else if op = 0x25 ∨ op = 0x26 then [abD y, abD y + 1]
  else [abD y]

/-! Integer semantics (R140 to R145). -/

def shl (a : W64) (n : Nat) : W64 := if 64 ≤ n then 0 else a <<< n
def shr (a : W64) (n : Nat) : W64 := if 64 ≤ n then 0 else a >>> n
def sar (a : W64) (n : Nat) : W64 := a.sshiftRight (min n 63)
def rotl (a : W64) (n : Nat) : W64 := let k := n % 64; if k = 0 then a else (a <<< k) ||| (a >>> (64 - k))
def rotr (a : W64) (n : Nat) : W64 := rotl a (64 - n % 64)
def b2w (b : Bool) : W64 := w64 b.toNat
def carryOf (a b c : W64) : Bool := decide (2 ^ 64 ≤ a.toNat + b.toNat + (bit c 0).toNat)
def borrowOf (a b c : W64) : Bool := decide (a.toNat < b.toNat + (bit c 0).toNat)
def addOv (a b : W64) : Bool := let s := a + b; bit a 63 == bit b 63 && bit s 63 != bit a 63
def subOv (a b : W64) : Bool := let s := a - b; bit a 63 != bit b 63 && bit s 63 != bit a 63
/-- Byte permute (R144). -/
def permByte (a b : W64) (i : Nat) : Nat := if bit b (4 * i + 3) then 0 else fld a (8 * fld b (4 * i) 3) 8
def permb (a b : W64) : W64 := w64 ((List.range 8).foldl (fun n i => n + permByte a b i * 2 ^ (8 * i)) 0)

/-- Bit fields (R143): position and width. -/
def bfMask (pos w : Nat) : W64 := maskAt 64 0 (min w (64 - pos))
def bfext (a : W64) (pos w : Nat) : W64 := shr a pos &&& bfMask pos w
def bfexts (a : W64) (pos w : Nat) : W64 := sx (bfext a pos w) (min w (64 - pos))
def bfins (d a : W64) (pos w : Nat) : W64 := (d &&& ~~~ (shl (bfMask pos w) pos)) ||| shl (a &&& bfMask pos w) pos

def slt (a b : W64) : Bool := decide (a.toInt < b.toInt)
def sle (a b : W64) : Bool := decide (a.toInt ≤ b.toInt)
def ult (a b : W64) : Bool := decide (a.toNat < b.toNat)
def ule (a b : W64) : Bool := decide (a.toNat ≤ b.toNat)

/-- The unary group (Table 5.3). -/
def unary (k : Nat) (a : W64) : W64 :=
  match k with
  | 0 => 0 - a
  | 1 => if a = w64 (2 ^ 63) then w64 (2 ^ 63 - 1) else 0 - a
  | 2 => w64 (leadZeros a 64)
  | 3 => w64 (trailZeros a 64)
  | 4 => w64 (popcount a)
  | 5 => sx a 8
  | 6 => sx a 16
  | 7 => sx a 32
  | _ => a &&& w64 m32

/-- Operations of format AR but moves, multiplies into pairs and divides (Table 5.2). -/
def aluReg (op : Nat) (a b c d : W64) (sb : Nat) : W64 :=
  match op with
  | 0x00 => a + b
  | 0x01 => a - b
  | 0x02 => a &&& b
  | 0x03 => a ||| b
  | 0x04 => a ^^^ b
  | 0x05 => a &&& ~~~ b
  | 0x06 => shl a b.toNat
  | 0x07 => shr a b.toNat
  | 0x08 => sar a b.toNat
  | 0x09 => rotl a b.toNat
  | 0x0A => rotr a b.toNat
  | 0x0B => b2w (a == b)
  | 0x0C => b2w (a != b)
  | 0x0D => b2w (slt a b)
  | 0x0E => b2w (ult a b)
  | 0x0F => b2w (sle a b)
  | 0x10 => b2w (ule a b)
  | 0x11 => if slt b a then b else a
  | 0x12 => if slt a b then b else a
  | 0x13 => if ult b a then b else a
  | 0x14 => if ult a b then b else a
  | 0x15 => if c ≠ 0 then a else b
  | 0x16 => a + b + b2w (bit c 0)
  | 0x17 => b2w (carryOf a b c)
  | 0x18 => a - b - b2w (bit c 0)
  | 0x19 => b2w (borrowOf a b c)
  | 0x1A => b2w (addOv a b)
  | 0x1B => b2w (subOv a b)
  | 0x1C => sx (a + b) 32
  | 0x1D => sx (a - b) 32
  | 0x1E => permb a b
  | 0x1F => unary sb a
  | 0x20 => bfext a (fld b 0 6) (fld b 8 7)
  | 0x21 => bfexts a (fld b 0 6) (fld b 8 7)
  | 0x22 => bfins d a (fld b 0 6) (fld b 8 7)
  | 0x24 => a * b
  | 0x27 => sx (a * b) 32
  | _ => 0

/-- Operations of formats AI, AF and AL. -/
def aluImm (y : W32) (a d : W64) : W64 :=
  let i := sxFld y 0 12
  let n := fld y 0 12
  let pos := fld y 6 6
  let wid := fld y 0 6
  match abOp y with
  | 0x30 => a + i
  | 0x31 => a &&& i
  | 0x32 => a ||| i
  | 0x33 => a ^^^ i
  | 0x34 => shl a n
  | 0x35 => shr a n
  | 0x36 => sar a n
  | 0x37 => rotr a n
  | 0x38 => b2w (a == i)
  | 0x39 => b2w (slt a i)
  | 0x3A => b2w (ult a i)
  | 0x3B => sx (a + i) 32
  | 0x3C => bfext a pos wid
  | 0x3D => bfexts a pos wid
  | 0x3E => bfins d a pos wid
  | _ => if bit y 16 then (d <<< 16) ||| w64 (fld y 0 16) else sxFld y 0 16

/-- The 128-bit product of `mulw` and `mulwu`: low and high halves (R142). -/
def mulPair (signed : Bool) (a b : W64) : W64 × W64 :=
  let p : Int := if signed then a.toInt * b.toInt else (a.toNat : Int) * (b.toNat : Int)
  (iw64 p, iw64 (p / 2 ^ 64))

/-- `divide` of R140: operation 0 signed quotient, 1 unsigned quotient, 2 signed remainder, 3 unsigned remainder. -/
def divOp (op : Nat) (wide : Bool) (a b : W64) : W64 :=
  let w := if wide then 64 else 32
  let sgn := op % 2 = 0
  let rd := fun (v : W64) => if sgn then (sx v w).toInt else ((fld v 0 w : Nat) : Int)
  let x := rd a
  let y := rd b
  let q := if y = 0 then -1 else x.tdiv y
  let r := if y = 0 then x else x - q * y
  sx (iw64 (if op < 2 then q else r)) w

def isDiv (y : W32) : Bool := 0x28 ≤ abOp y && abOp y ≤ 0x2F
def isMul (y : W32) : Bool := 0x24 ≤ abOp y && abOp y ≤ 0x27
def isNegs (y : W32) : Bool := abOp y == 0x1F && abSB y == 1

/-- Registers and values that a syllable of slot A or B writes, but for a divide. -/
def abResult (c : Core) (y : W32) : List (Nat × W64) :=
  let op := abOp y
  let a := c.gr (abSA y)
  let d := c.gr (abD y)
  if isDiv y then []
  else if op = 0x23 then [(movKey (fld y 0 2) (abD y), c.readKey (movKey (fld y 2 2) (abSA y)))]
  else if 0x30 ≤ op then [(abD y, aluImm y a d)]
  else
    let b := c.gr (abSB y)
    if op = 0x25 ∨ op = 0x26 then
      let p := mulPair (op == 0x25) a b
      [(abD y, p.1), (abD y + 1, p.2)]
    else [(abD y, aluReg op a b (c.gr (abSC y)) d (abSB y))]

/-! Slot M (R146 to R150). -/

def mForm (y : W32) : Nat := fld y 26 2
def mStore (y : W32) : Bool := bit y 25
def mTyp (y : W32) : Nat := fld y 22 3
def mG (y : W32) : Nat := fld y 17 5
def mBase (y : W32) : Nat := fld y 12 5
def mAreg (y : W32) : Nat := fld y 14 3
def mAmode (y : W32) : Nat := fld y 12 2
def mSize (y : W32) : Nat := 2 ^ (mTyp y / 2)
def mSigned (y : W32) : Bool := mTyp y % 2 == 1
def mImm (y : W32) : W64 := sxFld y 0 12

def mIllegal (y : W32) : Option Nat :=
  if mForm y = 3 ∨ mTyp y = 7 ∨ (mStore y ∧ mTyp y % 2 = 1) ∨ (mForm y = 2 ∧ fld y 0 5 ≠ 0) then some 2 else none

def mReads (y : W32) : List Nat :=
  (if mStore y then [mG y] else []) ++
  (match mForm y with
   | 0 => [mBase y]
   | 1 => if 2 ≤ mAmode y then [keyA (mAreg y), 40 + mAreg y] else [keyA (mAreg y)]
   | _ => [mBase y, fld y 7 5])
def mWrites (y : W32) : List Nat :=
  (if mStore y then [] else [mG y]) ++ (if mForm y = 1 ∧ mAmode y ≠ 0 then [keyA (mAreg y)] else [])

/-- The address of the access (Table 5.6). -/
def mAddr (c : Core) (y : W32) : W64 :=
  match mForm y with
  | 0 => c.gr (mBase y) + mImm y
  | 1 => if mAmode y = 0 then c.ar (mAreg y) + mImm y else c.ar (mAreg y)
  | _ => c.gr (mBase y) + shl (c.gr (fld y 7 5)) (fld y 5 2)

/-- Smallest power of two not below n. -/
def nextPow2 (n : Nat) : Nat := 2 ^ ((List.range 33).find? (fun k => decide (n ≤ 2 ^ k))).getD 32
def moduloUpdate (a mk : W64) (inc : W64) : W64 :=
  let len := fld mk 0 32
  if len = 0 then a + inc
  else
    let p := nextPow2 len
    let start := a.toNat / p * p
    let off : Int := (((a.toNat - start : Nat) : Int) + inc.toInt) % (len : Int)
    w64 (start + off.toNat)
def bitrevUpdate (a mk : W64) (inc : W64) (sh : Nat) : W64 :=
  let w := min (fld mk 32 6) (48 - sh)
  if w = 0 then a
  else
    let ix := fld a sh w
    let step := fld (inc.sshiftRight sh) 0 w
    putFld a sh w (revBits ((revBits ix w + revBits step w) % 2 ^ w) w)
/-- A[AREG] after the bundle. -/
def mUpdate (c : Core) (y : W32) : List (Nat × W64) :=
  if mForm y ≠ 1 then []
  else
    let k := mAreg y
    match mAmode y with
    | 1 => [(keyA k, c.ar k + mImm y)]
    | 2 => [(keyA k, moduloUpdate (c.ar k) (c.mr k) (mImm y))]
    | 3 => [(keyA k, bitrevUpdate (c.ar k) (c.mr k) (mImm y) (mTyp y / 2))]
    | _ => []

/-! Slot X (R152). -/

def xOp (y : W32) : Nat := fld y 23 5
def xG (y : W32) : Nat := fld y 18 5
def xCr (y : W32) : Nat := fld y 10 8
def xL (y : W32) : Bool := bit y 22
def xCode (y : W32) : Nat := fld y 0 16
def xAxis (y : W32) : Nat := fld y 13 5
def xDisp (y : W32) : W64 := if xOp y = 3 ∨ xOp y = 4 then sxFld y 0 23 else sxFld y 0 18

def xIllegal (y : W32) : Option Nat :=
  let zero := fun (lo n : Nat) => fld y lo n = 0
  let ok := match xOp y with
    | 0x00 | 0x01 | 0x03 | 0x04 => true
    | 0x02 => decide (zero 18 5)
    | 0x05 | 0x06 | 0x10 | 0x12 => decide (zero 0 18)
    | 0x07 => decide (zero 16 6)
    | 0x08 | 0x09 => decide (zero 0 10)
    | 0x0A | 0x0B => decide (zero 16 7)
    | 0x0C | 0x0D | 0x0E | 0x0F => decide (zero 0 23)
    | 0x11 => decide (zero 0 13)
    | _ => false
  if ok then none else some 2

def xReads (y : W32) : List Nat :=
  match xOp y with
  | 0x00 | 0x01 | 0x05 | 0x06 | 0x09 | 0x10 | 0x11 | 0x12 => [xG y]
  | 0x02 => [keyLc]
  | 0x07 => if xL y then [keyLc] else []
  | _ => []
def xWrites (y : W32) : List Nat :=
  match xOp y with
  | 0x02 => [keyLc]
  | 0x04 | 0x06 => [31]
  | 0x08 => [xG y]
  | _ => []

/-! Moves of slot V (R179, R207, R209). -/

def isMove (y : W32) : Bool := 0x70 ≤ vOp y && vOp y ≤ 0x75
def isVsave (y : W32) : Bool := vOp y == 0x7C
def isVrestore (y : W32) : Bool := vOp y == 0x7D

/-- Bits [20:19] are 0, and a move that names no word has q = 0. (DEDUCED, log entry 32.) -/
def moveIllegal (y : W32) : Option Nat :=
  let d := specOf (vDst y)
  let a := specOf (vS1 y)
  let isS := fun (x : Option Spec) => match x with | some (.stream _) => true | _ => false
  let isG := fun (x : Option Spec) => match x with | some (.greg _) => true | _ => false
  let isB := fun (x : Option Spec) => match x with | some (.bcast _) => true | _ => false
  let kinds := match vOp y with
    | 0x70 | 0x72 | 0x73 => isS d && isG a
    | 0x71 => isG d && isS a
    | 0x74 => isB d && isG a
    | _ => isG d && isB a
  if !(vX y) && fld y 19 2 == 0 && kinds && (decide (vOp y ≤ 0x71) || fld y 17 2 == 0) then none else some 2
def saveIllegal (y : W32) : Option Nat := if !(vX y) && vTy y == 0 && vDst y == 0x40 && vS1 y == 0x40 then none else some 2

def specNo : Option Spec → Nat
  | some (.stream k) => k
  | some (.bcast k) => k
  | some (.greg r) => r
  | _ => 0
def vReads (y : W32) : List Nat :=
  if isMove y ∧ vOp y ≠ 0x71 ∧ vOp y ≠ 0x75 then [specNo (specOf (vS1 y))] else []
def vWrites (y : W32) : List Nat := match specOf (vDst y) with | some (.greg r) => [r] | _ => []

/-- A move takes effect (Table 6.6); g holds the registers before the bundle. -/
def moveApply (old c : Core) (y : W32) : Core :=
  let d := specNo (specOf (vDst y))
  let a := specNo (specOf (vS1 y))
  let q := fld y 17 2
  match vOp y with
  | 0x70 => c.setSd d (sdPutWord (c.sdr d) q (old.gr a))
  | 0x71 => c.setG d (w64 (fld (old.sdr a) (64 * q) 64))
  | 0x72 => c.setSd d (putFld (c.sdr d) 0 48 (fld (old.gr a) 0 48))
  | 0x73 => c.setSd d (putFld (c.sdr d) 64 32 (fld (old.gr a) 0 32))
  | 0x74 => c.setB d (old.gr a)
  | _ => c.setG d (old.br a)

end Sys2Proof.Machine
end

