-- ==== Sys2Proof/Machine/SaveArea.lean ====
section
/-! DEFINITION. `vsave` and `vrestore` (R325, R326): the save area of Tables 11.6 to 11.8 and the restart record of
Table 10.8. -/
namespace Sys2Proof.Machine

def areaLen : Nat := 9536
def areaRecord : Nat := 8256
def areaMagic : Nat := 0x5651

/-! Writing the area. -/

def opndSd : Opnd → BitVec 256
  | .stream d => d
  | _ => 0
def opndB : Opnd → W64
  | .bcast v => v
  | _ => 0
def b256 (d : BitVec 256) : List Byte := leBytes d.toNat 32
def eflags (v : Vop) : Nat := v.started.toNat + 2 * v.suppV.toNat + 4 * v.suppF.toNat + 8 * v.exempt.toNat

/-- One entry (Table 11.8). -/
def entryBytes (v : Vop) : List Byte :=
  leBytes v.syl0.toNat 4 ++ leBytes (if vX v.syl0 then v.syl1.toNat else 0) 4 ++ leBytes v.priv 1 ++ leBytes (eflags v) 1 ++
  zeroBytes 2 ++ leBytes v.p 4 ++ leBytes v.pack 4 ++ leBytes v.fpc.toNat 4 ++
  leBytes (opndB v.s1).toNat 8 ++ leBytes (opndB v.s2).toNat 8 ++ leBytes (opndB v.s3).toNat 8 ++ zeroBytes 16 ++
  b256 (opndSd v.dst) ++ b256 (opndSd v.s1) ++ b256 (opndSd v.s2) ++ b256 (opndSd v.s3) ++ b256 (opndSd v.mask) ++ b256 v.ixd

/-- The 64 bytes of a temporary, its lanes packed. -/
def unitBytes (u : Unit512) : List Byte :=
  let n := u.lanes.length
  if n = 0 then zeroBytes 64
  else
    let w := 512 / n
    leBytes ((List.range n).foldl (fun x j => x + fld (laneOf u j).2 0 w * 2 ^ (w * j)) 0) 64

/-- The restart record of a routine that runs by its words (Table 10.8); the trap-exempt bit is set once the trap is reported
(R292, R327). -/
def microBytes (m : Micro) (exempt : Bool) : List Byte :=
  leBytes m.restP 4 ++ leBytes m.resume 2 ++ leBytes (m.cause + 4 * exempt.toNat) 2 ++
  (List.range 4).flatMap (fun k => leBytes (ecOf m k) 4) ++ (List.range 4).flatMap (fun k => leBytes (predOf m k).toNat 8) ++
  (List.range 64).flatMap (fun j => leBytes (pflOf m j).toNat 2) ++ (List.range 16).flatMap (fun k => unitBytes (tempOf m k)) ++
  zeroBytes 8

/-- Width of the accumulators of a factory routine. -/
def accWidth (v : Vop) : Nat := if v.op = 0x55 ∨ v.op = 0x5B then 64 else tyBits v.ty
/-- The restart record of a factory routine whose words are not known: EC0 holds P, the first PFL word the flags raised so far,
mt0 to mt7 the accumulators and mt8 to mt15 which of them are present. (DESIGN CHOICE, log entry 60.) -/
def factoryBytes (v : Vop) : List Byte :=
  let w := accWidth v
  let vals := (v.acc.zipIdx).foldl (fun x a => x + fld (a.1.getD 0) 0 w * 2 ^ (w * a.2)) 0
  let present := (v.acc.zipIdx).foldl (fun x a => x + a.1.isSome.toNat * 2 ^ a.2) 0
  leBytes v.p 4 ++ leBytes (Config.factoryResume v.fver v.op v.ty v.p).toNat 2 ++ leBytes (v.cause + 4 * v.exempt.toNat) 2 ++
  leBytes v.p 4 ++ zeroBytes 12 ++ zeroBytes 32 ++
  leBytes v.accF.toNat 2 ++ zeroBytes 126 ++ leBytes vals 512 ++ leBytes present 512 ++ zeroBytes 8

/-- Entries that `vsave` writes, oldest first. -/
def Core.savedVops (c : Core) : List Vop := c.viq.filter (fun v => !v.released)
/-- The restart record of the started microcoded operation. -/
def recordBytes (s : State) (c : Core) : Option (List Byte) :=
  c.microVop.map (fun v => if byWords s v then microBytes (c.restart.getD (microFresh 0)) v.exempt else factoryBytes v)

/-- The read that the stopped program awaits; a handler's own is answered when `vsave` empties the queue. -/
def frozenRead (l : List StatRead) : Option StatRead := l.find? (fun x => !x.hand)
/-- VSRD and VSPOS, or FPRD and FPPOS. -/
def statBytes (c : Core) (l : List StatRead) : List Byte :=
  match frozenRead l with
  | none => [0, 0]
  | some r => leBytes (r.reg + 32) 1 ++ leBytes (c.savedVops.filter (fun v => v.seqn < r.pos)).length 1
/-- The header (Table 11.7). -/
def headerBytes (s : State) (c : Core) : List Byte :=
  leBytes areaMagic 2 ++ leBytes c.savedVops.length 1 ++ leBytes (c.openGroup.isSome.toNat + 2 * c.microVop.isSome.toNat) 1 ++
  leBytes (regGet s .glbMcVer 0).toNat 4 ++ statBytes c c.vsrd ++ statBytes c c.fprd ++ zeroBytes 52

/-- Write the bytes of the area in 64-byte transactions. -/
def areaPut (n lvl : Nat) : Nat → State → Nat → List Byte → State
  | 0, s, _, _ => s
  | k + 1, s, a, bs =>
    if bs.isEmpty then s else areaPut n lvl k (coreWrite s n lvl a (bs.take 64) .clean) (a + 64) (bs.drop 64)

/-- `vsave` in E: every group stops, the queue goes to the area at VCTX, the queue is empty and VF is 0. -/
def vsaveDo (s : State) (n : Nat) : State :=
  let c := (s.core n).stopPress s
  let a := c.vctx.toNat
  let hdr := headerBytes s c
  let body := c.savedVops.flatMap entryBytes
  let s := areaPut n c.level 129 s a (hdr ++ body)
  let s := match recordBytes s c with
    | some r => areaPut n c.level 20 s (a + areaRecord) r
    | none => s
  let keep : Saved := { seqns := c.savedVops.map (·.seqn), shapes := ((c.restart.map (·.temps)).getD []).map (fun u => u.lanes.length),
                        vsrd := frozenRead c.vsrd, fprd := frozenRead c.fprd }
  let c := (c.vsrd ++ c.fprd).foldl (fun c x => if x.hand then c.setG x.reg x.acc else c) c
  s.setCore n { c with viq := c.viq.filter (·.released), saved := keep :: c.saved, links := [], micro := none, restart := none,
                       vsrd := [], fprd := [], status := setBit c.status 7 false }

/-- R122 on the whole area: DETAIL of the address fault. -/
def vsaveFault (s : State) (c : Core) : Option Nat :=
  let a := c.vctx.toNat
  if 2 ^ 48 < a + areaLen then some 0x81
  else if (List.range (areaLen / 64)).any (fun k => noTarget s (a + 64 * k)) then some 0x82
  else none

/-! Reading the area. -/

/-- Read n bytes in 64-byte transactions: the bytes, and the offset of the first transaction that failed. -/
def areaGet (n lvl : Nat) (chk : Check) : Nat → State → Nat → Nat → List Byte → Option Nat → State × List Byte × Option Nat
  | 0, s, _, _, bs, e => (s, bs, e)
  | k + 1, s, a, off, bs, e =>
    let (s, r, x) := coreRead s n lvl (a + off) 64 chk
    areaGet n lvl chk k s a (off + 64) (bs ++ x) (if r = .ok then e else e.orElse (fun _ => some off))

def areaBytes (d : List Byte) (i n : Nat) : Nat := leNat ((d.drop i).take n)
/-- Offsets of bytes in [i, i + n) that must be 0 and are not. -/
def areaZero (base : Nat) (d : List Byte) (i n : Nat) : List Nat :=
  ((List.range n).filter (fun k => (d.getD (i + k) 0) ≠ 0)).map (· + (base + i))

/-- One entry as read: its 256 bytes. -/
structure EntryIn where
  syl0 : W32
  syl1 : W32
  priv : Nat
  efl  : Nat
  p    : Nat
  pack : Nat
  fpc  : W32
  bytes : List Byte

def entryIn (d : List Byte) : EntryIn :=
  let y0 := w32 (areaBytes d 0 4)
  { syl0 := y0, syl1 := if vX y0 then w32 (areaBytes d 4 4) else xDefault, priv := areaBytes d 8 1, efl := areaBytes d 9 1,
    p := areaBytes d 12 4, pack := areaBytes d 16 4, fpc := w32 (areaBytes d 20 4), bytes := d }

/-- The copies of an entry: broadcast values of SRC1 to SRC3 and the six descriptors. The entry goes on under the
image version in force, which is that of its issue: no image is loaded while a job runs (R256, R301). -/
def entrySource (e : EntryIn) (ver : W32) : VSource :=
  let sd := fun (k : Nat) => BitVec.ofNat 256 (areaBytes e.bytes (64 + 32 * k) 32)
  { sd := fun o _ => sd o, b := fun o _ => w64 (areaBytes e.bytes (24 + 8 * (o - 1)) 8), ix := fun _ => sd 5, fver := fld ver 16 16 }

/-- One entry joins the queue, or the offsets at which it fails. -/
def entryAdd (lvl : Nat) (dig : Bool) (acc : Core × List Nat) (x : EntryIn × Nat × Nat) : Core × List Nat :=
  let (c, bad) := acc
  let (e, k, q) := x
  let off := 64 + 256 * k
  let zeros := (if e.efl < 16 then [] else [off + 9]) ++ areaZero off e.bytes 10 2 ++ areaZero off e.bytes 48 16
    ++ (if vX e.syl0 then [] else areaZero off e.bytes 4 4)
  match vecIssue { c with seqn := q } (entrySource e c.mcver) e.syl0 e.syl1 (min e.priv lvl) e.fpc dig with
  | .ok v =>
    let v := { v with started := natBit e.efl 0, suppV := natBit e.efl 1, suppF := natBit e.efl 2, exempt := natBit e.efl 3,
                      p := e.p, pack := e.pack, nxt := e.p }
    let samep := (c.members v.group).all (fun u => u.released || u.p == v.p)
    (c.enqueue v, bad ++ zeros ++ (if samep then [] else [off + 12]))
  | _ => (c, bad ++ [off] ++ zeros)

/-- The restart record of a user routine as read. -/
def recordMicro (d : List Byte) (shapes : List Nat) (lanes : Nat) : Micro :=
  let temp := fun (k : Nat) =>
    let n := match shapes[k]? with | some 0 => lanes | some m => m | none => lanes
    let w := 512 / n
    let x := areaBytes d (184 + 64 * k) 64
    ({ lanes := (List.range n).map (fun j => (none, w64 (x / 2 ^ (w * j) % 2 ^ w))) } : Unit512)
  { microFresh 0 with
    restP := areaBytes d 0 4, resume := areaBytes d 4 2, cause := areaBytes d 6 2 % 4,
    ec := (List.range 4).map (fun k => w32 (areaBytes d (8 + 4 * k) 4)),
    preds := (List.range 4).map (fun k => w64 (areaBytes d (24 + 8 * k) 8)),
    pfl := (List.range 64).map (fun j => BitVec.ofNat 9 (areaBytes d (56 + 2 * j) 2)),
    temps := (List.range 16).map temp }

/-- Accumulators and flags of a factory routine as read. -/
def recordVop (d : List Byte) (v : Vop) : Vop :=
  let w := accWidth v
  let vals := areaBytes d 184 512
  let present := areaBytes d 696 512
  let n := (List.range (8 * tyLanes v.ty)).foldl (fun m k => if present.testBit k then k + 1 else m) 0
  { v with acc := (List.range n).map (fun k => if present.testBit k then some (w64 (vals / 2 ^ (w * k) % 2 ^ w)) else none),
           accF := BitVec.ofNat 9 (areaBytes d 56 2), cause := areaBytes d 6 2 % 4 }

/-- Load the restart record into the started microcoded operation. -/
def recordLoad (s : State) (c : Core) (d : List Byte) (shapes : List Nat) : Core :=
  match c.microVop with
  | none => c
  | some v => if byWords s v then { c with restart := some (recordMicro d shapes (tyLanes v.ty)) } else c.setVop (recordVop d v)

/-- A register that awaits `mfcr`, as the header gives it, with what it had gathered when it was saved (R235). -/
def statLoad (c : Core) (r pos : Nat) (keep : Option StatRead) (supp : Vop → Bool) (now : W64) : List StatRead :=
  if r / 32 % 2 = 0 then []
  else
    let x := (keep.getD (statReadOf c (r % 32) supp now))
    [{ x with reg := r % 32, hand := false, pos := match c.savedVops[pos]? with | some v => v.seqn | none => c.seqn }]

/-- The outcome of the checks of `vrestore`: the offset of the first failing field, or the core with its queue loaded. -/
inductive Restore where
  | bad (off : Nat)
  | ok (c : Core)

def minNat (l : List Nat) : Option Nat := l.foldl (fun o k => match o with | none => some k | some m => some (min m k)) none

/-- Checks of the header (R326). -/
def headerBad (s : State) (c : Core) (d : List Byte) : List Nat :=
  (if c.viqUsed ≠ 0 ∨ areaBytes d 0 2 ≠ areaMagic then [0] else []) ++ (if 32 < areaBytes d 2 1 then [2] else []) ++
  (if 4 ≤ areaBytes d 3 1 then [3] else []) ++ (if 64 ≤ areaBytes d 8 1 then [8] else []) ++ (if 64 ≤ areaBytes d 10 1 then [10] else []) ++
  (if natBit (areaBytes d 3 1) 1 ∧ areaBytes d 4 4 ≠ (regGet s .glbMcVer 0).toNat then [4] else []) ++ areaZero 0 d 12 52

/-- `vrestore`: read the area at VCTX, check it, and load the queue at the level that `eret` restores.
(DEDUCED, log entry 61; DEDUCED, log entry 62.) -/
def vrestoreDo (s : State) (n lvl : Nat) (dig : Bool) (chk : Check) : State × Restore :=
  let c := s.core n
  let a := c.vctx.toNat
  let (s, hd, e0) := areaGet n c.level chk 1 s a 0 [] none
  let cnt := min 32 (areaBytes hd 2 1)
  let (s, ents, e1) := areaGet n c.level chk (4 * cnt) s a 64 [] none
  let hasRec := natBit (areaBytes hd 3 1) 1
  let (s, rcd, e2) := if hasRec then areaGet n c.level chk 19 s a areaRecord [] none else (s, [], none)
  let keep : Saved := match c.saved with
    | k :: _ => if k.seqns.length = cnt then k else { seqns := (List.range cnt).map (· + c.seqn) }
    | [] => { seqns := (List.range cnt).map (· + c.seqn) }
  let es := (List.range cnt).map (fun k => (entryIn ((ents.drop (256 * k)).take 256), k, (keep.seqns[k]?).getD (c.seqn + k)))
  let c0 : Core := { c with saved := c.saved.drop 1, links := [] }
  let (c1, bad) := es.foldl (entryAdd lvl dig) (c0, [])
  let c1 := { c1 with seqn := c.seqn + 33 }
  let bad := headerBad s c hd ++ bad ++ (if c1.openGroup.isSome = natBit (areaBytes hd 3 1) 0 then [] else [3]) ++
    (if c1.microVop.isSome = hasRec then [] else [3]) ++
    (if hasRec then areaZero areaRecord rcd 1208 8 else []) ++ [e0, e1, e2].filterMap id
  match minNat bad with
  | some off => (s, .bad off)
  | none =>
    let c2 := if hasRec then recordLoad s c1 rcd keep.shapes else c1
    let c3 := { c2 with vsrd := statLoad c2 (areaBytes hd 8 1) (areaBytes hd 9 1) keep.vsrd (·.suppV) (c2.vstat &&& 0xF),
                        fprd := statLoad c2 (areaBytes hd 10 1) (areaBytes hd 11 1) keep.fprd (·.suppF) c2.fpctl }
    -- started groups take their pipes and ports again, and one at its end completes (R202)
    let going := c3.groups.filter (fun g => (c3.members g).any (·.started))
    let c4 := going.foldl (fun c g => (c.assign g).mapGroup g (fun v => { v with nxt := c.startAt v })) c3
    (s, .ok (going.foldl (fun c g => c.finishEmpty g) c4).statDone)

end Sys2Proof.Machine
end

