-- ==== Sys2Proof/Machine/Bundle.lean ====
section
/-! DEFINITION. Bundles: fetching their syllables from the instruction buffer (R120, R153, R621), their structure (R105 to
R107), and the checks that raise an illegal-instruction fault. -/
namespace Sys2Proof.Machine

/-! Fetch. -/

/-- The instruction-buffer line that holds an address (R120). -/
def lineTag (a : W64) : Nat := fld a 6 42
def lineSet (tag : Nat) : Nat := tag % 128
def Core.line (c : Core) (tag : Nat) : Option IbLine := (tget [] c.ibuf (lineSet tag)).find? (fun l => l.tag == tag)
/-- A line becomes the most recently used of its set. -/
def Core.touchLine (c : Core) (tag : Nat) : Core :=
  let l := tget [] c.ibuf (lineSet tag)
  match l.find? (fun x => x.tag == tag) with
  | some x => { c with ibuf := tset [] c.ibuf (lineSet tag) (x :: l.filter (fun y => y.tag != tag)) }
  | none => c
/-- A filled line takes the place of the least recently used one. -/
def Core.fillLine (c : Core) (tag : Nat) (bytes : List Byte) : Core :=
  let l := (tget [] c.ibuf (lineSet tag)).filter (fun y => y.tag != tag)
  { c with ibuf := tset [] c.ibuf (lineSet tag) (({ tag, bytes } : IbLine) :: l.take 3) }

/-- DETAIL of an instruction fault found before the fetch of a word reaches its target (R132, R153, R621).
(DEDUCED, log entry 29.) -/
def fetchBad (s : State) (c : Core) (a : W64) : Option Nat :=
  if fld a 0 2 ≠ 0 then some 1
  else if fld a 48 16 ≠ 0 then some 2
  else if c.level = 0 ∧ !(mpuAllows c a.toNat mpuX) then some 4
  else if target s a.toNat = .control then some 7
  else none

inductive Fetch where
  | fault (detail : Nat) (a : W64)
  | missing (a : W64)
  | words (l : List W32)
  deriving DecidableEq, Repr

/-- The syllables from `a` to the first stop bit, at most seven. -/
def fetchFrom (s : State) (c : Core) : Nat → W64 → List W32 → Fetch
  | 0, _, l => .words l
  | k + 1, a, l =>
    match fetchBad s c a with
    | some d => .fault d a
    | none => match c.line (lineTag a) with
      | none => match c.fetchErr with
        | some (d, b) => if a = b then .fault d a else .missing a
        | none => .missing a
      | some x =>
        let w := w32 (leNat ((x.bytes.drop (fld a 0 6)).take 4))
        if bit w 31 then .words (l ++ [w]) else fetchFrom s c k (a + 4) (l ++ [w])
def fetchBundle (s : State) (c : Core) (a : W64) : Fetch := fetchFrom s c 7 a []

/-- The lines of a fetched bundle are used in address order. -/
def Core.touch (c : Core) (a : W64) (n : Nat) : Core := (List.range n).foldl (fun c i => c.touchLine (lineTag (a + w64 (4 * i)))) c

/-! Structure (R106, R107). -/

def slotOf (y : W32) : Nat := fld y 28 3
/-- The first syllable at which the canonical order breaks; prev is the syllable before, and last its slot plus 1. -/
def orderBreak : Nat → Nat → Option W32 → List W32 → Option Nat
  | i, _, some p, [] => if slotOf p = 3 ∧ vX p then some (i - 1) else none
  | _, _, none, [] => none
  | i, last, prev, y :: r =>
    let k := slotOf y
    let calls := match prev with | some p => slotOf p == 3 && vX p | none => false
    if 6 ≤ i ∨ 6 ≤ k ∨ k < last ∨ calls != (k == 4) then some i else orderBreak (i + 1) (k + 1) (some y) r
def bundleBreak (ws : List W32) : Option Nat := orderBreak 0 0 none ws

/-- The syllable in slot k and its place in the bundle. -/
def syl (ws : List W32) (k : Nat) : Option (Nat × W32) := ((List.range ws.length).zip ws).find? (fun p => slotOf p.2 == k)
def sylW (ws : List W32) (k : Nat) : Option W32 := (syl ws k).map (·.2)
/-- The extension that goes with the V syllable (R205). -/
def extOf (ws : List W32) : W32 := (sylW ws 4).getD xDefault
/-- The operation code of slot X, and of slot V. -/
def xIs (ws : List W32) (op : Nat) : Bool := match sylW ws 5 with | some y => xOp y == op | none => false
def vIs (ws : List W32) (f : W32 → Bool) : Bool := match sylW ws 3 with | some y => f y | none => false

/-- An operation of the queue. -/
def isVecOp (y : W32) : Bool := !isMove y && !isVsave y && !isVrestore y

/-- A reserved encoding in the V syllables: DETAIL, and whether the extension is the offender. (DEDUCED, log entry 28.) -/
def vIllegal (ws : List W32) (y : W32) : Option (Nat × Bool) :=
  if isMove y then (moveIllegal y).map (fun d => (d, false))
  else if isVsave y then (saveIllegal y).map (fun d => (d, false))
  else if isVrestore y then
    (match saveIllegal y with
     | some d => some (d, false)
     | none => if xIs ws 0x0C then none else some (2, false))
  else if (vecSpecs y (extOf ws)).isSome then none
  else some (2, (sylW ws 4).isSome && vecFirstOk y (extOf ws))

/-- Legality of the syllable at place i (R138, R207, R209): DETAIL and place of the offender. -/
def sylIllegal (ws : List W32) (i : Nat) (y : W32) : Option (Nat × Nat) :=
  match slotOf y with
  | 0 => (abIllegal false y).map (fun d => (d, i))
  | 1 => (abIllegal true y).map (fun d => (d, i))
  | 2 => (mIllegal y).map (fun d => (d, i))
  | 3 => (vIllegal ws y).map (fun p => (p.1, if p.2 then i + 1 else i))
  | 5 => (xIllegal y).map (fun d => (d, i))
  | _ => none

/-- Registers that a syllable names as destinations, but for g0 (R107). -/
def sylWrites (y : W32) : List Nat :=
  (match slotOf y with
   | 0 => abWritesKeys y
   | 1 => abWritesKeys y
   | 2 => mWrites y
   | 3 => vWrites y
   | 5 => xWrites y
   | _ => []).filter (· ≠ 0)
def sylReads (y : W32) : List Nat :=
  match slotOf y with
  | 0 => abReads y
  | 1 => abReads y
  | 2 => mReads y
  | 3 => vReads y
  | 5 => xReads y
  | _ => []

/-- The first syllable that names a destination which an earlier one names. -/
def dupDest : Nat → List Nat → List W32 → Option Nat
  | _, _, [] => none
  | i, seen, y :: r => if (sylWrites y).any (fun k => seen.contains k) then some i else dupDest (i + 1) (seen ++ sylWrites y) r

/-- Instructions of slot X that a repeated bundle may not hold (R119). -/
def repBarred (op : Nat) : Bool := op ≤ 7 || op == 0x0A || op == 0x0C || op == 0x0D

/-- A repeated bundle holds one of them, in whichever of its X syllables: its repetition ends (R119). -/
def repeatBroken (c : Core) (ws : List W32) : Bool := c.rpt ≠ 0 && ws.any (fun y => slotOf y == 5 && repBarred (xOp y))

/-- The rule of the repeat prefix (R119, R156): the X syllable offends. -/
def repeatBreak (c : Core) (ws : List W32) : Option Nat :=
  match syl ws 5 with
  | none => none
  | some (i, y) => if (xOp y = 7 ∧ ws.length ≠ 1) ∨ (c.rpt ≠ 0 ∧ repBarred (xOp y)) then some i else none

/-- An unknown control register, or a write of a read-only one (R112). -/
def crBreak (ws : List W32) : Option Nat :=
  match syl ws 5 with
  | none => none
  | some (i, y) =>
    if xOp y = 8 then (if (crAccess (xCr y)).isNone then some i else none)
    else if xOp y = 9 then (match crAccess (xCr y) with
      | none => some i
      | some (_, w) => if w = 3 then some i else none)
    else none

/-- `jend` with no job (R160). -/
def jendBreak (c : Core) (ws : List W32) : Option Nat :=
  match syl ws 5 with
  | none => none
  | some (i, y) => if xOp y = 0x0D ∧ !c.serving then some i else none

/-- A vector operation other than `vsave` while the press is frozen (R324); the moves of R179 stay allowed. -/
def frozenBreak (c : Core) (ws : List W32) : Option Nat :=
  match syl ws 3 with
  | none => none
  | some (i, y) => if c.vf ∧ !isMove y ∧ !isVsave y then some i else none

/-- The illegal-instruction fault of a bundle: DETAIL and the place of the offending syllable. (DEDUCED, log entry 27.) -/
def bundleIllegal (c : Core) (ws : List W32) : Option (Nat × Nat) :=
  match bundleBreak ws with
  | some i => some (1, i)
  | none =>
    match ((List.range ws.length).zip ws).findSome? (fun p => sylIllegal ws p.1 p.2) with
    | some p => some p
    | none =>
      (((dupDest 0 [] ws).map (fun i => (1, i))).orElse (fun _ =>
        ((repeatBreak c ws).map (fun i => (4, i))).orElse (fun _ =>
          ((crBreak ws).map (fun i => (5, i))).orElse (fun _ =>
            ((jendBreak c ws).map (fun i => (6, i))).orElse (fun _ => (frozenBreak c ws).map (fun i => (7, i)))))))

/-- EINFO of an illegal instruction: the syllable and its byte offset (Table 11.3). -/
def illegalInfo (ws : List W32) (i : Nat) : W64 := w64 (((ws[i]?).getD 0).toNat + 4 * i * 2 ^ 32)

end Sys2Proof.Machine
end

