-- ==== Sys2Proof/Machine/Steward.lean ====
section
/-! DEFINITION. The steward (chapters 04 and 05): hazards, issue faults and execution of a bundle, scalar memory access,
and what later completes: loads, stores, divides, line fills, waits. -/
namespace Sys2Proof.Machine

/-! Ranges of a re-run (R526). -/

def rangeJoin (a b : Nat × Nat) : Nat × Nat := (min a.1 b.1, max a.2 b.2)
/-- Merge an interval with every one that it overlaps or abuts; the list stays in rising order. -/
def rangeInsert : List (Nat × Nat) → Nat × Nat → List (Nat × Nat)
  | [], x => [x]
  | y :: r, x =>
    if x.2 + 1 < y.1 then x :: y :: r
    else if y.2 + 1 < x.1 then y :: rangeInsert r x
    else rangeInsert r (rangeJoin x y)
/-- Join the two neighbours with the smallest gap, the lowest of equal ones. -/
def smallestGap : List (Nat × Nat) → Option Nat
  | a :: b :: r => match smallestGap (b :: r) with
    | some g => some (min (b.1 - a.2) g)
    | none => some (b.1 - a.2)
  | _ => none
def joinGap (g : Nat) : List (Nat × Nat) → List (Nat × Nat)
  | a :: b :: r => if b.1 - a.2 = g then rangeJoin a b :: r else a :: joinGap g (b :: r)
  | l => l
def rangeAdd (l : List (Nat × Nat)) (x : Nat × Nat) : List (Nat × Nat) :=
  let m := rangeInsert l x
  if 64 < m.length then (match smallestGap m with | some g => joinGap g m | none => m) else m

/-- The tables of core n's row record what it does now. -/
def tracked (s : State) (n : Nat) : Bool := let c := s.core n; c.job.isSome && !c.partner && c.digests
/-- DEDUCED, log entry 23. -/
def rrtRead (s : State) (n : Nat) (x : Nat × Nat) : State :=
  let r := s.row (n / 8)
  s.setRow (n / 8) { r with rrt := rangeAdd r.rrt x }
def wrtWrite (s : State) (n : Nat) (x : Nat × Nat) : State :=
  let r := s.row (n / 8)
  s.setRow (n / 8) { r with wrt := rangeAdd r.wrt x, clobber := r.clobber || r.rrt.any (rangeMeets x) }
/-- A write of the job leaves for the control space, MRAM or a Vault (R525). (DEDUCED, log entry 22.) -/
def markOutside (s : State) (n a : Nat) : State :=
  match (s.core n).job with
  | some j => if taints (target s a) then s.setJob j { s.job j with outside := true } else s
  | none => s

/-! Scalar memory access (R122 to R127). -/

/-- The first failed check of R122 on one half: ECAUSE code and DETAIL. -/
def halfFault (s : State) (c : Core) (store : Bool) (h : Nat × Nat) : Option (Nat × Nat) :=
  let d := if store then 0x80 else 0
  if 2 ^ 48 ≤ h.1 then some (0x10, d + 1)
  else if noTarget s h.1 then some (0x10, d + 2)
  else if c.level = 0 ∧ !(mpuAllows c h.1 (if store then mpuW else mpuR)) then some (0x11, d)
  else none
/-- The checks of R122 over a whole access (R127): where its halves fail different checks, the first that the low half fails is
the one named. (DESIGN CHOICE, log entry 153.) -/
def memFault (s : State) (c : Core) (a : W64) (n : Nat) (store : Bool) : Option (Nat × Nat) :=
  (accHalves a.toNat n).findSome? (halfFault s c store)

/-- What the store buffer holds for a half of a load (R125). -/
inductive Fwd where
  | memory | wait
  | bytes (l : List Byte)
  deriving DecidableEq, Repr

def sbMeets (x : StoreRec) (h : Nat × Nat) : Bool := decide (x.addr < h.1 + h.2) && decide (h.1 < x.addr + x.bytes.length)
/-- DEDUCED, log entry 37. -/
def forward (c : Core) (h : Nat × Nat) : Fwd :=
  match c.sb.reverse.find? (fun x => sbMeets x h) with
  | none => .memory
  | some x =>
    if x.addr ≤ h.1 ∧ h.1 + h.2 ≤ x.addr + x.bytes.length then .bytes ((x.bytes.drop (h.1 - x.addr)).take h.2) else .wait

/-- The value of a load: its bytes extended (R148). -/
def loadValue (signed : Bool) (bs : List Byte) : W64 := if signed then sx (w64 (leNat bs)) (8 * bs.length) else w64 (leNat bs)

def loadIssue (s : State) (n : Nat) (c0 : Core) (y : W32) : State :=
  let a := (mAddr c0 y).toNat
  let hs := accHalves a (mSize y)
  let fs := hs.map (forward c0)
  let got := fun (i : Nat) => match fs[i]? with | some (.bytes b) => some b | _ => none
  let s := hs.foldl (fun s h => if taints (target s h.1) then taintBy s n c0.level else s) s
  let s := if tracked s n then rrtRead s n (a, a + mSize y - 1) else s
  let c := s.core n
  if fs.all (fun f => match f with | .bytes _ => true | _ => false) then
    s.setCore n (c.setG (mG y) (loadValue (mSigned y) ((got 0).getD [] ++ (got 1).getD [])))
  else
    let l : LoadRec := { dest := mG y, addr := a, size := mSize y, signed := mSigned y, level := c0.level,
                         exc := bit c0.status 3, low := got 0, high := got 1, split := hs.length == 2, seqn := c0.seqn }
    s.setCore n { c with loads := c.loads ++ [l] }

def storeIssue (s : State) (n : Nat) (c0 : Core) (y : W32) : State :=
  let a := (mAddr c0 y).toNat
  let bs := leBytes (c0.gr (mG y)).toNat (mSize y)
  let recs := (accHalves a (mSize y)).map (fun h => ({ addr := h.1, bytes := (bs.drop (h.1 - a)).take h.2, level := c0.level, seqn := c0.seqn } : StoreRec))
  let c := s.core n
  let drain := if c.sb.isEmpty then s.cclk + 3 else c.drainAt
  let c := { c with sb := c.sb ++ recs, drainAt := drain }
  let c := if c0.digests then c.record c0.seqn (digTag a (mSize y) none) (w64 (leNat bs)) else c
  let s := s.setCore n c
  let s := if c0.digests then recs.foldl (fun s r => markOutside s n r.addr) s else s
  if tracked s n then wrtWrite s n (a, a + mSize y - 1) else s

/-! Hazards (R115). -/

/-- A load or store must wait (R125, R134, Table 4.5). -/
def memHazard (s : State) (n : Nat) (y : W32) : Bool :=
  let c := s.core n
  let a := (mAddr c y).toNat
  let hs := accHalves a (mSize y)
  if (memFault s c (mAddr c y) (mSize y) (mStore y)).isSome then false
  else if mStore y then decide (8 < c.sb.length + hs.length)
  else decide (8 ≤ c.loads.length) || hs.any (fun h => forward c h == .wait) || c.footHold c.seqn a (mSize y) false

/-- What `flushi` waits for (R121): the store buffer is empty and every older vector instruction is complete. -/
def drained (s : State) (n : Nat) : Bool :=
  let c := s.core n
  c.sb.isEmpty && c.viq.isEmpty && c.wq.isEmpty

/-- The order that `sev` and `jend` wait for (R135): every older store and vector write has been accepted,
an ownership write only when its owner is in force (R344, R346). (DEDUCED, log entry 31.) -/
def inOrder (s : State) (n : Nat) : Bool :=
  drained s n && !ownComing s n

/-- A buffered store overlaps the save area: `vsave` and `vrestore` wait for it in E. (DESIGN CHOICE, log entry 128.) -/
def areaHolds (c : Core) : Bool :=
  c.sb.any (fun x => decide (x.addr < c.vctx.toNat + areaLen) && decide (c.vctx.toNat < x.addr + x.bytes.length))

/-- A bundle waits in E (Table 4.5).  A destination that is pending from a multiply is waited for like one that is pending
from a load or a divide, and an `eret` that restarts a divide waits for the divider. (DEDUCED, log entry 129.) -/
def hazard (s : State) (n : Nat) (ws : List W32) : Bool :=
  let c := s.core n
  ws.any (fun y => (sylReads y ++ sylWrites y).any (fun k => decide (k < 32) && c.gPending s.cclk k))
    || (match sylW ws 1 with | some y => isDiv y && c.div.isSome | none => false)
    || (xIs ws 0x0C && bit c.edivd 63 && c.div.isSome)
    || (match sylW ws 2 with | some y => memHazard s n y | none => false)
    || (vIs ws isVecOp && decide (32 ≤ c.viqUsed))
    || ((vIs ws isVsave || vIs ws isVrestore) && (areaHolds c || bridgeHolds s (n / 8) c.vctx.toNat areaLen))
    || (match sylW ws 5 with
        | some y => xOp y == 8 && !c.vf && ((xCr y == 8 && !c.vsrd.isEmpty) || (xCr y == 9 && !c.fprd.isEmpty))
        | none => false)

/-! Issue faults (R311). -/

/-- The privilege fault of a bundle: the offending syllable. -/
def privFault (c : Core) (ws : List W32) : Option W32 :=
  let lvl := c.level
  let v := match sylW ws 3 with
    | some y => if (isVsave y || isVrestore y) && lvl == 0 then some y else none
    | none => none
  v.orElse (fun _ => match sylW ws 5 with
    | none => none
    | some y =>
      let bad := match xOp y with
        | 8 => (match crAccess (xCr y) with | some (r, _) => decide (lvl < r) | none => false)
        | 9 => (match crAccess (xCr y) with
          | some (_, w) => decide (lvl < w) || crDenied lvl (xCr y) (c.gr (xG y))
          | none => false)
        | 0x0C => lvl == 0
        | 0x0F | 0x10 | 0x11 | 0x12 => lvl == 0 && !(bit c.status 5)
        | _ => false
      if bad then some y else none)

/-- The V syllable at issue: the entry, or the DETAIL of a stream fault. -/
def vecAt (c : Core) (ws : List W32) (y : W32) : VIssue :=
  vecIssue { c with seqn := c.seqn + 1 } (VSource.ofCore c) y (extOf ws) c.level (c.fpctl.setWidth 32) c.digests

/-- The core with the vector operation of the bundle in its queue. -/
def Core.withVec (c : Core) (ws : List W32) : Core :=
  match sylW ws 3 with
  | some y => if isVecOp y then (match vecAt c ws y with | .ok v => c.enqueue v | _ => c) else c
  | none => c

/-- The first cause at issue after the illegal-instruction faults: ECAUSE code, DETAIL and EINFO.
(DEDUCED, log entry 36.) -/
def issueFault (s : State) (n : Nat) (ws : List W32) : Option (Nat × Nat × W64) :=
  let c := s.core n
  let priv := (privFault c ws).map (fun y => (0x40, 0, y.setWidth 64))
  let mem := match sylW ws 2 with
    | some y => (memFault s c (mAddr c y) (mSize y) (mStore y)).map (fun p => (p.1, p.2, mAddr c y))
    | none => none
  let vec := match sylW ws 3 with
    | some y =>
      if isVsave y then (vsaveFault s c).map (fun d => (0x10, d, c.vctx))
      else if isVecOp y then (match vecAt c ws y with | .sfault o => some (0x20, o * 16 + 1, 0) | _ => none) else none
    | none => none
  let jend := if xIs ws 0x0D && ((c.withVec ws).openGroup.isSome || (inOrder s n && !c.links.isEmpty)) then some (0x20, 0xF1, 0) else none
  let div := match sylW ws 1 with
    | some y =>
      let b := c.gr (abSB y)
      if isDiv y && bit c.status 6 && fld b 0 (if abOp y < 0x2C then 64 else 32) == 0 then some (0x31, 0, c.gr (abSA y)) else none
    | none => none
  [priv, mem, vec, jend, div].findSome? id

/-! Effects. -/

/-- Slots A and B. -/
def intEffect (s : State) (n : Nat) (c0 : Core) (y : W32) : State :=
  let c := s.core n
  let c := (abResult c0 y).foldl (fun c p => c.writeKey p.1 p.2) c
  let c := if isMul y then { c with ready := (abWritesKeys y).foldl (fun t k => if k = 0 then t else tset 0 t k (s.cclk + 3)) c.ready } else c
  let c := if isNegs y ∧ c0.gr (abSA y) = w64 (2 ^ 63) then { c with vstat := c.vstat ||| 1 } else c
  let c := if isDiv y then
      let wide := decide (abOp y < 0x2C)
      { c with div := some { dest := abD y, op := abOp y % 4, wide, a := c0.gr (abSA y), b := c0.gr (abSB y),
                             due := s.cclk + (if wide then 66 else 34) } }
    else c
  s.setCore n c

/-- Slot M: the access and the update of the address register. -/
def memEffect (s : State) (n : Nat) (c0 : Core) (y : W32) : State :=
  let s := if mStore y then storeIssue s n c0 y else loadIssue s n c0 y
  s.setCore n ((mUpdate c0 y).foldl (fun c p => c.writeKey p.1 p.2) (s.core n))

/-- Slot V. -/
def vecEffect (s : State) (n : Nat) (c0 : Core) (ws : List W32) (y : W32) : State :=
  if isMove y then s.setCore n (moveApply c0 (s.core n) y)
  else if isVsave y then vsaveDo s n
  else if isVrestore y then s
  else match vecAt c0 ws y with
    | .ok v => s.setCore n ((s.core n).enqueue v)
    | _ => s

/-- The slots A, B, M and V of a bundle take effect (R108, R109). (DEDUCED, log entry 26.) -/
def slotsEffect (s : State) (n : Nat) (ws : List W32) : State :=
  let c0 := s.core n
  let s := match sylW ws 0 with | some y => intEffect s n c0 y | none => s
  let s := match sylW ws 1 with | some y => intEffect s n c0 y | none => s
  let s := match sylW ws 2 with | some y => memEffect s n c0 y | none => s
  let s := match sylW ws 3 with | some y => vecEffect s n c0 ws y | none => s
  s.setCore n { s.core n with seqn := c0.seqn + 3 }

/-- The next bundle boundary: pc, and the first CCLK in which the next bundle can be in E (R110, R115). -/
def goto (s : State) (n : Nat) (pc : W64) (cost : Nat) : State :=
  s.setCore n { s.core n with pc, notBefore := s.cclk + cost, ibpSkip := false }
/-- Cost of a bundle: 1 CCLK, and 1 for the second half of a split access. -/
def bundleCost (c : Core) (ws : List W32) : Nat :=
  match sylW ws 2 with | some y => (accHalves (mAddr c y).toNat (mSize y)).length | none => 1
/-- Go on to the next bundle; a repeated bundle counts down RPT (R117). -/
def advance (s : State) (n : Nat) (next : W64) (cost : Nat) : State :=
  let c := s.core n
  if c.rpt = 0 then goto s n next cost
  else
    let s := s.setCore n { c with rpt := c.rpt - 1 }
    if c.rpt = 1 then goto s n next cost else goto s n c.pc cost

/-- The stores now buffered come before the accesses of the groups that a return restarts (R324).
(DEDUCED, log entry 39.) -/
def storesFirst (s : State) (n : Nat) : State :=
  let c := s.core n
  s.setCore n { c with sb := c.sb.map (fun x => { x with early := true }) }

/-- `eret`: the steps of R159 and R322 after its checks. (DEDUCED, log entry 40.)  A divide of its own bundle gives its
result at once where one is to restart: the divider serves both, in order. (DEDUCED, log entry 129.) -/
def eretDo (s : State) (n : Nat) : State :=
  let c := s.core n
  let c := match c.div with
    | some d => if bit c.edivd 63 then c.setG d.dest (divOp d.op d.wide d.a d.b) else c
    | none => c
  let div : Option DivRec := if bit c.edivd 63 then
      some { dest := fld c.edivd 0 5, op := fld c.edivd 5 2, wide := bit c.edivd 7, a := c.ediva, b := c.edivb,
             due := s.cclk + 1 + (if bit c.edivd 7 then 66 else 34) }
    else c.div
  let c := c.setStatus s.cclk c.estatus
  let c := if c.vf then c else { c with vsrd := c.vsrd.map (fun x => { x with hand := false }), fprd := c.fprd.map (fun x => { x with hand := false }) }
  s.setCore n { c with rpt := c.erpt.setWidth 32, div := div, edivd := setBit c.edivd 63 false, pc := c.epc,
                       notBefore := s.cclk + 2, hstack := c.hstack.drop 1, ibpSkip := false,
                       wait := if c.jendBack = some (c.hstack.length - 1, c.epc) then .jend else c.wait,
                       jendBack := if c.jendBack = some (c.hstack.length - 1, c.epc) then none else c.jendBack }

/-- Footprint of a stream for the re-run tables (R526). -/
def rerunFoot (d : BitVec 256) (k : Nat) : Option (Nat × Nat) :=
  let bound : Nat := sdAux0 d % 2 ^ 32
  let f := if sdMode d = 3 ∧ bound ≠ 0 ∧ k ≠ 0 then
      let e : Int := tyBytes (sdType d)
      let r : Int := ((bound : Nat) - 1 : Int) * sdStride d
      some (max 0 ((sdBase d : Int) + min 0 r * e), min (2 ^ 48 - 1) ((sdBase d : Int) + max 0 r * e + e - 1))
    else footprint d k
  match f with
  | some (a, b) => if a ≤ b then some (a.toNat, b.toNat) else none
  | none => none
/-- A group enters its read streams, and then its write stream, into the tables of its row. -/
def groupRanges (s : State) (n g : Nat) : State :=
  let ms := (s.core n).members g
  if !(tracked s n) then s
  else
    let reads := ms.flatMap (fun v => if v.vl = 0 then [] else v.readStreams.filterMap (fun p => rerunFoot p.2.1 p.2.2))
    let s := reads.foldl (fun s x => rrtRead s n x) s
    match (s.core n).rootOf g with
    | some v => (match v.dst with
      | .stream d => (match (if v.vl = 0 then none else rerunFoot d (dstNeed v.op v.vl v.bcast3 v.dst (v.oty 0))) with
        | some x => wrtWrite s n x
        | none => s)
      | _ => s)
    | none => s

/-- A started routine enters its ranges again when it restarts. -/
def restartRanges (s : State) (n : Nat) : State :=
  let c := s.core n
  match c.microVop with
  | some v => if c.vf then s else groupRanges s n v.group
  | none => s

/-- `eret` in E: the checks of R322 from step 2 on. -/
def eretTry (s : State) (n : Nat) (ws : List W32) (chk : Check) : State :=
  let c := s.core n
  if c.level < levelOf c.estatus then takeException s n 0x42 0 0 c.pc false false
  else
    let lvl := levelOf c.estatus
    let digs := lvl == 0 || (lvl == 1 && !((c.hstack.drop 1).any id))
    if vIs ws isVrestore then
      match vrestoreDo s n lvl digs chk with
      | (s, .bad off) => takeException s n 0x01 8 (w64 off) c.pc false false
      | (s, .ok c') => restartRanges (eretDo (storesFirst (slotsEffect (s.setCore n c') n ws) n) n) n
    else
      let t := slotsEffect s n ws
      restartRanges (eretDo (if c.vf then storesFirst t n else t) n) n

/-- `mfcr`: the value, a wait for the press (R234), or a taint (R157).  A handler's read while VF is 1 waits for the frozen
instructions too; it is kept beside the read that the stopped program awaits. Its own bundle's slot V is not older than it, and
the register is read as it stands before the bundle (R108). (DEDUCED, log entry 33.) -/
def mfcrDo (s : State) (n : Nat) (c0 : Core) (v : W64) (y : W32) : State :=
  let s := if crTaints (xCr y) then taintBy s n c0.level else s
  let c := s.core n
  let waits := c0.viq.any (fun u => !u.released)
  if xCr y = 8 ∧ waits then s.setCore n { c with vsrd := c.vsrd ++ [statReadOf c0 (xG y) (·.suppV) v] }
  else if xCr y = 9 ∧ waits then s.setCore n { c with fprd := c.fprd ++ [statReadOf c0 (xG y) (·.suppF) v] }
  else s.setCore n (c.setG (xG y) v)

/-- Events of `sev` (R162): the core's own latch is set at once (R168), the others are on their way. -/
def sevDo (s : State) (n : Nat) (g : W64) : State :=
  let s := { s with events := s.events ++ ((List.range 64).filter (fun k => bit g k && k != n)).map (fun k => (k, n)) }
  if bit g n then s.setCore n { s.core n with latch := true } else s

/-- The wait of `waitax` and `waitcy` is over. -/
def waitMet (s : State) (n : Nat) : CoreWait → Bool
  | .waitax a v => decide (0 ≤ sdiff (busVal s (coreDie n) a).value v)
  | .waitcy v => decide (0 ≤ sdiff (w64 s.cclk) v)
  | _ => true

/-- A breakpoint halts the core instead of taking its exception (R605). -/
def brkHalts (s : State) (n : Nat) : Bool := bit (regGet s .dbgCtrl n) 3 && dbgOpen s && (s.core n).level != 2

/-- `rep` with a count of 0 skips the next bundle; none while a line of it is missing. Where no stop bit ends that bundle it
skips the seven words that make it ill formed, and raises no fault. (DEDUCED, log entry 30.) -/
def skipNext (s : State) (n : Nat) (next : W64) : Option State :=
  let c := s.core n
  match fetchBundle s c next with
  | .missing _ => none
  | .fault d a => some (takeException (goto s n next 1) n 2 d a a false false)
  | .words l => some (goto (s.setCore n (c.touch next l.length)) n (next + w64 (4 * l.length)) 2)

/-- Slot X and the move to the next bundle; none where the bundle waits in E. (DEDUCED, log entry 31.)  What slots M and V
of `sev`'s own bundle do is not older than it, nor does `flushi` wait for what those of its own bundle do, and an `mtcr` of VSTAT
replaces what a `negs` of its bundle raised. (DESIGN CHOICE, log entry 130.) -/
def xEffect (s : State) (n : Nat) (ws : List W32) (y : W32) (chk : Check) : Option State :=
  let c := s.core n
  let g := c.gr (xG y)
  let next := c.pc + w64 (4 * ws.length)
  let there := c.pc + xDisp y * 4
  let cost := bundleCost c ws
  let run := slotsEffect s n ws
  let jump := fun (s : State) (t : W64) => goto s n t (cost + 1)
  let link := fun (s : State) => s.setCore n ((s.core n).setG 31 next)
  match xOp y with
  | 0x00 => some (if g = 0 then jump run there else advance run n next cost)
  | 0x01 => some (if g ≠ 0 then jump run there else advance run n next cost)
  | 0x02 =>
    let put := fun (v : W32) => run.setCore n { run.core n with lc := v }
    some (if c.lc ≤ 1 then advance (put 0) n next cost else jump (put (c.lc - 1)) there)
  | 0x03 => some (jump run there)
  | 0x04 => some (jump (link run) there)
  | 0x05 => some (jump run g)
  | 0x06 => some (jump (link run) g)
  | 0x07 =>
    let k := if xL y then c.lc else w32 (xCode y)
    if k = 0 then skipNext run n next
    else some (goto (run.setCore n { run.core n with rpt := k }) n next cost)
  | 0x08 => some (advance (mfcrDo run n c (crRead s n (xCr y)) y) n next cost)
  | 0x09 => some (advance (crWrite run n c.level (xCr y) g) n next cost)
  | 0x0A =>
    let t := advance run n next cost
    some (takeException t n 0x41 0 (w64 (xCode y)) (t.core n).pc false false)
  | 0x0B =>
    if brkHalts s n then some (haltCore (advance run n next cost) n 3 0)
    else some (takeException s n 0x03 0 (w64 (xCode y)) c.pc false false)
  | 0x0C => some (eretTry s n ws chk)
  | 0x0D =>
    if ws.length = 1 then
      if inOrder s n then some (rankEnd (s.setCore n (({ c with saved := [] } : Core).digFlush)) n) else none
    else
      let t := goto run n next cost
      some (t.setCore n { t.core n with wait := .jend })
  | 0x0E => if !drained s n then none
    else some (advance (run.setCore n { run.core n with ibuf := [] }) n next cost)
  | 0x0F =>
    let t := advance run n next cost
    some (t.setCore n (if c.latch then { t.core n with latch := false } else { t.core n with wait := .wfe }))
  | 0x10 => if !inOrder s n then none else some (advance (sevDo run n g) n next cost)
  | 0x11 => if waitMet s n (.waitax (xAxis y) g) then some (advance run n next cost)
    else some (s.setCore n { c with wait := .waitax (xAxis y) g })
  | _ => if waitMet s n (.waitcy g) then some (advance run n next cost)
    else some (s.setCore n { c with wait := .waitcy g })

/-- A bundle whose syllables are at hand: a fault, a wait, or its effects. -/
def bundleTry (s : State) (n : Nat) (ws : List W32) (chk : Check) : Option State :=
  let c := s.core n
  match bundleIllegal c ws with
  | some (d, i) =>
    let s := if d = 4 ∨ repeatBroken c ws then s.setCore n { c with rpt := 0 } else s
    some (takeException s n 0x01 d (illegalInfo ws i) c.pc false false)
  | none =>
    if hazard s n ws then none
    else match issueFault s n ws with
    | some (code, d, info) => some (takeException s n code d info c.pc false false)
    | none => match sylW ws 5 with
      | some y => xEffect s n ws y chk
      | none => some (advance (slotsEffect s n ws) n (c.pc + w64 (4 * ws.length)) (bundleCost c ws))

/-- A step of the debugger ends (R604). -/
def stepEnd (s : State) (n : Nat) : State :=
  let c := s.core n
  if c.stepping && c.serving && !c.halted && (c.wait == .none || c.wait == .wfe) then haltCore s n 2 0 else s

/-- The bundle at pc (R109, R110). -/
def bundleAt (s : State) (n : Nat) (chk : Check) : State :=
  let c := s.core n
  match fetchBundle s c c.pc with
  | .missing _ => s
  | .fault d a => stepEnd (takeException s n 2 d a a false false) n
  | .words ws =>
    let s := s.setCore n (c.touch c.pc ws.length)
    match bundleTry s n ws chk with
    | some t => stepEnd t n
    | none => s

/-- What a boundary takes before the bundle: the debugger, a fault, an interrupt; in a `jend` only a fault. -/
def boundaryAct (s : State) (n : Nat) : Option State :=
  match debugBoundary s n with
  | some t => some t
  | none => if (s.core n).wait = .jend then boundaryFault s n else boundary s n

/-- The core can be at a bundle boundary: it serves a job whose launch stamp is written, and it is not halted. -/
def coreLive (s : State) (n : Nat) : Bool :=
  let c := s.core n
  match c.job with
  | some j => !c.ended && (s.job j).stamped && !c.halted && !(s.die (n / 32)).doze
  | none => false

/-- BUNDLE_EXECUTE: time passes, and the core acts at its next boundary.
(DEDUCED, log entry 25; DESIGN CHOICE, log entry 117.) -/
def bundleExecute (s : State) (n : Nat) (p : Pace) : State :=
  let s := stopsSettle { s with cclk := s.cclk + p.cclk } false
  if !coreLive s n then s
  else
    let s := if (s.core n).shieldEnd < s.cclk then shieldSettle s n else s
    let done := fun (s : State) => shieldSettle s n
    match boundaryAct s n with
    | some t => done (stepEnd t n)
    | none => done <|
      let c := s.core n
      if c.wait = .jend then (if inOrder s n then rankEnd (s.setCore n (({ c with saved := [] } : Core).digFlush)) n else s)
      else if c.wait ≠ .none ∨ s.cclk < c.notBefore then s
      else bundleAt s n p.chk

/-! What completes later. -/

/-- DIVIDE_COMPLETE (R130, R140). -/
def divideDone (s : State) (n : Nat) : State :=
  let c := s.core n
  match c.div with
  | some d => if s.cclk < d.due then s else s.setCore n { (c.setG d.dest (divOp d.op d.wide d.a d.b)) with div := none }
  | none => s

/-- An older load to the same 8-byte word is still out (R123). -/
def olderLoad (c : Core) (q word : Nat) : Bool :=
  c.loads.any (fun l => decide (l.seqn < q) && (accHalves l.addr l.size).zipIdx.any (fun h =>
    h.1.1 / 8 == word && (if h.2 = 0 then l.low.isNone else l.high.isNone)))

/-- A load, which left the core when it issued, still has a request out to an 8-byte word (R123). -/
def wordOut (c : Core) (word : Nat) : Bool :=
  c.loads.any (fun l => (accHalves l.addr l.size).zipIdx.any (fun h =>
    h.1.1 / 8 == word && (if h.2 = 0 then l.low.isNone else l.high.isNone)))

/-- A load has all its bytes: its destination is written, or its fault is late (R127, R129). -/
def loadFinish (c : Core) (l : LoadRec) : Core :=
  if l.low.isSome ∧ (!l.split ∨ l.high.isSome) then
    let rest := c.loads.filter (fun x => x.seqn != l.seqn)
    match l.bad with
    | none => { (c.setG l.dest (loadValue l.signed ((l.low.getD []) ++ (l.high.getD [])))) with loads := rest }
    | some code =>
      let f : LateFault := { code, addr := l.addr, exc := l.exc, seqn := l.seqn }
      { c with loads := rest, late := (c.late.filter (fun x => x.seqn < f.seqn)) ++ f :: c.late.filter (fun x => f.seqn ≤ x.seqn) }
  else { c with loads := c.loads.map (fun x => if x.seqn = l.seqn then l else x) }

/-- LOAD_RESPONSE for a half of the k-th outstanding load (R123, R127, R129).  Each half goes to its own target; where one or
both return an error, the load is a late fault once both are back, and the error that came first names it.
(DEDUCED, log entry 35.) -/
def loadResponse (s : State) (n k : Nat) (high : Bool) (chk : Check) : State :=
  let c := s.core n
  match c.loads[k]? with
  | none => s
  | some l =>
    let out := if high then l.split && l.high.isNone else l.low.isNone
    match (accHalves l.addr l.size)[high.toNat]? with
    | none => s
    | some h =>
      if !out || olderLoad c l.seqn (h.1 / 8) || bridgeHolds s (n / 8) h.1 h.2 then s
      else
        let (s, r, bs) := coreRead s n l.level h.1 h.2 chk
        let code := if r = .ownErr then some 0x12 else if r = .datErr then some 0x13 else none
        let l := { l with bad := l.bad.orElse (fun _ => code) }
        s.setCore n (loadFinish (s.core n) (if high then { l with high := some bs } else { l with low := some bs }))

/-- STORE_BUFFER_DRAIN (R123, R124, R134): the oldest entry leaves for its target, after every request of a load to its
word. -/
def storeDrain (s : State) (n : Nat) (chk : Check) : State :=
  let c := s.core n
  match c.sb with
  | [] => s
  | x :: r =>
    if s.cclk < c.drainAt ∨ (!x.early && c.footHold x.seqn x.addr x.bytes.length true) ∨ wordOut c (x.addr / 8) ∨
       bridgeHolds s (n / 8) x.addr x.bytes.length then s
    else coreWrite (s.setCore n { c with sb := r, drainAt := s.cclk + 3 }) n x.level x.addr x.bytes chk

/-- The address of the first word that the fetch stage waits for. -/
def missingWord (s : State) (n : Nat) : Option W64 :=
  let c := s.core n
  match fetchBundle s c c.pc with
  | .missing a => some a
  | .fault _ _ => none
  | .words ws => match ws with
    | [y] => if slotOf y = 5 ∧ xOp y = 7 ∧ (if xL y then c.lc = 0 else xCode y = 0) then
        (match fetchBundle s c (c.pc + 4) with | .missing a => some a | _ => none) else none
    | _ => none

/-- INSTRUCTION_LINE_FILL (R120, R621): the missing line is read, or its fetch fails. -/
def lineFill (s : State) (n : Nat) (chk : Check) : State :=
  let c := s.core n
  if !coreLive s n then s
  else match missingWord s n with
  | none => s
  | some a =>
    let base := fld a 6 42 * 64
    if bridgeHolds s (n / 8) base 64 then s else
    let s := if taints (target s base) then taintBy s n c.level else s
    let s := if tracked s n then rrtRead s n (base, base + 63) else s
    let (s, r, bs) := memRead s (coreAgent s n c.level) base 64 chk
    let c := s.core n
    match r with
    | .ok => s.setCore n { (c.fillLine (lineTag a) (shadowOver s n base bs)) with fetchErr := none }
    | .decErr => s.setCore n { c with fetchErr := some (3, a) }
    | .ownErr => s.setCore n { c with fetchErr := some (5, a) }
    | .datErr => s.setCore n { c with fetchErr := some (6, a) }

/-- An event for the other die is carried: its direction of the bridge runs, and one of the credits of class SB is its own
(Table 14.7). -/
def eventFree (s : State) (e : Nat × Nat) : Bool :=
  coreDie e.1 == coreDie e.2 ||
  (!bridgeDown s && ((sbEvents s (coreDie e.2)).take (sbLeft s (coreDie e.2))).contains e)

/-- EVENT_LATCH_SET (R162): an event that is on its way arrives; a core that serves no job discards it. -/
def eventArrive (s : State) (n : Nat) : State :=
  match s.events.find? (fun e => e.1 == n && eventFree s e) with
  | none => s
  | some e =>
    let s := { s with events := s.events.erase e }
    let c := s.core n
    if c.serving then s.setCore n { c with latch := true } else s

/-- WFE_WAKE (R163). (DEDUCED, log entry 34.) -/
def wfeWake (s : State) (n : Nat) : State :=
  let c := s.core n
  if c.wait ≠ .wfe then s
  else if c.latch then stepEnd (s.setCore n { c with latch := false, wait := .none }) n
  else if (takeable s n).isSome then s.setCore n { c with wait := .none }
  else s

/-- WAITAX_COMPLETE and WAITCY_COMPLETE (R164, R165): the bundle executes with its wait over. -/
def waitEnd (s : State) (n : Nat) (ax : Bool) : State :=
  let c := s.core n
  let mine := match c.wait with | .waitax _ _ => ax | .waitcy _ => !ax | _ => false
  if !(coreLive s n) || !mine || !(waitMet s n c.wait) || (boundaryAct s n).isSome then s
  else bundleAt (s.setCore n { c with wait := .none }) n .clean

/-- EXCEPTION_ENTRY (R308, R311): the fault of the boundary is taken. -/
def exceptionEntry (s : State) (n : Nat) : State :=
  if !coreLive s n || (debugBoundary s n).isSome then s
  else match boundaryFault (shieldSettle s n) n with
    | some t => stepEnd t n
    | none => s

/-- INTERRUPT_TAKE (R316, R317). -/
def interruptTake (s : State) (n : Nat) : State :=
  if !coreLive s n || (debugBoundary s n).isSome || (s.core n).wait == .jend then s
  else
    let s' := shieldSettle s n
    if (boundaryFault s' n).isSome then s
    else match takeable s' n with
      | some j => stepEnd (takeInterrupt s' n j) n
      | none => s

/-! The launch stamp (R454). -/

def launchStamp (s : State) (j : Nat) (chk : Check) : State :=
  let x := s.job j
  let a := jPblk x.bytes
  let done := fun (s : State) => s.setJob j { s.job j with stamped := true }
  if !x.running || x.stamped then s
  else if a = 0 then done s
  else match x.cores with
  | [] => done s
  | n :: _ =>
    if bridgeHolds s (n / 8) a 8 then s else
    let c := s.core n
    match memFault s { c with status := 0 } (w64 a) 8 true with
    | some (_, d) => takeException s n 0x10 d (w64 a) (w64 (jEntry x.bytes)) false false
    | none =>
      let bs := leBytes x.stamp.toNat 8
      done ((accHalves a 8).foldl (fun s h => (busWrite s (coreAgent s n 1) h.1 ((bs.drop (h.1 - a)).take h.2) chk).1) s)

end Sys2Proof.Machine
end

