-- ==== Sys2Proof/Machine/PressCmd.lean ====
section
/-! DEFINITION. The press and the ports of its streams at work (R183, R184, R190, R196 to R198): the start of a group, one
element read by the stream engine, one write accepted, one unit of a pipe, one word of a routine. -/
namespace Sys2Proof.Machine

/-- The press of core n runs: the core is not in debug halt. -/
def pressRuns (s : State) (n : Nat) : Bool := !(s.core n).halted

/-- GROUP_START (R196): the oldest group that has not started starts when its conditions hold. (DEDUCED, log entry 43.) -/
def groupStart (s : State) (n : Nat) : State :=
  let c := s.core n
  match c.viq.find? (fun v => !v.started && !v.released) with
  | none => s
  | some v =>
    if pressRuns s n && c.canStart v.group then
      let s := groupRanges s n v.group
      s.setCore n ((s.core n).start v.group)
    else s

/-! STREAM_READ_RETURN. -/

/-- Number of elements that operand o may be asked for. -/
def readCount (v : Vop) (o : Nat) (d : BitVec 256) : Nat := if v.op = 0x6F ∧ o ≠ 4 then sdLen d else if o = 5 then v.vl else v.need o

/-- The element before which the reads of the commit unit at P end: the root's unit, and with a stave-wide permute the staves
that it takes its lanes from (R199, R218). -/
def Core.unitEnd (c : Core) (g : Nat) : Nat :=
  match c.rootOf g with
  | none => 0
  | some r =>
    let u := c.unit r
    let w := (c.members g).foldl (fun a x => if x.isWide then max a (tyLanes x.ty) else a) u
    (r.p + u + w - 1) / w * w
/-- In ordered mode a read waits until every write of a lower element has been accepted (R198). The reads of one commit unit are
issued together, since its writes come together (R199, R218). (DESIGN CHOICE, log entry 156.) -/
def orderedHold (c : Core) (v : Vop) (i : Nat) : Bool :=
  c.ordered v.group &&
    (c.wq.any (fun w => (c.members v.group).any (fun u => u.seqn == w.seqn)) || decide (c.unitEnd v.group ≤ i))
/-- Writes of an entry itself that memory does not hold yet: a routine's from its commit queue (R289). -/
def ownCovers (s : State) (c : Core) (v : Vop) (o i : Nat) : List Cover :=
  if !v.isMicro || (byWords s v && o < 4) then []
  else match c.micro with
    | some m => covers v m c o i
    | none => c.wq.map (fun w => (w.addr, w.bytes, w.bitp))

/-- Read the bytes of an element, in the halves of its words; the first error gives the reason of its fault (R184). -/
def elemRead (n lvl : Nat) (chk : Check) : List (Nat × Nat) → State → State × Option Nat × List Byte
  | [], s => (s, none, [])
  | h :: r, s =>
    let (s, p, bs) := coreRead s n lvl h.1 h.2 chk
    let (s, e, rest) := elemRead n lvl chk r s
    let bad := match p with | .ownErr => some 6 | .datErr => some 7 | _ => none
    (s, bad.orElse (fun _ => e), bs ++ rest)

/-- An element arrives at the stream engine. -/
def elemPut (s : State) (n : Nat) (v : Vop) (o i : Nat) (x : ElemIn) : State :=
  s.setCore n ((s.core n).setVop { v with data := v.data ++ [((o, i), x)] })

/-- The element's read transaction returns. -/
def elemFetch (s : State) (n : Nat) (v : Vop) (o i : Nat) (chk : Check) : Place → State
  | .wait => s
  | .none => elemPut s n v o i (.oor 0)
  | .fault f => elemPut s n v o i (.fault f)
  | .at a e b cl =>
    match elemFault s (s.core n) v.priv o a e mpuR with
    | some f => elemPut s n v o i (.fault { f with rank := v.rankOf o })
    | none =>
      let hs := accHalves a.toNat e
      if bridgeHolds s (n / 8) a.toNat e then s else
      let s := if hs.any (fun h => taints (target s h.1)) then taintBy s n v.priv else s
      let (s, bad, bs) := elemRead n v.priv chk hs s
      match bad with
      | some k => elemPut s n v o i (.fault (pFault 0x20 (o * 16 + k) (iw64 a) (v.rankOf o)))
      | none =>
        let x := w64 (leNat bs)
        let x := match b with | some k => w64 (bit x k).toNat | none => x
        let x := coverElem (ownCovers s (s.core n) v o i) x (.at a e b cl)
        elemPut s n v o i (if cl then .oor x else .value x)

/-- Elements of its packed source that `vexpand` takes for the selectors from element j on, as far as they are known (R220). -/
def expandTakes (c : Core) (v : Vop) : Nat → Nat → Nat
  | 0, _ => 0
  | f + 1, j => match c.enabled v j with
    | .val e _ _ =>
      if !(bit e 0) then expandTakes c v f (j + 1)
      else match v.fetch c 2 j (j - v.nxt) with
        | .val x _ _ => (if bit x 0 then 1 else 0) + expandTakes c v f (j + 1)
        | _ => 0
    | _ => 0
/-- An item from P on that has not passed uses element i of operand o (R187, R202, R218, R220, R228 to R231). -/
def stillUses (c : Core) (v : Vop) (o i : Nat) : Bool :=
  let bp := v.bcast3
  let later := fun (uses : Nat → List Nat) => (List.range (v.vl - v.p)).any (fun k => (uses (v.p + k)).contains (i / 2))
  match v.op, o with
  | 0x34, 1 => decide (v.packNow ≤ i) && decide (i < v.packNow + expandTakes c v (v.vl - v.nxt) v.nxt)
  | 0x60, 1 | 0x61, 1 => later (fftPoints v.op (fftN bp) (fld bp 5 5))
  | 0x60, 2 | 0x61, 2 => later (fftTwiddles v.op (fftN bp) (fld bp 5 5))
  | 0x62, 1 => decide (v.p ≤ i)
  | 0x63, 1 => decide (v.p * fld bp 0 32 ≤ i)
  | 0x62, 2 | 0x63, 2 => true
  | _, _ => decide (c.startAt v ≤ i) && decide (v.nxt ≤ i)
/-- Is a read of element i of operand o still wanted?  A port of a routine that runs by its words must be started, and is read
from the element it consumes next on (R283). After `vrestore` nothing below P is read again (R202). -/
def wanted (s : State) (c : Core) (v : Vop) (o i : Nat) : Bool :=
  if byWords s v && o < 4 then
    (match c.micro with
     | some m => (List.range 3).any (fun k => (match portOpnd v k, (m.ports[k]?).join with
        | some (q, _), some p => q == o && decide (p ≤ i)
        | _, _ => false))
     | none => false)
  else if byWords s v ∧ o = 4 then isGregO v.dst || (match c.micro with | some m => !m.rst || decide (m.restP ≤ i) | none => decide (c.recP ≤ i))
  else if o = 4 then (c.members v.group).any (fun u => decide (c.startAt u ≤ i))
  else stillUses c v o i

/-- STREAM_READ_RETURN: element i of operand o of the k-th entry of the queue.  The index of an element whose mask bit has
faulted is still read, since its fault would come first (R201). (DEDUCED, log entry 49.) -/
def streamRead (s : State) (n k o i : Nat) (chk : Check) : State :=
  let c := s.core n
  match c.viq[k]? with
  | none => s
  | some v => match readDesc v o with
    | none => s
    | some d =>
      let words := byWords s v
      if !(pressRuns s n) || c.vf || !v.started || v.released || v.fault.isSome || readCount v o d ≤ i
         || (v.data.lookup (o, i)).isSome || c.portBusy v o || !(wanted s c v o i) || orderedHold c v i || c.storesHold (c.members v.group) then s
      else if elementwise v o || (words && decide (o < 4) && decide (i < v.vl)) then
        match c.enabled v i with
        | .wait => s
        | .fault _ => if o = 5 then elemFetch s n v o i chk (placeOf c v o d i) else if words then elemPut s n v o i (.value 0) else s
        | .val e _ _ =>
          if bit e 0 then elemFetch s n v o i chk (placeOf c v o d i)
          else if words then elemPut s n v o i (.value 0) else s
      else elemFetch s n v o i chk (placeOf c v o d i)

/-- VECTOR_WRITE_ACCEPTED (R133, R183, R615): the oldest write of port W reaches its target, half by half. -/
def vectorWrite (s : State) (n : Nat) (chk : Check) : State :=
  let c := s.core n
  match c.wq with
  | [] => s
  | w :: _ =>
    if bridgeHolds s (n / 8) w.addr w.bytes.length then s else
    let s := if w.dig then (accHalves w.addr w.bytes.length).foldl (fun s h => markOutside s n h.1) s else s
    let s := match w.bitp with
      | some k => coreBitWrite s n w.level w.addr k (bit ((w.bytes[0]?).getD 0) 0) chk
      | none => (accHalves w.addr w.bytes.length).foldl (fun s (h : Nat × Nat) =>
          coreWrite s n w.level h.1 ((w.bytes.drop (h.1 - w.addr)).take h.2) chk) s
    s.setCore n (s.core n).wAccepted

/-- PIPE_RESULT (R191, R197, R262): the pipe of the k-th entry delivers its next unit. (DESIGN CHOICE, log entry 42.) -/
def pipeResult (s : State) (n k : Nat) : State :=
  let c := s.core n
  match c.viq[k]? with
  | none => s
  | some v => if pressRuns s n then s.setCore n (memberStep s c v) else s

/-- MICROWORD_EXECUTE (R281). -/
def microwordExecute (s : State) (n : Nat) : State :=
  let c := s.core n
  if pressRuns s n && !(c.storesHold (c.running.filter Vop.isMicro)) then s.setCore n (sequencerStep s c) else s

end Sys2Proof.Machine
end

