-- ==== Sys2Proof/Machine/Tick.lean ====
section
/-! DEFINITION. What alarms' actions do where they arrive (R449 to R453, R469), and one tick of AXCLK (R59, R446). -/
namespace Sys2Proof.Machine

/-! Actions that act in the device itself. -/

/-- The local timer that an alarm's action names. -/
def actTimer (a : Action) : Nat := alarmDie a.alarm * 32 + fld a.word 24 5
/-- The timer action of an alarm reaches its local timer, after those that come before it (R449, R469, Table 17.7). -/
def alarmTimer (s : State) (n : Nat) : State :=
  (dueActions s n .timer actTimer).foldl (fun s a => tmAlarmAction (dropAction s a) (actTimer a) (fld a.word 29 3)) s

/-- The core action of an alarm (R452): event latches of the cores that serve a job, or an interrupt of every core.
Cores of the other die wait for a stopped bridge (R530). -/
def alarmCore (s : State) (n : Nat) : State :=
  match dueAction s n .core with
  | none => s
  | some a =>
    let own := fun (k : Nat) => k / 32 == alarmDie n
    let cs := (coreSet (fld a.word 0 8) (fld a.word 8 8)).filter (fun k => if a.near then !(own k) else !bridgeDown s || own k)
    let rest := if bridgeDown s && actFar a then [{ a with near := true }] else []
    let s := rest.foldl (fun s b => { s with actions := actInsert b s.actions }) (dropAction s a)
    if bit a.word 16 then foldS cs (fun k s => raiseIrq s k (16 + fld a.word 17 3)) s
    else foldS cs (fun k s => if (s.core k).serving then s.setCore k { s.core k with latch := true } else s) s

/-- The poll action of an alarm (R417); the triggers of several alarms in one tick make one poll. -/
def alarmPoll (s : State) (n : Nat) : State :=
  match dueAction s n .poll with
  | none => s
  | some a => pollStart { dropAction s a with actions := (dropAction s a).actions.filter (fun b =>
      !(b.kind == .poll && b.due == a.due)) }

/-- One action that is due is carried out. -/
def actionDo (s : State) (a : Action) : State :=
  match a.kind with
  | .ring => launchToken s a.alarm
  | .pin => alarmPin s a.alarm
  | .timer => alarmTimer s a.alarm
  | .egress => egTrigger s a.alarm
  | .core => alarmCore s a.alarm
  | .stamp => stampWrite s a.alarm
  | .poll => alarmPoll s a.alarm

/-- Every action that is due and has not been carried out is, in the order of R449. -/
def actionsFlush (s : State) : State := (s.actions.filter (fun a => a.due ≤ s.tick)).foldl actionDo s
def pulsesFlush (s : State) : State := foldS (tkeys s.pulses) (fun i s => pulseStop s i) s

/-! Pins (R41, R43, R586). -/

/-- Number of LV pair i in the order of the two dies: LV0 to LV15. -/
def lvNo (i : Nat) : Nat := i / 40 * 8 + (i % 40 - 32)
/-- The input cell of timing pin i in the boundary register; its output and control cells follow it (R601, Table 24.2).
(DESIGN CHOICE, log entry 173.) -/
def padCell (i : Nat) : Nat := 3 * (if i % 40 < 32 then i / 40 * 32 + i % 40 else 64 + lvNo i)
/-- The function of pin i drives it. -/
def padOut (s : State) (i : Nat) : Bool := let f := fld (regGet s .axPin i) 1 3; decide (1 ≤ f) && decide (f ≤ 4)
/-- Level of a pad: what drives it from outside, or its own output (R43).  Under EXTEST and its forms the cells of the boundary
register stand in the place of the function. (DESIGN CHOICE, log entry 173.) -/
def padLevel (s : State) (i : Nat) (ext : Bool) : Bool :=
  match s.tap.driven with
  | some c => if c.getLsbD (padCell i + 2) then c.getLsbD (padCell i + 1) else ext
  | none =>
    let p := regGet s .axPin i
    padDriven s i (((s.ocLine[3]?).getD 0).getLsbD (2 * (i / 40 * 32 + fld p 4 5) + fld p 9 1)) ext

/-- Outputs OCx of all timers: bit 2 n + x (R471). -/
def ocWord (s : State) : BitVec 128 :=
  (List.range 128).foldl (fun w k => if timerPin s (k / 2) (k % 2) then setBit w k true else w) 0

/-- The place of pin i in PINDLY: TP0 to TP63, then LV0 to LV15 (Table 22.10). -/
def trimNo (i : Nat) : Nat := if i % 40 < 32 then i / 40 * 32 + i % 40 else 64 + lvNo i
/-- The delay compensation of pin i in steps of 10 ps: a value beyond 1,500 ps acts as the nearer limit (R585). -/
def pinTrim (s : State) (i : Nat) : Int :=
  let v := (BitVec.ofNat 16 (fld (regGet s .calPage (0xC0 + trimNo i / 2)) (16 * (trimNo i % 2)) 16)).toInt
  (max (-1500) (min 1500 v)).tdiv 10
/-- The level from outside at the sampling instant of pin i, which its delay compensation shifts (R585).
(DESIGN CHOICE, log entry 169.) -/
def padExt (s : State) (tp : BitVec 64) (lv : BitVec 16) (w : PadInputs) (i : Nat) : Bool :=
  match w.near.find? (fun e => e.1 == i) with
  | some e => e.2.getLsbD (150 - pinTrim s i).toNat
  | none => if i % 40 < 32 then tp.getLsbD (i / 40 * 32 + i % 40) else lv.getLsbD (lvNo i)
/-- Pair i is an input and open. -/
def padOpen (s : State) (w : PadInputs) (i : Nat) : Bool :=
  decide (32 ≤ i % 40) && w.openPairs.getLsbD (lvNo i) && fld (regGet s .axPin i) 1 3 == 0

/-- The pads of this tick. While a die is in DOZE its outputs keep their last level and its inputs go unsampled, so each
of its pads stands as it last stood (R68, R587). -/
def pinWord (s : State) (tp : BitVec 64) (lv : BitVec 16) (inputs : PadInputs) : BitVec 80 :=
  let last := s.pinHist.head?.getD 0
  (List.range 80).foldl (fun w i =>
    let l := if (s.die (i / 40)).doze && s.tap.driven.isNone then last.getLsbD i else padLevel s i (padExt s tp lv inputs i)
    if l then setBit w i true else w) 0

/-- The input pairs that are open in this tick; those of a dozing die stand as they last stood. -/
def openWord (s : State) (inputs : PadInputs) : BitVec 80 :=
  let last := s.openHist.head?.getD 0
  (List.range 80).foldl (fun w i =>
    if if (s.die (i / 40)).doze then last.getLsbD i else padOpen s inputs i then setBit w i true else w) 0

/-- For how many ticks each input pair has been open: counted to 1 µs. (DEDUCED, log entry 16.) -/
def openTicks (s : State) (inputs : PadInputs) : Table Nat :=
  (List.range 16).foldl (fun t j =>
    let i := j / 8 * 40 + 32 + j % 8
    if (s.die (j / 8)).doze then tset 0 t i (tget 0 s.lvOpen i)
    else tset 0 t i (if padOpen s inputs i then min 500 (tget 0 s.lvOpen i + 1) else 0)) []

/-- The pads are sampled; an input that has been open for 1 µs puts the axes that take it in LOST (R67). -/
def samplePins (s : State) (tp : BitVec 64) (lv : BitVec 16) (inputs : PadInputs) : State :=
  let before := fun (i : Nat) => fsFault s i
  let s := { s with pinHist := (pinWord s tp lv inputs :: s.pinHist).take 31, openHist := (openWord s inputs :: s.openHist).take 31
                    lvOpen := openTicks s inputs }
  foldS (liveAxes s) (fun n s => if hasFault s n (fun i => fsFault s i && !before i) then failsafe s n else s) s

/-! Boundary scan (R600, R601).  Cell 0 is bit 0; the groups follow each other as in Table 24.2. -/

/-- The cells of timing pin i as captured: its input cell takes the level at the ball, its output and control cells what drives it.
Where nothing does, the command brings what they capture. -/
def scanPin (s : State) (pads : BitVec 401) (w : BitVec 401) (i : Nat) : BitVec 401 :=
  let k := padCell i
  let on := match s.tap.driven with | some c => c.getLsbD (k + 2) | none => padOut s i
  let l := padLevel s i (pads.getLsbD k)
  setBit (setBit (setBit w k l) (k + 1) (if on then l else pads.getLsbD (k + 1))) (k + 2) on
/-- What Capture-DR takes: the timing pins as above, THERM_N (cells 395 and 396) as the device drives it, and every other ball as
the command brings it. (DESIGN CHOICE, log entry 173.) -/
def scanCapture (s : State) (pads : BitVec 401) : BitVec 401 :=
  let w := (List.range 80).foldl (scanPin s pads) pads
  if s.tap.driven.isSome then w else setBit (setBit w 395 (pads.getLsbD 395 && !s.power.thermN)) 396 (!s.power.thermN)
/-- A driving instruction drives the register and then samples the balls into it. -/
def scanDrive (s : State) (op : TapOp) (pads : BitVec 401) : State :=
  let s := tapSelect s op
  if tapDrives s.tap.op then { s with tap := { s.tap with cells := scanCapture s pads } } else s
/-- SAMPLE/PRELOAD: the register as shifted in, or as captured. (DEDUCED, log entry 116.) -/
def scanSample (s : State) (preload : Bool) (x : BitVec 401) : State :=
  let s := tapSelect s .sample
  let cells := if preload then x else scanCapture s x
  let s := { s with tap := { s.tap with cells } }
  if preload then s else { s with readBytes := leBytes cells.toNat 51 }

/-! Time. -/

/-- AX0 of a die that is awake advances by 2.0, the nanoseconds of one tick (R37). -/
def dieTick (s : State) (d : Nat) : State :=
  let x := s.die d
  if x.doze then s else s.setDie d { x with ax0 := x.ax0 + 0x20000 }

/-- The timers in a new tick: what the pads bring, and every second tick a new TMRCLK cycle. (DESIGN CHOICE, log entry 142.) -/
def timersTick (s : State) : State :=
  let s := foldS (List.range 64) (fun n s => tmPins s n) s
  if s.tick % 2 = 0 then foldS (List.range 64) (fun n s => tmBoundary s n) s else s

/-- The marks of the last tick are gone. -/
def dieSettle (s : State) (d : Nat) : State := s.setDie d { s.die d with woke := false, ax0jump := false }

/-- AXCLK_TICK: what the tick that ends still owes, the axis units and the launch of their snapshot, the new tick with its
samples and software rates, and the crossing test of every ACTIVE alarm. (DESIGN CHOICE, log entry 4.) -/
def axTick (s : State) (tp : BitVec 64) (lv : BitVec 16) (inputs : PadInputs) : State :=
  let s := stopsSettle (raisesFlush (pulsesFlush (actionsFlush (alarmsFlush s)))) true
  let s := axesTick s
  let s := foldS [0, 1] (fun d s => dieTick s d) { s with tick := s.tick + 1, ocLine := (ocWord s :: s.ocLine).take 4 }
  let s := timersTick (samplePins s tp lv inputs)
  let s := foldS (liveAxes s) (fun n s => sourceRate s n) s
  foldS [0, 1] (fun d s => dieSettle s d) (alarmsTest s)

end Sys2Proof.Machine
end

