-- ==== Sys2Proof/Machine/Exec.lean ====
section
/-! DEFINITION. What every command's meaning starts from: the device held in reset, a block that is not served, and a read
of a counter. -/
namespace Sys2Proof.Machine

/-- The outcome of a command. -/
abbrev Result := Host.Outcome State Fault Refusal

/-- A device that is held in reset takes no notice of the command (R568 to R570). (DESIGN CHOICE, log entry 6.) -/
def go (s t : State) : Result := .next (if inReset s then s else t)
/-- The command acts in the always-on domain: only PORST_N holds it off. -/
def goOn (s t : State) : Result := .next (if s.power.porst then s else t)

/-- The host's access reaches the register at an offset: its block is there and awake (R564, R611), BAR0 serves it (R544, R549,
R572), and no stopped bridge holds it (R384). (DESIGN CHOICE, log entry 11.) -/
def reaches (s : State) (off : Nat) : Bool := offServed s off && bar0Serves s off && !(bridgeDown s && rightBlock off)
/-- A write to register i of the name r acts only while it reaches the register. -/
def served (s : State) (r : RegName) (i : Nat) (t : State) : State := if reaches s (regOff r i) then t else s
/-- The same for a write of the whole register as one access (R13, R16). -/
def servedWrite (s : State) (r : RegName) (i : Nat) (t : State) : State := served s r i (endStage t r i)
/-- A read of a counter returns and clears it (R9); a block that is not served reads as 0, and a stopped bridge holds the read. -/
def counterRead (s : State) (r : RegName) (i : Nat) : State :=
  if reaches s (regOff r i) then rcRead s r i
  else if bridgeDown s && rightBlock (regOff r i) then s else { s with readData := 0 }

/-! Set-up registers (R7 to R18). -/

/-- REGISTER_WRITE (R7, R11 to R15): a write of `size` bytes at an offset of the control space, by the host. -/
def execRegisterWrite (off : BitVec 26) (size : Nat) (v : W64) (s : State) : Result :=
  go s (if bridgeDown s && rightBlock off.toNat then s else bar0Write s off.toNat ((leBytes v.toNat size).map some))

/-- LOW_HALF_READ_SNAPSHOT (R16): a 32-bit read of the low half of a 64-bit register. -/
def execLowHalfReadSnapshot (off : BitVec 26) (s : State) : Result :=
  go s (match findReg off.toNat with
    | some (r, i) =>
      if (regRow r).wide && reaches s off.toNat then
        let v := regValue s r i
        let s := readEffect s r i
        { s with snap := tset none s.snap off.toNat (some (highHalf v)), readData := (lowHalf v).setWidth 64 }
      else s
    | none => s)

end Sys2Proof.Machine
end

