-- ==== Sys2Proof/Machine/CmdAlarm.lean ====
section
/-! DEFINITION. The commands of axis alarms (chapter 17). -/
namespace Sys2Proof.Machine

/-- ALARM_ARM and ALARM_DISARM (R443, R444): writes of AL_n_CTRL. -/
def execAlarmArm (n : Fin 2048) (s : State) : Result := go s (served s .alCtrl n (alArm s n))
def execAlarmDisarm (n : Fin 2048) (s : State) : Result := go s (served s .alCtrl n (alDisarm s n))
def alarmRegName : AlarmReg → RegName
  | .cfg => .alCfg
  | .hyst => .alHyst
  | .target => .alTarget
  | .intv => .alIntv
  | .route => .alRoute
  | .pin => .alPin
  | .core => .alCore
  | .slog => .alSlog
  | .sbase => .alSbase
/-- ALARM_CONFIG_WRITE (R445). -/
def execAlarmConfigWrite (n : Fin 2048) (r : AlarmReg) (v : W64) (s : State) : Result :=
  go s (servedWrite s (alarmRegName r) n (alWordWrite s n (alarmRegName r) v))
/-- ALARM_FIRING (R446, R447). -/
def execAlarmFiring (n : Fin 2048) (s : State) : Result := go s (alarmFire s n)
/-- ALARM_PIN_ACTION (R450). -/
def execAlarmPinAction (n : Fin 2048) (s : State) : Result := go s (alarmPin s n)
/-- PULSE_END (R450). -/
def execPulseEnd (die : Fin 2) (pin : Fin 40) (s : State) : Result := go s (pulseStop s (pinIx die pin))
/-- ALARM_TIMER_ACTION (R469). -/
def execAlarmTimerAction (n : Fin 2048) (s : State) : Result := go s (alarmTimer s n)
/-- ALARM_CORE_EVENT (R452). -/
def execAlarmCoreEvent (n : Fin 2048) (s : State) : Result := go s (alarmCore s n)
/-- STAMP_RECORD and STAMP_WRITE_RESPONSE (R453). -/
def execStampRecord (x : Stamped) (s : State) : Result := go s (stampWrite s x.alarm x.chk)
def execStampWriteResponse (n : Fin 2048) (s : State) : Result := go s (stampAnswer s n)
/-- ALARM_DOORBELL_POLL (R417). -/
def execAlarmDoorbellPoll (n : Fin 2048) (s : State) : Result := go s (alarmPoll s n)
/-- AL_LATECNT_READ (R9). -/
def execAlLatecntRead (n : Fin 2048) (s : State) : Result := go s (counterRead s .alLatecnt n)

end Sys2Proof.Machine
end

