-- ==== Sys2Proof/Machine/CmdAxis.lean ====
section
/-! DEFINITION. The commands of axis time (chapter 02). -/
namespace Sys2Proof.Machine

/-- The axis is enabled in a mode, on a die that is awake. -/
def axisOn (s : State) (n mode : Nat) : Bool := axEn s n && axMode s n == mode && !(s.die (axisDie n)).doze

/-- AXIS_QUADRATURE_EDGE (R45 to R47). -/
def execAxisQuadratureEdge (n : Fin 32) (s : State) : Result :=
  go s (if axisOn s n 1 then quadStep s n else s)
/-- AXIS_INDEX_EVENT (R48): an edge of the same tick is counted first (Table 2.11). -/
def execAxisIndexEvent (n : Fin 32) (s : State) : Result :=
  go s (if axisOn s n 1 then sourceStep s n else s)
/-- AXIS_STEP_EDGE (R49). -/
def execAxisStepEdge (n : Fin 32) (s : State) : Result :=
  go s (if axisOn s n 2 then stepStep s n else s)
/-- AXIS_PULSE_EDGE (R50). -/
def execAxisPulseEdge (n : Fin 32) (s : State) : Result :=
  go s (if axisOn s n 3 then pulseStep s n else s)
/-- TSI_FRAME (R52 to R54): a whole frame is received. -/
def execTsiFrame (n : Fin 32) (frame : BitVec 90) (s : State) : Result :=
  go s (if axisOn s n 4 then tsiFrame s n frame else s)

/-- AXIS_ENABLE (R63): a write of AX_n_CFG in which EN goes from 0 to 1. -/
def execAxisEnable (n : Fin 32) (cfg : W32) (s : State) : Result :=
  go s (served s .axCfg n (if bit cfg 0 && !axEn s n then axRegWrite s n .axCfg (cfg.setWidth 64) else s))
/-- AXIS_DISABLE (R64): a write of AX_n_CFG in which EN goes from 1 to 0. -/
def execAxisDisable (n : Fin 32) (cfg : W32) (s : State) : Result :=
  go s (served s .axCfg n (if !bit cfg 0 && axEn s n then axRegWrite s n .axCfg (cfg.setWidth 64) else s))

def axisRegName : AxisReg → RegName
  | .cfg => .axCfg
  | .src => .axSrc
  | .aux => .axAux
  | .inc => .axInc
  | .loadv => .axLoadv
  | .zval => .axZval
  | .stallt => .axStallt
  | .tmo => .axTmo
  | .swrate => .axSwrate
/-- AXIS_CONFIG_WRITE (R64). -/
def execAxisConfigWrite (n : Fin 32) (r : AxisReg) (v : W64) (s : State) : Result :=
  go s (servedWrite s (axisRegName r) n (axRegWrite s n (axisRegName r) v))

/-- AXIS_LOAD (R65). -/
def execAxisLoad (n : Fin 32) (s : State) : Result := go s (served s .axCtrl n (axRegWrite s n .axCtrl 1))
/-- AXIS_REINDEX (R66). -/
def execAxisReindex (n : Fin 32) (s : State) : Result := go s (served s .axCtrl n (axRegWrite s n .axCtrl 2))
/-- AXIS_ADVANCE (R55). -/
def execAxisAdvance (n : Fin 32) (s : State) : Result := go s (served s .axCtrl n (axRegWrite s n .axCtrl 4))

/-- DERIVED_RATIO_WRITE (R56): NUM or DEN. -/
def execDerivedRatioWrite (n : Fin 32) (den : Bool) (v : W32) (s : State) : Result :=
  let r := if den then RegName.axDen else .axNum
  go s (served s r n (axRegWrite s n r (v.setWidth 64)))
/-- DERIVED_OFFSET_WRITE (R56). -/
def execDerivedOffsetWrite (n : Fin 32) (v : W64) (s : State) : Result :=
  go s (servedWrite s .axOffs n (axRegWrite s n .axOffs v))
/-- DERIVED_REBASE (R56): base travel of 2^56 or more moves the anchor. -/
def execDerivedRebase (n : Fin 32) (s : State) : Result :=
  go s (if axisOn s n 6 then
    let bv := baseValue s (axBase s n) 5
    modCore s n (fun c => if c.reanchor then c else rebase (axNum s n) (axDen s n) c bv)
  else s)

/-- A source whose value is interpolated between edges or frames (R59). -/
def interpolated (m : Nat) : Bool := m == 1 || m == 2 || m == 3 || m == 4 || m == 7
def axisLive (s : State) (n : Nat) : Bool := axEn s n && interpolated (axMode s n) && !(s.die (axisDie n)).doze
/-- AXIS_STALL (R62): no edge for more than STALLT ticks. -/
def execAxisStall (n : Fin 32) (s : State) : Result :=
  let t := fld (regGet s .axStallt n) 0 24
  go s (if axisLive s n && (s.axis n).core.state == .run && t != 0 && decide (t < (s.axis n).core.since) then
    modCore s n (fun c => { c with rate := 0, nedge := 0, stalled := true })
  else s)
/-- AXIS_FRAME_TIMEOUT (R67): no accepted frame for TMO µs, 500 ticks each. -/
def execAxisFrameTimeout (n : Fin 32) (s : State) : Result :=
  let t := fld (regGet s .axTmo n) 0 20
  go s (if (axisOn s n 4 || axisOn s n 7) && (s.axis n).core.state == .run && t != 0 && decide (t * 500 ≤ (s.axis n).core.quiet) then
    axLose (axStat s n stTmout) n .lost
  else s)
/-- AXIS_FAILSAFE_FAULT (R67): a pair that the axis takes has been open for 1 µs. -/
def execAxisFailsafeFault (n : Fin 32) (s : State) : Result :=
  go s (if !(s.die (axisDie n)).doze && hasFault s n (fsFault s) then failsafe s n else s)
/-- AX_ERRCNT_READ (R9). -/
def execAxErrcntRead (n : Fin 32) (s : State) : Result := go s (counterRead s .axErrcnt n)

/-- AXCLK_TICK (R59, R446). -/
def execAxclkTick (tp : BitVec 64) (lv : BitVec 16) (inputs : PadInputs) (s : State) : Result :=
  .next (trstPin (if inReset s then s else tamperHold (axTick s tp lv inputs)) inputs)

end Sys2Proof.Machine
end

