-- ==== Sys2Proof/Machine/CmdCore.lean ====
section
/-! DEFINITION. The commands of the cores (chapters 03 to 11): what the steward, its memory units, the press and the
microsequencer of a core do next. -/
namespace Sys2Proof.Machine

/-- BUNDLE_EXECUTE (R109): so many CCLK after the last event, the next bundle reaches E. -/
def execBundleExecute (n : Fin 64) (p : Pace) (s : State) : Result := go s (bundleExecute s n p)
/-- DIVIDE_COMPLETE (R130, R140). -/
def execDivideComplete (n : Fin 64) (s : State) : Result := go s (divideDone s n)
/-- LOAD_RESPONSE (R123). -/
def execLoadResponse (n : Fin 64) (k : Nat) (high : Bool) (chk : Check) (s : State) : Result :=
  go s (loadResponse s n k high chk)
/-- STORE_BUFFER_DRAIN (R124). -/
def execStoreBufferDrain (w : CoreWrite) (s : State) : Result := go s (storeDrain s w.core w.chk)
/-- INSTRUCTION_LINE_FILL (R120). -/
def execInstructionLineFill (n : Fin 64) (chk : Check) (s : State) : Result := go s (lineFill s n chk)
/-- EVENT_LATCH_SET (R162). -/
def execEventLatchSet (n : Fin 64) (s : State) : Result := go s (eventArrive s n)
/-- WFE_WAKE (R163). -/
def execWfeWake (n : Fin 64) (s : State) : Result := go s (wfeWake s n)
/-- WAITAX_COMPLETE (R164). -/
def execWaitaxComplete (n : Fin 64) (s : State) : Result := go s (waitEnd s n true)
/-- WAITCY_COMPLETE (R165). -/
def execWaitcyComplete (n : Fin 64) (s : State) : Result := go s (waitEnd s n false)
/-- GROUP_START (R196). -/
def execGroupStart (n : Fin 64) (s : State) : Result := go s (groupStart s n)
/-- STREAM_READ_RETURN (R197): element `i` of operand `o` of the k-th vector instruction. -/
def execStreamReadReturn (n : Fin 64) (k o i : Nat) (chk : Check) (s : State) : Result := go s (streamRead s n k o i chk)
/-- VECTOR_WRITE_ACCEPTED (R133). -/
def execVectorWriteAccepted (w : CoreWrite) (s : State) : Result := go s (vectorWrite s w.core w.chk)
/-- MICROWORD_EXECUTE (R281). -/
def execMicrowordExecute (n : Fin 64) (s : State) : Result := go s (microwordExecute s n)
/-- PIPE_RESULT (R262). -/
def execPipeResult (n : Fin 64) (k : Nat) (s : State) : Result := go s (pipeResult s n k)
/-- EXCEPTION_ENTRY (R308). -/
def execExceptionEntry (n : Fin 64) (s : State) : Result := go s (exceptionEntry s n)
/-- INTERRUPT_TAKE (R316). -/
def execInterruptTake (n : Fin 64) (s : State) : Result := go s (interruptTake s n)
/-- SHIELD_EXPIRY (R318). -/
def execShieldExpiry (n : Fin 64) (s : State) : Result := go s (shieldSettle s n)
/-- SOFTWARE_INTERRUPT (R312): a write of ROW_ISWIk. -/
def execSoftwareInterrupt (n : Fin 64) (m : Byte) (s : State) : Result :=
  go s (served s .rowIswi n (foldS ((List.range 8).filter (bit m)) (fun j s => raiseIrq s n j) s))

end Sys2Proof.Machine
end

