-- ==== Sys2Proof/Machine/CmdDebug.lean ====
section
/-! DEFINITION. The commands of debug (chapter 24). -/
namespace Sys2Proof.Machine

/-- HALTREQ (R603), RESUME and STEP (R604): writes of DBG_k_CTRL. -/
def execHaltreq (n : Fin 64) (s : State) : Result := go s (served s .dbgCtrl n (haltRequest s n))
def execDebugResume (n : Fin 64) (s : State) : Result := go s (served s .dbgCtrl n (haltRelease s n false))
def execDebugStep (n : Fin 64) (s : State) : Result := go s (served s .dbgCtrl n (haltRelease s n true))
/-- DEBUG_REGISTER_ACCESS (R606): the host acts at level S, the debug port at its own. -/
def execDebugRegisterAccess (n : Fin 64) (who : DebugAgent) (wr : Bool) (v : W64) (s : State) : Result :=
  let lvl := match who with | .host => if bar0Serves s (regOff .dbgRdata n) then some 1 else none | .port => portLevel s
  go s (if !offServed s (regOff .dbgRdata n) || (bridgeDown s && 32 ≤ n.val) then s else match lvl with
    | none => s
    | some l => if wr then endStage (dbgWrite s n l v) .dbgRdata n
                else { endSnap s .dbgRdata n with readData := dbgRead s n })
/-- DBG_TRDROP_READ (R9). -/
def execDbgTrdropRead (s : State) : Result := go s (counterRead s .dbgTrdrop 0)

/-- DBGACC (R602): Capture-DR, then Update-DR with the register shifted in. -/
def execDbgacc (r : BitVec 116) (s : State) : Result := go s (tapRun s (dbgUpdate (dbgCapture (tapSelect s .dbgacc)) r))
/-- DEBUG_ACCESS_RESPONSE (R602). -/
def execDebugAccessResponse (chk : Check) (s : State) : Result := go s (debugAnswer s chk)

/-- EXTEST, EXTEST_PULSE and EXTEST_TRAIN (R600): also while PORST_N is low.  They carry what the board holds at the balls. -/
def execExtest (x : BitVec 401) (s : State) : Result := .next (tapRun s (scanDrive s .extest x))
def execExtestPulse (x : BitVec 401) (s : State) : Result := .next (tapRun s (scanDrive s .pulse x))
def execExtestTrain (x : BitVec 401) (s : State) : Result := .next (tapRun s (scanDrive s .train x))
/-- SAMPLE_PRELOAD (R600): the balls are captured, or the register is shifted in, which every update hands over. -/
def execSamplePreload (preload : Bool) (x : BitVec 401) (s : State) : Result :=
  .next (tapRun s (scanSample s preload x))
/-- IDCODE (R600). -/
def execIdcode (s : State) : Result := .next (tapRun s { tapSelect s .idcode with readData := idCode })
/-- BYPASS (R600): any code that is not listed, or not allowed, selects the bypass register. -/
def execBypass (code : Byte) (s : State) : Result := .next (tapRun s (tapSelect s (tapCode code)))
/-- TEST_LOGIC_RESET (R600). -/
def execTestLogicReset (s : State) : Result := .next (tapSelect s .idcode)

end Sys2Proof.Machine
end

