-- ==== Sys2Proof/Machine/CmdLink.lean ====
section
/-! DEFINITION. The commands of the host link (chapter 15). -/
namespace Sys2Proof.Machine

/-- LINK_TRAINING (R393); a link that is up again sends what waits. -/
def execLinkTraining (rate width : Nat) (s : State) : Result := go s (pump (linkTrain s rate width))

/-- BAR0_ACCESS (R396). -/
def execBar0Access (off : BitVec 26) (wr : Bool) (len : Nat) (data : List (Option Byte)) (s : State) : Result :=
  go s (bar0Access s off.toNat wr len data)
/-- BAR0_READ_COMPLETION (R397). -/
def execBar0ReadCompletion (s : State) : Result := go s (bar0Complete s)
/-- BAR2_ACCESS (R398). -/
def execBar2Access (off : BitVec 28) (wr : Bool) (len : Nat) (data : List (Option Byte)) (chk : Check) (s : State) : Result :=
  go s (bar2Access s off.toNat wr len data chk)
/-- INBOUND_ERROR (R401). -/
def execInboundError (w : InboundError) (s : State) : Result := go s (inbound s w)
/-- COMMAND_REGISTER_WRITE (R399): a configuration request of the host, to the Command register or to another one. -/
def execCommandRegisterWrite (r : CfgReg) (v : Option W32) (s : State) : Result := go s (cfgAccess s r v)
/-- OUTBOUND_COMPLETION (R400). -/
def execOutboundCompletion (id : Nat) (r : LinkRes) (s : State) : Result :=
  go s (if s.link.isUp then outboundDone s id r else s)
/-- COMPLETION_TIMEOUT (R400). -/
def execCompletionTimeout (request part : Nat) (s : State) : Result := go s (outboundTimeout s (request + part))

/-- MSIX_MESSAGE (R402). -/
def execMsixMessage (v : Fin 2048) (s : State) : Result := go s (msixDeliver s v)
/-- MSIX_UNMASK (R402): an entry's mask bit goes to 0, or Message Control is written by a configuration request (R574). -/
def execMsixUnmask (w : MsixControl) (s : State) : Result :=
  go s (match w with
    | .entry e => if reaches s (msixBase + 16 * e) then msixWrite s e 3 0 else s
    | .control en mask => cfgAccess s .msixCtl (some (w32 (2 ^ 30 * mask.toNat + 2 ^ 31 * en.toNat))))
/-- MSIX_ENTRY_WRITE (R402). -/
def execMsixEntryWrite (e : Fin 2048) (dw : Fin 4) (x : W32) (s : State) : Result := go s (if reaches s (msixBase + 16 * e) then msixWrite s e dw x else s)

/-- FUNCTION_LEVEL_RESET (R403, R439). -/
def execFunctionLevelReset (s : State) : Result := go s (functionReset s)

/-- The link goes down: what cannot be sent is lost, reads not yet sent complete as timeouts, and host reads that wait for
their completion are gone. -/
def linkDown (s : State) : State :=
  if s.link.isUp then
    hlEvent (pump (s.setLink { s.link with rate := 0, width := 0, flit := false, reads := [], reply := none })) hlLdown
  else s
/-- LINK_DOWN (R404). -/
def execLinkDown (s : State) : Result := go s (linkDown s)
/-- LINK_UP (R404): the link trains again. -/
def execLinkUp (rate width : Nat) (s : State) : Result :=
  go s (if s.link.isUp then s else pump (linkTrain s rate width))

/-- GLB_BADACC_CLR (R407). -/
def execGlbBadaccClr (v : W32) (s : State) : Result := go s (served s .glbBadaccClr 0 (badaccClear s (v.setWidth 64)))
/-- GLB_BADACC_CNT_READ (R9). -/
def execGlbBadaccCntRead (s : State) : Result := go s (counterRead s .glbBadaccCnt 0)
/-- SMBUS_READ (R408): the port answers in every state of the device. -/
def execSmbusRead (t : SmbTransaction) (code : Byte) (s : State) : Result := .next (smbRead s t code)
/-- SMBUS_REFRESH (R408): in the always-on domain, also while a tamper response holds the device in reset. -/
def execSmbusRefresh (left right : List (BitVec 16)) (power core : W16) (s : State) : Result :=
  goOn s (smbRefresh s left right power core)

end Sys2Proof.Machine
end

