-- ==== Sys2Proof/Machine/CmdMem.lean ====
section
/-! DEFINITION. The commands of the memories (chapters 12 and 13). -/
namespace Sys2Proof.Machine

/-- Bytes of an access from address a that lie in its aligned 64-byte block. -/
def inBlock (a n : Nat) : Nat := min n (64 - a % 64)
/-- The response to a read, and to a write. -/
def answerRead (x : State × Resp × List Byte) : State := { x.1 with resp := x.2.1, readBytes := x.2.2 }
def answerWrite (x : State × Resp) : State := { x.1 with resp := x.2 }
/-- An access of master m that crosses a stopped bridge waits (R384, R530). -/
def unlessHeld (s : State) (m a n : Nat) (t : State) : State := if bridgeHolds s m a n then s else t

/-- CELLAR_READ (R335 to R338, R341, R342). -/
def execCellarRead (m : Fin 16) (level : Fin 3) (a : BitVec 28) (n : Nat) (chk : Check) (s : State) : Result :=
  go s (unlessHeld s m a.toNat (inBlock a.toNat n)
    (answerRead (memRead s { master := m, level, owned := m ≠ 15 } a.toNat (inBlock a.toNat n) chk)))
/-- CELLAR_WRITE (R335, R341, R342). -/
def execCellarWrite (m : Fin 16) (level : Fin 3) (a : BitVec 28) (bs : List Byte) (chk : Check) (s : State) : Result :=
  go s (unlessHeld s m a.toNat (inBlock a.toNat bs.length)
    (answerWrite (memWrite s { master := m, level, owned := m ≠ 15 } a.toNat (bs.take (inBlock a.toNat bs.length)) chk)))
/-- SCRUB_READ (R339). -/
def execScrubRead (sl : Fin 8) (ce ue : List Nat) (s : State) : Result := go s (scrubVisit s sl { ce, ue })

/-- OWNERSHIP_WRITE (R343). -/
def execOwnershipWrite (b : Fin 64) (new expect : Fin 16) (who : OwnAgent) (s : State) : Result :=
  go s (match who with
    | .host => served s .celOwn b (ownWrite s b new expect who none)
    | .core r _ => if (s.die 0).doze || (bridgeDown s && 4 ≤ r) then s else ownWrite s b new expect who none
    | _ => if (s.die 0).doze then s else ownWrite s b new expect who none)
/-- OWNER_IN_FORCE (R344). -/
def execOwnerInForce (b : Fin 64) (s : State) : Result := go s (ownForce s b)
/-- BAY_POWER_WRITE (R347). -/
def execBayPowerWrite (b : Fin 64) (st : Fin 4) (s : State) : Result := go s (served s .celBpwr b (bayPowerWrite s b st))
/-- BAY_POWER_TRANSITION_END (R348). -/
def execBayPowerTransitionEnd (b : Fin 64) (s : State) : Result := go s (bayPowerEnd s b)
/-- CEL_LOGCLR (R350). -/
def execCelLogclr (sl : Fin 8) (v : W32) (s : State) : Result :=
  go s (served s .celLogclr sl (celLogclr s sl (v.setWidth 64)))
/-- CEL_CECNT_READ, CEL_UECNT_READ and CEL_OECNT_READ (R9). -/
def execCelCecntRead (sl : Fin 8) (s : State) : Result := go s (counterRead s .celCecnt sl)
def execCelUecntRead (sl : Fin 8) (s : State) : Result := go s (counterRead s .celUecnt sl)
def execCelOecntRead (sl : Fin 8) (s : State) : Result := go s (counterRead s .celOecnt sl)

/-- No target serves the access of master m at address a, or the master has no path to the one that would (R353, R354,
Table 14.3). -/
def unreached (s : State) (m a : Nat) (wr : Bool) : Bool :=
  let t := target s a
  t == .none || !hasPath m (targetNo a t) ||
  (t == .cellar && ((!wr && (m == 10 || m == 11)) || (wr && (m == 12 || m == 13))))
/-- DEFAULT_TARGET_ACCESS (R354). -/
def execDefaultTargetAccess (m : Fin 16) (a : BitVec 48) (wr : Bool) (s : State) : Result :=
  go s (if unreached s m a.toNat wr then
    { decodeError s { master := m, level := 0 } a.toNat wr (target s a.toNat != .none) false with
        resp := .decErr, readBytes := if wr then s.readBytes else zeroBytes 8 }
  else s)
/-- BOOT_ROM_WRITE (R355). -/
def execBootRomWrite (m : Fin 16) (a : BitVec 48) (s : State) : Result :=
  go s (if target s a.toNat = .rom && !bridgeHolds s m a.toNat 1 then answerWrite (memWrite s { master := m, level := 0 } a.toNat [0] .clean) else s)

/-- The HBM range (Table 13.1). -/
def hbmRange (a : Nat) : Bool := decide (hbmBase ≤ a) && decide (a < 0x002800000000)
/-- HBM_READ (R359, R360). -/
def execHbmRead (m : Fin 16) (a : BitVec 48) (n : Nat) (chk : Check) (s : State) : Result :=
  go s (if hbmRange a.toNat then unlessHeld s m a.toNat (inBlock a.toNat n)
    (answerRead (memRead s { master := m, level := 0 } a.toNat (inBlock a.toNat n) chk)) else s)
/-- HBM_WRITE (R361). -/
def execHbmWrite (m : Fin 16) (a : BitVec 48) (d : WriteBytes) (s : State) : Result :=
  go s (if hbmRange a.toNat then unlessHeld s m a.toNat (inBlock a.toNat d.bytes.length)
    (answerWrite (memWrite s { master := m, level := 0 } a.toNat (d.bytes.take (inBlock a.toNat d.bytes.length)) d.chk)) else s)
/-- HBM_REFRESH (R363): the next row of a bank is refreshed; it changes timing only. (DESIGN CHOICE, log entry 71.) -/
def execHbmRefresh (ch : Fin 128) (sid : Fin 3) (bank : Fin 16) (s : State) : Result :=
  let k := (ch.val * 3 + sid.val) * 16 + bank.val
  go s { s with refresh := tset 0 s.refresh k ((tget 0 s.refresh k + 1) % 16384) }
/-- SOFT_REPAIR (R365). -/
def execSoftRepair (a : BitVec 48) (s : State) : Result := go s (softRepair s a.toNat)
/-- HBM_TRAIN (R367). -/
def execHbmTrain (s : State) : Result := go s (served s .hbmCtrl 0 (hbmTrain s))
/-- HBM_TRAINING_END (R367, R368). -/
def execHbmTrainingEnd (w0 w1 w2 w3 : W32) (s : State) : Result :=
  go s (hbmTrainEnd s (fun k => match k with | 0 => w0 | 1 => w1 | 2 => w2 | _ => w3))
/-- HBM_LOGCLR (R369). -/
def execHbmLogclr (k : Fin 4) (v : W32) (s : State) : Result :=
  go s (served s .hbmLogclr k (if bit v 0 then regPut s .hbmUelog k 0 else s))
/-- HBM_CECNT_READ and HBM_UECNT_READ (R9). -/
def execHbmCecntRead (k : Fin 4) (s : State) : Result := go s (counterRead s .hbmCecnt k)
def execHbmUecntRead (k : Fin 4) (s : State) : Result := go s (counterRead s .hbmUecnt k)
/-- STACK_HOT (R363). -/
def execStackHot (k : Fin 4) (temp : Byte) (s : State) : Result := go s (stackTemp s k temp)

end Sys2Proof.Machine
end

