-- ==== Sys2Proof/Machine/CmdPower.lean ====
section
/-! DEFINITION. The commands of power, clocks, DOZE, resets and boot (chapters 22 and 23). -/
namespace Sys2Proof.Machine

/-- OPP_REQUEST and OPP_SWITCH_DONE (R561). -/
def execOppRequest (req : Fin 4) (s : State) : Result := go s (served s .pwrOpp 0 (oppRequest s (w64 req)))
def execOppSwitchDone (s : State) : Result := go s (oppDone s)
/-- THERMAL_THROTTLE and THROTTLE_RELEASE (R562), which act on the live readings throughout (R591). -/
def execThermalThrottle (t : Temps) (s : State) : Result := goOn s (throttle s t)
def execThrottleRelease (t : Temps) (s : State) : Result := goOn s (throttleOff s t)

/-- DOZE_REQUEST (R563). -/
def execDozeRequest (dies : BitVec 2) (s : State) : Result := go s (served s .pwrDoze 0 (dozeRequest s ([0, 1].filter (bit dies))))
/-- DOZE_WAKE (R565): a wake write.  SLOWCLK gives the elapsed time as an edge offset, a count and an edge offset. -/
def execDozeWake (d : Fin 2) (e0 n e1 : Nat) (s : State) : Result := go s (served s .pwrDoze 0 (dieWake s d e0 n e1))
/-- WAKE_TIME_EXPIRY (R565): PWR_WAKETIME is not 0 and that many SLOWCLK cycles have passed. -/
def execWakeTimeExpiry (d : Fin 2) (e0 n e1 : Nat) (s : State) : Result :=
  let t := (regGet s .pwrWaketime 0).toNat
  go s (if t ≠ 0 ∧ t ≤ n then dieWake s d e0 n e1 else s)
/-- WAKE_PIN (R565): WAKE_N low while PWR_WAKE.PINEN is 1. -/
def execWakePin (d : Fin 2) (e0 n e1 : Nat) (s : State) : Result :=
  go s (if bit (regGet s .pwrWake 0) 0 then dieWake s d e0 n e1 else s)
/-- DOZE_TEMPERATURE_SAMPLE (R566). -/
def execDozeTemperatureSample (d : Fin 2) (t : Temps) (s : State) : Result := go s (dozeSample s d t)

/-- CORE_AUTO_OFF and CORE_WAKE (R558). -/
def execCoreAutoOff (n : Fin 64) (s : State) : Result := go s (coreAutoOff s n)
def execCoreWake (n : Fin 64) (s : State) : Result := go s (coreWake s n)
/-- ROW_POWER_REQUEST, ROW_WAKE and ROW_POWER_TRANSITION_END (R559). -/
def execRowPowerRequest (v : W16) (s : State) : Result := go s (served s .pwrRowpwr 0 (rowPowerWrite s (v.setWidth 64)))
def execRowWake (r : Fin 8) (s : State) : Result := go s (rowWake s r)
def execRowPowerTransitionEnd (r : Fin 8) (s : State) : Result := go s (rowPowerEnd s r)

/-- PORST (R570, R571): the release of PORST_N, with the straps that are sampled there. -/
def execPorst (perstScope : Bool) (smb : Fin 4) (s : State) : Result := .next (tapRelease (porstState s perstScope smb))
/-- PORST_N_ASSERT (R569, R570). -/
def execPorstNAssert (s : State) : Result := .next (porstAssert s)
/-- WARM_DEVICE_RESET (R572). -/
def execWarmDeviceReset (c : WarmCause) (s : State) : Result :=
  go s (match c with
    | .pwrRst => served s .pwrRst 0 (warmReset s 1)
    | .perst => perst s
    | .monitor => warmReset s 3)
/-- ROW_RESET (R573): the write of PWR_ROWRST, unless it has been made, and the end of the reset. -/
def execRowReset (r : Fin 8) (s : State) : Result := go s (rowResetEnd (served s .pwrRowrst 0 (rowResetStart s r)) r)
/-- BOOT_STAGE (R574). -/
def execBootStage (s : State) : Result := go s (bootStep s)

/-- SYSCLK_LOSS, SYSCLK_RETURN, SLOWCLK_BAD, SLOWCLK_GOOD and VGL_REFCLK_LOSS (R568). -/
def execSysclkLoss (s : State) : Result := goOn s (if s.power.sysLost then s else sysclkLoss s)
def execSysclkReturn (s : State) : Result := goOn s (if s.sec.hold then s else sysclkReturn s)
def execSlowclkBad (s : State) : Result := goOn s (slowBad s true)
def execSlowclkGood (s : State) : Result := goOn s (slowBad s false)
def execVglRefclkLoss (s : State) : Result := go s (vglRefLoss s)
/-- CALIBRATION_WRITE (R578): the write of PWR_CAL_CMD, unless it has been made, and what the Monitor does. -/
def execCalibrationWrite (page : Install) (s : State) : Result := go s (calRun (served s .pwrCalCmd 0 (calCmdWrite s 1)) page)
/-- THERM_N_ASSERT and THERM_N_RELEASE (R592): in every state of the device. -/
def execThermNAssert (s : State) : Result := .next { s with power := { s.power with thermN := true } }
def execThermNRelease (s : State) : Result := .next { s with power := { s.power with thermN := false } }

end Sys2Proof.Machine
end

