-- ==== Sys2Proof/Machine/CmdRas.lean ====
section
/-! DEFINITION. The commands of error handling (chapter 20) and of user microcode (chapter 10). -/
namespace Sys2Proof.Machine

/-- CORE_ERROR (R522, R523). -/
def execCoreError (row : Fin 8) (slot : Fin 9) (unit : CoreUnit) (place : Nat) (s : State) : Result :=
  go s (coreError s row slot (unitCode unit) place)
/-- CONTROL_STORE_ERROR (R302). -/
def execControlStoreError (f : StoreFault) (s : State) : Result := go s (storeError s f.core f.word)
/-- JOB_RERUN (R527). -/
def execJobRerun (r : Fin 8192) (q : W32) (s : State) : Result := go s (jobRerun s r q)
/-- ROW_ERROR (R529). -/
def execRowError (row : Fin 8) (passes : Bool) (s : State) : Result := go s (rowError s row passes)
/-- DEVICE_ERROR (R531). -/
def execDeviceError (unit : DeviceUnit) (records : Bool) (s : State) : Result :=
  go s (deviceError s (deviceUnitCode unit) records)
/-- EVENT_LOG_ENTRY (R533). -/
def execEventLogEntry (s : State) : Result := go s (logEntry s)

/-- MICROCODE_LOAD (R297, R298): a LOAD is started, unless one is in progress, and goes on once the cores are idle. -/
def execMicrocodeLoad (ce ue : List Nat) (s : State) : Result :=
  go s (served s .glbMcUctrl 0
    (let s := if mcBusy s then s else mcStart s 0
     if bit (regGet s .glbMcUctrl 0) 0 then mcStep s { ce, ue } else s))
/-- MICROCODE_CLEAR (R298). -/
def execMicrocodeClear (s : State) : Result :=
  go s (served s .glbMcUctrl 0
    (let s := if mcBusy s then s else mcStart s 1
     if bit (regGet s .glbMcUctrl 0) 0 then s else mcStep s .clean))

end Sys2Proof.Machine
end

