-- ==== Sys2Proof/Machine/CmdRing.lean ====
section
/-! DEFINITION. The commands of rings and jobs (chapter 16). -/
namespace Sys2Proof.Machine

/-- RING_ENABLE (R411): a write of RK_r_CFG that changes SIZE from 0. -/
def execRingEnable (r : Fin 8192) (cfg : W32) (s : State) : Result :=
  go s (served s .rkRCfg r (if (s.ring r).state == .disabled && fld cfg 0 5 != 0 then
    ringRegWrite s r .rkRCfg (cfg.setWidth 64) else s))
def ringRegName : RingReg → RegName
  | .cfg => .rkRCfg
  | .epoch => .rkREpoch
  | .sqbase => .rkRSqbase
  | .cqbase => .rkRCqbase
  | .cidx => .rkRCidx
  | .mod => .rkRMod
/-- RING_CONFIG_WRITE (R411). -/
def execRingConfigWrite (r : Fin 8192) (k : RingReg) (v : W64) (s : State) : Result :=
  go s (servedWrite s (ringRegName k) r (ringRegWrite s r (ringRegName k) v))

/-- POLL (R415). -/
def execPoll (s : State) : Result := go s (pollStart s)
/-- POLL_INTERVAL_EXPIRY (R417). -/
def execPollIntervalExpiry (s : State) : Result := go s (pollExpiry s)
/-- GROUP_WORD_READ_DONE (R415). -/
def execGroupWordReadDone (g : Fin 128) (s : State) : Result := go s (groupDone s g)
/-- DOORBELL_READ_DONE (R416). -/
def execDoorbellReadDone (r : Fin 8192) (s : State) : Result := go s (doorDone s r)
/-- DESCRIPTOR_FETCH and DESCRIPTOR_FETCH_DONE (R420). -/
def execDescriptorFetch (r : Fin 8192) (s : State) : Result := go s (descFetch s r)
def execDescriptorFetchDone (r : Fin 8192) (s : State) : Result := go s (descFetchDone s r)
/-- DESCRIPTOR_START (R421). -/
def execDescriptorStart (r : Fin 8192) (s : State) : Result := go s (descStart s r)
/-- LAUNCH_TOKEN (R422, R451). -/
def execLaunchToken (n : Fin 2048) (s : State) : Result := go s (launchToken s n)
/-- CORE_RESERVE (R424). -/
def execCoreReserve (w : Resource) (s : State) : Result :=
  go s (match w with
    | .core n => reserveCore s n
    | .engine e => reserveEngine s e)
/-- JOB_START (R425). -/
def execJobStart (r : Fin 8192) (q : W32) (s : State) : Result := go s (jobStart s r q)
/-- LAUNCH_STAMP_WRITE (R454). -/
def execLaunchStampWrite (r : Fin 8192) (q : Launched) (s : State) : Result :=
  go s (launchStamp s (jobId r q.seqNo) q.chk)
/-- JOB_COMPLETE (R427). -/
def execJobComplete (r : Fin 8192) (q : W32) (s : State) : Result := go s (jobComplete s r q)
/-- MOVE_CHUNK (R619) and MOVE_COMPLETE (R428). -/
def execMoveChunk (e : Fin 16) (source target : Check) (s : State) : Result := go s (moveChunk s e source target)
def execMoveComplete (e : Fin 16) (s : State) : Result := go s (moveComplete s e)
/-- HANDOVER (R429). -/
def execHandover (r : Fin 8192) (s : State) : Result := go s (handoverStep s r)
/-- OBJECT_DESCRIPTOR (R430). -/
def execObjectDescriptor (r : Fin 8192) (s : State) : Result := go s (objectStep s r)
/-- WAIT (R432). -/
def execWait (r : Fin 8192) (s : State) : Result := go s (waitStep s r)
/-- COMPLETION_RECORD (R433). -/
def execCompletionRecord (r : Fin 8192) (q : W32) (s : State) : Result := go s (recordWrite s r q)
/-- MODERATION_TIMEOUT (R437). -/
def execModerationTimeout (r : Fin 8192) (s : State) : Result := go s (modTimeout s r)
/-- RING_RESET, RING_RESUME and POLL_COMMAND (R438, R417): writes of RK_CMD. -/
def execRingReset (r : Fin 8192) (s : State) : Result := go s (served s .rkCmd 0 (ringReset s r))
def execRingResume (r : Fin 8192) (s : State) : Result := go s (served s .rkCmd 0 (ringResume s r))
def execPollCommand (s : State) : Result := go s (served s .rkCmd 0 (pollCmd s))
/-- RK_LOGCLR (R441). -/
def execRkLogclr (v : W32) (s : State) : Result := go s (served s .rkLogclr 0 (rkLogClear s (v.setWidth 64)))

end Sys2Proof.Machine
end

