-- ==== Sys2Proof/Machine/CmdSec.lean ====
section
/-! DEFINITION. The commands of security (chapter 21). -/
namespace Sys2Proof.Machine

/-- SECURE_BOOT (R542). -/
def execSecureBoot (s : State) : Result := go s (secureBoot s)
/-- ATTEST (R546), UPDATE (R545), COMMIT (R543), LCREQ (R548) and RECOVER (R544): commands of SEC_CMD. -/
def execAttest (s : State) : Result := go s (served s .secCmd 0 (attest s))
def execUpdate (image : Install) (s : State) : Result := go s (served s .secCmd 0 (update s image))
def execCommit (s : State) : Result := go s (served s .secCmd 0 (commitRbc s))
def execLcreq (auth : HostImage) (s : State) : Result := go s (served s .secCmd 0 (lcreq s auth))
def execRecover (image : HostImage) (s : State) : Result := go s (served s .secCmd 0 (recover s image))
/-- SEC_VIOLCNT_READ (R9). -/
def execSecViolcntRead (s : State) : Result := go s (counterRead s .secViolcnt 0)
/-- TAMPER_DETECT (R551 to R553): the always-on domain watches in every power state. -/
def execTamperDetect (src : Fin 4) (s : State) : Result := goOn s (tamper s src)
/-- TAMPER_N_RELEASE (R551). -/
def execTamperNRelease (s : State) : Result := goOn s (tamperRelease s)
/-- TAMPER_LOCK (R553). -/
def execTamperLock (s : State) : Result := go s (served s .secTampcfg 0 (tamperLock s))
/-- SHIELD_CAP_REQUEST (R554). -/
def execShieldCapRequest (q : W16) (s : State) : Result := go s (served s .secShcap 0 (shcapRequest s q))

end Sys2Proof.Machine
end

