-- ==== Sys2Proof/Machine/CmdTimer.lean ====
section
/-! DEFINITION. The commands of general timers (chapter 18). -/
namespace Sys2Proof.Machine

/-- TIMER_START, TIMER_STOP, TIMER_RESET and TIMER_LOAD (R469): writes of TMR_n_CTRL. -/
def execTimerStart (n : Fin 64) (s : State) : Result := go s (served s .tmrCtrl n (tmCtrlWrite s n 1))
def execTimerStop (n : Fin 64) (s : State) : Result := go s (served s .tmrCtrl n (tmCtrlWrite s n 2))
def execTimerReset (n : Fin 64) (s : State) : Result := go s (served s .tmrCtrl n (tmCtrlWrite s n 4))
def execTimerLoad (n : Fin 64) (s : State) : Result := go s (served s .tmrCtrl n (tmCtrlWrite s n 8))
/-- TIMER_TICK (R465). -/
def execTimerTick (n : Fin 64) (s : State) : Result := go s (tmTick s n)
/-- UPDATE_EVENT (R465 to R467). -/
def execUpdateEvent (n : Fin 64) (s : State) : Result := go s (tmUpdate s n)
/-- TRIGGER_INPUT_EDGE (R472): the edge that is due, if it is of the kind named. -/
def execTriggerInputEdge (n : Fin 64) (rising : Bool) (s : State) : Result := go s (tmTrigger s n rising)
def timerRegName : TimerReg → RegName
  | .psc => .tmrPsc
  | .per => .tmrPer
  | .cmp0 => .tmrCmp0
  | .cmp1 => .tmrCmp1
  | .cfg => .tmrCfg
  | .ocfg => .tmrOcfg
  | .slv => .tmrSlv
  | .capcfg => .tmrCapcfg
/-- TIMER_CONFIG_WRITE (R461, R466). -/
def execTimerConfigWrite (n : Fin 64) (r : TimerReg) (v : W32) (s : State) : Result :=
  go s (served s (timerRegName r) n (tmRegWrite s n (timerRegName r) (v.setWidth 64)))
/-- CAPTURE_EDGE (R474): the oldest edge that is due, if it is of the kind named. -/
def execCaptureEdge (n : Fin 64) (rising : Bool) (s : State) : Result := go s (tmCapture s n rising)
/-- CAP_PAIR_READ (R475): the whole register, or its low half with a snapshot of the high one. -/
def execCapPairRead (n : Fin 64) (wide : Bool) (s : State) : Result :=
  let off := regOff .tmrCapPair n
  go s (if bridgeDown s && rightBlock off then s else if !reaches s off then { s with readData := 0 }
    else
      let v := tmCapRead s n
      let s := tmClearNew s n
      if wide then { dropSnap s off with readData := v }
      else { s with snap := tset none s.snap off (some (highHalf v)), readData := (lowHalf v).setWidth 64 })
/-- TMR_MISSED_READ (R9). -/
def execTmrMissedRead (n : Fin 64) (s : State) : Result := go s (counterRead s .tmrMissed n)
/-- TIMER_SOURCE_EVENT (R465): one TMRCLK cycle of a timer whose source (Table 18.1) is the one named. -/
def execTimerSourceEvent (n : Fin 64) (source : Fin 4) (s : State) : Result :=
  go s (if tmClksel s n = source then tmCycle s n else s)

/-- A compatibility timer counts SYSCLK in every state of the device but those an always-on reset makes (R479, R480). -/
def goSys (s t : State) : Result := .next (if s.power.porst || s.power.sysLost then s else t)
/-- K5_RUN (R479): a write of 1 to K5_n_CTL.RUN. -/
def execK5Run (n : Fin 64) (s : State) : Result :=
  go s (served s .k5Ctl n (k5Write s n .k5Ctl (regGet s .k5Ctl n ||| 1)))
/-- K5_COUNT_TICK, K5_COUNT_WRAP, K5_COMPARE_MATCH and K5_CAPTURE (R479). -/
def execK5CountTick (n : Fin 64) (s : State) : Result := goSys s (k5Tick s n)
def execK5CountWrap (n : Fin 64) (s : State) : Result := goSys s (k5Wrap s n)
def execK5CompareMatch (n : Fin 64) (s : State) : Result := goSys s (k5Match s n)
def execK5Capture (n : Fin 64) (s : State) : Result := go s (k5Capture s n)

end Sys2Proof.Machine
end

