-- ==== Sys2Proof/Machine/CmdTrellis.lean ====
section
/-! DEFINITION. The commands of the Trellis and of the die bridge (chapter 14, R530). -/
namespace Sys2Proof.Machine

/-- TRELLIS_GRANT (R377 to R379): one TCLK of an arbiter. -/
def execTrellisGrant (place : Fin 23) (arriving : List PortReq) (s : State) : Result := go s (trellisGrant s place arriving)
/-- BUCKET_REFILL (R379). -/
def execBucketRefill (s : State) : Result := go s (bucketRefill s)
/-- BRIDGE_FLIT_REPLAY (R384): in the direction that leaves the Right Bank, or the Left Bank. -/
def execBridgeFlitReplay (rightToLeft delivered : Bool) (s : State) : Result :=
  go s (bridgeReplay s rightToLeft.toNat delivered)
/-- BRIDGE_RETRAIN_DONE (R530). -/
def execBridgeRetrainDone (success : Bool) (s : State) : Result := go s (bridgeRetrain s success)
/-- TR_LOGCLR (R390). -/
def execTrLogclr (v : W32) (s : State) : Result := go s (served s .trLogclr 0 (trLogClear s (v.setWidth 64)))
/-- TR_DECCNT_READ, TR_BRCE_READ and TR_SHIMCNT_READ (R9). -/
def execTrDeccntRead (d : Fin 2) (s : State) : Result := go s (counterRead s .trDeccnt d)
def execTrBrceRead (s : State) : Result := go s (counterRead s .trBrce 0)
def execTrShimcntRead (s : State) : Result := go s (counterRead s .trShimcnt 0)

end Sys2Proof.Machine
end

