-- ==== Sys2Proof/Machine/CmdVgl.lean ====
section
/-! DEFINITION. The commands of the Vangoak Link (chapter 19). -/
namespace Sys2Proof.Machine

/-- A port of a die that is awake. -/
def portAwake (s : State) (p : Nat) (t : State) : State := if (s.die (portDie p)).doze then s else t

/-- PORT_TRAINING_STEP and PORT_RETRAIN_RETRY (R488). -/
def execPortTrainingStep (p : Fin 8) (ok : Bool) (s : State) : Result := go s (portAwake s p (portTrain s p ok))
def execPortRetrainRetry (p : Fin 8) (s : State) : Result := go s (portAwake s p (portRetry s p))
/-- PORT_DOWN (R489): a cause that has no command of its own; a write of EN = 0 is one. -/
def execPortDown (p : Fin 8) (cause : DownCause) (s : State) : Result :=
  go s (portAwake s p (match cause with
    | .disabled => served s .vglCfg p (vglCfgWrite s p (setBit (regGet s .vglCfg p) 0 false))
    | .replays | .markerLost | .retrain => if (s.port p).ls == .up then portFall s p false else s))
/-- LINK_SILENCE_TIMEOUT (R489). -/
def execLinkSilenceTimeout (p : Fin 8) (s : State) : Result := go s (portAwake s p (silence s p))
/-- FLIT_RECEIVE (R487, R491, R494). -/
def execFlitReceive (a : FlitSlot) (corrected lost : Bool) (b : List Byte) (s : State) : Result :=
  go s (portAwake s a.port (flitIn s a.port a.sub (if lost then .lost else if corrected then .corrected else .clean) b))
/-- NAK (R495). -/
def execNak (p : Fin 8) (ack : Option (Fin 4096)) (s : State) : Result :=
  go s (portAwake s p (nakIn s p (ack.map (·.val))))
/-- REPLAY_TIMEOUT (R495). -/
def execReplayTimeout (p : Fin 8) (s : State) : Result := go s (portAwake s p (replayTimer s p))
/-- FLIT_SEND (R499). -/
def execFlitSend (a : FlitSlot) (s : State) : Result := go s (portAwake s a.port (flitOut s a.port a.sub))
/-- MESSAGE_RECEIVE (R501). -/
def execMessageReceive (p : Fin 8) (vc : Fin 4) (s : State) : Result := go s (portAwake s p (msgIn s p vc))
/-- INGEST_PLACEMENT and INGEST_HEADER_WRITE (R502). -/
def execIngestPlacement (x : Placement) (s : State) : Result := go s (ingestPlace s x.chan x.most x.chk)
def execIngestHeaderWrite (h : HeadWrite) (s : State) : Result := go s (ingestHeader s h.chan h.chk)
/-- CREDIT_RETURN (R498). -/
def execCreditReturn (p : Fin 8) (vc : Fin 4) (s : State) : Result := go s (portAwake s p (creditBack s p vc))
/-- EGRESS_TRIGGER, EGRESS_READS_DONE and EGRESS_FRAME_SENT (R505 to R507). -/
def execEgressTrigger (n : Fin 2048) (s : State) : Result := go s (egTrigger s n)
def execEgressReadsDone (c : Fin 256) (most : Option Nat) (chk : Check) (s : State) : Result := go s (egReads s c most chk)
def execEgressFrameSent (c : Fin 256) (s : State) : Result := go s (egSent s c)
/-- TIME_SYNC_INTERVAL (R511), HEARTBEAT_SEND and HEARTBEAT_TIMEOUT (R513). -/
def execTimeSyncInterval (p : Fin 8) (s : State) : Result := go s (portAwake s p (syncSend s p))
def execHeartbeatSend (p : Fin 8) (s : State) : Result := go s (portAwake s p (beatSend s p))
def execHeartbeatTimeout (p : Fin 8) (s : State) : Result := go s (portAwake s p (beatTimeout s p))

/-- CHANNEL_ENABLE and CHANNEL_DISABLE (R518): writes of the channel's CTRL register. -/
def execChannelEnable (c : Channel) (s : State) : Result :=
  go s (match c with
    | .ingest k => served s .vglInCtrl k (inEnable s k)
    | .egress k => served s .vglEgCtrl k (egEnable s k))
def execChannelDisable (c : Channel) (s : State) : Result :=
  go s (match c with
    | .ingest k => served s .vglInCtrl k (inDisable s k)
    | .egress k => served s .vglEgCtrl k (egDisable s k))

/-- Reads of the counters of a port and of a channel (R9). -/
def execVglCecntRead (p : Fin 8) (s : State) : Result := go s (counterRead s .vglCecnt p)
def execVglUecntRead (p : Fin 8) (s : State) : Result := go s (counterRead s .vglUecnt p)
def execVglCrccntRead (p : Fin 8) (s : State) : Result := go s (counterRead s .vglCrccnt p)
def execVglRplcntRead (p : Fin 8) (s : State) : Result := go s (counterRead s .vglRplcnt p)
def execVglTrncntRead (p : Fin 8) (s : State) : Result := go s (counterRead s .vglTrncnt p)
def execVglUnmcntRead (p : Fin 8) (s : State) : Result := go s (counterRead s .vglUnmcnt p)
def execVglInErrcntRead (c : Fin 256) (s : State) : Result := go s (counterRead s .vglInErrcnt c)
def execVglEgDropcntRead (c : Fin 256) (s : State) : Result := go s (counterRead s .vglEgDropcnt c)

end Sys2Proof.Machine
end

