-- ==== Sys2Proof/Machine/Dispatch.lean ====
section
/-! DEFINITION. One arm for each command: its meaning. -/
namespace Sys2Proof.Machine

def exec (i : Instr) (s : State) : Host.Outcome State Fault Refusal :=
  match i with
  | .registerWrite a b c => Sys2Proof.Machine.execRegisterWrite a b c s
  | .lowHalfReadSnapshot a => Sys2Proof.Machine.execLowHalfReadSnapshot a s
  | .axisQuadratureEdge a => Sys2Proof.Machine.execAxisQuadratureEdge a s
  | .axisIndexEvent a => Sys2Proof.Machine.execAxisIndexEvent a s
  | .axisStepEdge a => Sys2Proof.Machine.execAxisStepEdge a s
  | .axisPulseEdge a => Sys2Proof.Machine.execAxisPulseEdge a s
  | .tsiFrame a b => Sys2Proof.Machine.execTsiFrame a b s
  | .axisEnable a b => Sys2Proof.Machine.execAxisEnable a b s
  | .axisDisable a b => Sys2Proof.Machine.execAxisDisable a b s
  | .axisConfigWrite a b c => Sys2Proof.Machine.execAxisConfigWrite a b c s
  | .axisLoad a => Sys2Proof.Machine.execAxisLoad a s
  | .axisReindex a => Sys2Proof.Machine.execAxisReindex a s
  | .axisAdvance a => Sys2Proof.Machine.execAxisAdvance a s
  | .derivedRatioWrite a b c => Sys2Proof.Machine.execDerivedRatioWrite a b c s
  | .derivedOffsetWrite a b => Sys2Proof.Machine.execDerivedOffsetWrite a b s
  | .derivedRebase a => Sys2Proof.Machine.execDerivedRebase a s
  | .axisStall a => Sys2Proof.Machine.execAxisStall a s
  | .axisFrameTimeout a => Sys2Proof.Machine.execAxisFrameTimeout a s
  | .axisFailsafeFault a => Sys2Proof.Machine.execAxisFailsafeFault a s
  | .axErrcntRead a => Sys2Proof.Machine.execAxErrcntRead a s
  | .bundleExecute a b => Sys2Proof.Machine.execBundleExecute a b s
  | .divideComplete a => Sys2Proof.Machine.execDivideComplete a s
  | .loadResponse a b c d => Sys2Proof.Machine.execLoadResponse a b c d s
  | .storeBufferDrain a => Sys2Proof.Machine.execStoreBufferDrain a s
  | .instructionLineFill a b => Sys2Proof.Machine.execInstructionLineFill a b s
  | .eventLatchSet a => Sys2Proof.Machine.execEventLatchSet a s
  | .wfeWake a => Sys2Proof.Machine.execWfeWake a s
  | .waitaxComplete a => Sys2Proof.Machine.execWaitaxComplete a s
  | .waitcyComplete a => Sys2Proof.Machine.execWaitcyComplete a s
  | .groupStart a => Sys2Proof.Machine.execGroupStart a s
  | .streamReadReturn a b c d e => Sys2Proof.Machine.execStreamReadReturn a b c d e s
  | .vectorWriteAccepted a => Sys2Proof.Machine.execVectorWriteAccepted a s
  | .microwordExecute a => Sys2Proof.Machine.execMicrowordExecute a s
  | .exceptionEntry a => Sys2Proof.Machine.execExceptionEntry a s
  | .interruptTake a => Sys2Proof.Machine.execInterruptTake a s
  | .shieldExpiry a => Sys2Proof.Machine.execShieldExpiry a s
  | .softwareInterrupt a b => Sys2Proof.Machine.execSoftwareInterrupt a b s
  | .cellarRead a b c d e => Sys2Proof.Machine.execCellarRead a b c d e s
  | .cellarWrite a b c d e => Sys2Proof.Machine.execCellarWrite a b c d e s
  | .scrubRead a b c => Sys2Proof.Machine.execScrubRead a b c s
  | .ownershipWrite a b c d => Sys2Proof.Machine.execOwnershipWrite a b c d s
  | .ownerInForce a => Sys2Proof.Machine.execOwnerInForce a s
  | .bayPowerWrite a b => Sys2Proof.Machine.execBayPowerWrite a b s
  | .bayPowerTransitionEnd a => Sys2Proof.Machine.execBayPowerTransitionEnd a s
  | .celLogclr a b => Sys2Proof.Machine.execCelLogclr a b s
  | .celCecntRead a => Sys2Proof.Machine.execCelCecntRead a s
  | .celUecntRead a => Sys2Proof.Machine.execCelUecntRead a s
  | .celOecntRead a => Sys2Proof.Machine.execCelOecntRead a s
  | .defaultTargetAccess a b c => Sys2Proof.Machine.execDefaultTargetAccess a b c s
  | .bootRomWrite a b => Sys2Proof.Machine.execBootRomWrite a b s
  | .hbmRead a b c d => Sys2Proof.Machine.execHbmRead a b c d s
  | .hbmWrite a b c => Sys2Proof.Machine.execHbmWrite a b c s
  | .hbmRefresh a b c => Sys2Proof.Machine.execHbmRefresh a b c s
  | .softRepair a => Sys2Proof.Machine.execSoftRepair a s
  | .hbmTrain => Sys2Proof.Machine.execHbmTrain s
  | .hbmTrainingEnd a b c d => Sys2Proof.Machine.execHbmTrainingEnd a b c d s
  | .hbmLogclr a b => Sys2Proof.Machine.execHbmLogclr a b s
  | .hbmCecntRead a => Sys2Proof.Machine.execHbmCecntRead a s
  | .hbmUecntRead a => Sys2Proof.Machine.execHbmUecntRead a s
  | .trellisGrant a b => Sys2Proof.Machine.execTrellisGrant a b s
  | .bridgeFlitReplay a b => Sys2Proof.Machine.execBridgeFlitReplay a b s
  | .trLogclr a => Sys2Proof.Machine.execTrLogclr a s
  | .trDeccntRead a => Sys2Proof.Machine.execTrDeccntRead a s
  | .trBrceRead => Sys2Proof.Machine.execTrBrceRead s
  | .trShimcntRead => Sys2Proof.Machine.execTrShimcntRead s
  | .linkTraining a b => Sys2Proof.Machine.execLinkTraining a b s
  | .bar0Access a b c d => Sys2Proof.Machine.execBar0Access a b c d s
  | .bar0ReadCompletion => Sys2Proof.Machine.execBar0ReadCompletion s
  | .bar2Access a b c d e => Sys2Proof.Machine.execBar2Access a b c d e s
  | .inboundError a => Sys2Proof.Machine.execInboundError a s
  | .commandRegisterWrite a b => Sys2Proof.Machine.execCommandRegisterWrite a b s
  | .outboundCompletion a b => Sys2Proof.Machine.execOutboundCompletion a b s
  | .completionTimeout a b => Sys2Proof.Machine.execCompletionTimeout a b s
  | .msixMessage a => Sys2Proof.Machine.execMsixMessage a s
  | .msixUnmask a => Sys2Proof.Machine.execMsixUnmask a s
  | .msixEntryWrite a b c => Sys2Proof.Machine.execMsixEntryWrite a b c s
  | .functionLevelReset => Sys2Proof.Machine.execFunctionLevelReset s
  | .linkDown => Sys2Proof.Machine.execLinkDown s
  | .linkUp a b => Sys2Proof.Machine.execLinkUp a b s
  | .glbBadaccClr a => Sys2Proof.Machine.execGlbBadaccClr a s
  | .glbBadaccCntRead => Sys2Proof.Machine.execGlbBadaccCntRead s
  | .smbusRead a b => Sys2Proof.Machine.execSmbusRead a b s
  | .smbusRefresh a b c d => Sys2Proof.Machine.execSmbusRefresh a b c d s
  | .ringEnable a b => Sys2Proof.Machine.execRingEnable a b s
  | .ringConfigWrite a b c => Sys2Proof.Machine.execRingConfigWrite a b c s
  | .poll => Sys2Proof.Machine.execPoll s
  | .pollIntervalExpiry => Sys2Proof.Machine.execPollIntervalExpiry s
  | .groupWordReadDone a => Sys2Proof.Machine.execGroupWordReadDone a s
  | .doorbellReadDone a => Sys2Proof.Machine.execDoorbellReadDone a s
  | .descriptorFetch a => Sys2Proof.Machine.execDescriptorFetch a s
  | .descriptorFetchDone a => Sys2Proof.Machine.execDescriptorFetchDone a s
  | .descriptorStart a => Sys2Proof.Machine.execDescriptorStart a s
  | .launchToken a => Sys2Proof.Machine.execLaunchToken a s
  | .coreReserve a => Sys2Proof.Machine.execCoreReserve a s
  | .jobStart a b => Sys2Proof.Machine.execJobStart a b s
  | .launchStampWrite a b => Sys2Proof.Machine.execLaunchStampWrite a b s
  | .jobComplete a b => Sys2Proof.Machine.execJobComplete a b s
  | .moveChunk a b c => Sys2Proof.Machine.execMoveChunk a b c s
  | .moveComplete a => Sys2Proof.Machine.execMoveComplete a s
  | .handover a => Sys2Proof.Machine.execHandover a s
  | .objectDescriptor a => Sys2Proof.Machine.execObjectDescriptor a s
  | .wait a => Sys2Proof.Machine.execWait a s
  | .completionRecord a b => Sys2Proof.Machine.execCompletionRecord a b s
  | .moderationTimeout a => Sys2Proof.Machine.execModerationTimeout a s
  | .ringReset a => Sys2Proof.Machine.execRingReset a s
  | .ringResume a => Sys2Proof.Machine.execRingResume a s
  | .pollCommand => Sys2Proof.Machine.execPollCommand s
  | .rkLogclr a => Sys2Proof.Machine.execRkLogclr a s
  | .alarmArm a => Sys2Proof.Machine.execAlarmArm a s
  | .alarmDisarm a => Sys2Proof.Machine.execAlarmDisarm a s
  | .alarmConfigWrite a b c => Sys2Proof.Machine.execAlarmConfigWrite a b c s
  | .alarmFiring a => Sys2Proof.Machine.execAlarmFiring a s
  | .alarmPinAction a => Sys2Proof.Machine.execAlarmPinAction a s
  | .pulseEnd a b => Sys2Proof.Machine.execPulseEnd a b s
  | .alarmTimerAction a => Sys2Proof.Machine.execAlarmTimerAction a s
  | .alarmCoreEvent a => Sys2Proof.Machine.execAlarmCoreEvent a s
  | .stampRecord a => Sys2Proof.Machine.execStampRecord a s
  | .alarmDoorbellPoll a => Sys2Proof.Machine.execAlarmDoorbellPoll a s
  | .alLatecntRead a => Sys2Proof.Machine.execAlLatecntRead a s
  | .timerStart a => Sys2Proof.Machine.execTimerStart a s
  | .timerStop a => Sys2Proof.Machine.execTimerStop a s
  | .timerReset a => Sys2Proof.Machine.execTimerReset a s
  | .timerLoad a => Sys2Proof.Machine.execTimerLoad a s
  | .timerTick a => Sys2Proof.Machine.execTimerTick a s
  | .updateEvent a => Sys2Proof.Machine.execUpdateEvent a s
  | .triggerInputEdge a b => Sys2Proof.Machine.execTriggerInputEdge a b s
  | .timerConfigWrite a b c => Sys2Proof.Machine.execTimerConfigWrite a b c s
  | .captureEdge a b => Sys2Proof.Machine.execCaptureEdge a b s
  | .capPairRead a b => Sys2Proof.Machine.execCapPairRead a b s
  | .tmrMissedRead a => Sys2Proof.Machine.execTmrMissedRead a s
  | .k5Run a => Sys2Proof.Machine.execK5Run a s
  | .k5CountWrap a => Sys2Proof.Machine.execK5CountWrap a s
  | .k5CompareMatch a => Sys2Proof.Machine.execK5CompareMatch a s
  | .k5Capture a => Sys2Proof.Machine.execK5Capture a s
  | .portTrainingStep a b => Sys2Proof.Machine.execPortTrainingStep a b s
  | .portRetrainRetry a => Sys2Proof.Machine.execPortRetrainRetry a s
  | .portDown a b => Sys2Proof.Machine.execPortDown a b s
  | .linkSilenceTimeout a => Sys2Proof.Machine.execLinkSilenceTimeout a s
  | .flitReceive a b c d => Sys2Proof.Machine.execFlitReceive a b c d s
  | .nak a b => Sys2Proof.Machine.execNak a b s
  | .replayTimeout a => Sys2Proof.Machine.execReplayTimeout a s
  | .flitSend a => Sys2Proof.Machine.execFlitSend a s
  | .messageReceive a b => Sys2Proof.Machine.execMessageReceive a b s
  | .ingestPlacement a => Sys2Proof.Machine.execIngestPlacement a s
  | .ingestHeaderWrite a => Sys2Proof.Machine.execIngestHeaderWrite a s
  | .creditReturn a b => Sys2Proof.Machine.execCreditReturn a b s
  | .egressTrigger a => Sys2Proof.Machine.execEgressTrigger a s
  | .egressReadsDone a b c => Sys2Proof.Machine.execEgressReadsDone a b c s
  | .egressFrameSent a => Sys2Proof.Machine.execEgressFrameSent a s
  | .timeSyncInterval a => Sys2Proof.Machine.execTimeSyncInterval a s
  | .heartbeatSend a => Sys2Proof.Machine.execHeartbeatSend a s
  | .heartbeatTimeout a => Sys2Proof.Machine.execHeartbeatTimeout a s
  | .channelEnable a => Sys2Proof.Machine.execChannelEnable a s
  | .channelDisable a => Sys2Proof.Machine.execChannelDisable a s
  | .vglCecntRead a => Sys2Proof.Machine.execVglCecntRead a s
  | .vglUecntRead a => Sys2Proof.Machine.execVglUecntRead a s
  | .vglCrccntRead a => Sys2Proof.Machine.execVglCrccntRead a s
  | .vglRplcntRead a => Sys2Proof.Machine.execVglRplcntRead a s
  | .vglTrncntRead a => Sys2Proof.Machine.execVglTrncntRead a s
  | .vglUnmcntRead a => Sys2Proof.Machine.execVglUnmcntRead a s
  | .vglInErrcntRead a => Sys2Proof.Machine.execVglInErrcntRead a s
  | .vglEgDropcntRead a => Sys2Proof.Machine.execVglEgDropcntRead a s
  | .coreError a b c d => Sys2Proof.Machine.execCoreError a b c d s
  | .controlStoreError a => Sys2Proof.Machine.execControlStoreError a s
  | .jobRerun a b => Sys2Proof.Machine.execJobRerun a b s
  | .rowError a b => Sys2Proof.Machine.execRowError a b s
  | .deviceError a b => Sys2Proof.Machine.execDeviceError a b s
  | .eventLogEntry => Sys2Proof.Machine.execEventLogEntry s
  | .microcodeLoad a b => Sys2Proof.Machine.execMicrocodeLoad a b s
  | .microcodeClear => Sys2Proof.Machine.execMicrocodeClear s
  | .secureBoot => Sys2Proof.Machine.execSecureBoot s
  | .attest => Sys2Proof.Machine.execAttest s
  | .update a => Sys2Proof.Machine.execUpdate a s
  | .commit => Sys2Proof.Machine.execCommit s
  | .lcreq a => Sys2Proof.Machine.execLcreq a s
  | .recover a => Sys2Proof.Machine.execRecover a s
  | .secViolcntRead => Sys2Proof.Machine.execSecViolcntRead s
  | .tamperDetect a => Sys2Proof.Machine.execTamperDetect a s
  | .tamperLock => Sys2Proof.Machine.execTamperLock s
  | .shieldCapRequest a => Sys2Proof.Machine.execShieldCapRequest a s
  | .oppRequest a => Sys2Proof.Machine.execOppRequest a s
  | .oppSwitchDone => Sys2Proof.Machine.execOppSwitchDone s
  | .thermalThrottle a => Sys2Proof.Machine.execThermalThrottle a s
  | .throttleRelease a => Sys2Proof.Machine.execThrottleRelease a s
  | .dozeRequest a => Sys2Proof.Machine.execDozeRequest a s
  | .dozeWake a b c d => Sys2Proof.Machine.execDozeWake a b c d s
  | .wakeTimeExpiry a b c d => Sys2Proof.Machine.execWakeTimeExpiry a b c d s
  | .wakePin a b c d => Sys2Proof.Machine.execWakePin a b c d s
  | .coreAutoOff a => Sys2Proof.Machine.execCoreAutoOff a s
  | .coreWake a => Sys2Proof.Machine.execCoreWake a s
  | .rowPowerRequest a => Sys2Proof.Machine.execRowPowerRequest a s
  | .rowWake a => Sys2Proof.Machine.execRowWake a s
  | .porst a b => Sys2Proof.Machine.execPorst a b s
  | .warmDeviceReset a => Sys2Proof.Machine.execWarmDeviceReset a s
  | .rowReset a => Sys2Proof.Machine.execRowReset a s
  | .bootStage => Sys2Proof.Machine.execBootStage s
  | .sysclkLoss => Sys2Proof.Machine.execSysclkLoss s
  | .sysclkReturn => Sys2Proof.Machine.execSysclkReturn s
  | .slowclkBad => Sys2Proof.Machine.execSlowclkBad s
  | .slowclkGood => Sys2Proof.Machine.execSlowclkGood s
  | .vglRefclkLoss => Sys2Proof.Machine.execVglRefclkLoss s
  | .calibrationWrite a => Sys2Proof.Machine.execCalibrationWrite a s
  | .thermNAssert => Sys2Proof.Machine.execThermNAssert s
  | .haltreq a => Sys2Proof.Machine.execHaltreq a s
  | .debugResume a => Sys2Proof.Machine.execDebugResume a s
  | .debugStep a => Sys2Proof.Machine.execDebugStep a s
  | .debugRegisterAccess a b c d => Sys2Proof.Machine.execDebugRegisterAccess a b c d s
  | .dbgacc a => Sys2Proof.Machine.execDbgacc a s
  | .dbgTrdropRead => Sys2Proof.Machine.execDbgTrdropRead s
  | .extest a => Sys2Proof.Machine.execExtest a s
  | .samplePreload a b => Sys2Proof.Machine.execSamplePreload a b s
  | .idcode => Sys2Proof.Machine.execIdcode s
  | .extestPulse a => Sys2Proof.Machine.execExtestPulse a s
  | .extestTrain a => Sys2Proof.Machine.execExtestTrain a s
  | .bypass a => Sys2Proof.Machine.execBypass a s
  | .axclkTick a b c => Sys2Proof.Machine.execAxclkTick a b c s
  | .pipeResult a b => Sys2Proof.Machine.execPipeResult a b s
  | .timerSourceEvent a b => Sys2Proof.Machine.execTimerSourceEvent a b s
  | .k5CountTick a => Sys2Proof.Machine.execK5CountTick a s
  | .bucketRefill => Sys2Proof.Machine.execBucketRefill s
  | .thermNRelease => Sys2Proof.Machine.execThermNRelease s
  | .stackHot a b => Sys2Proof.Machine.execStackHot a b s
  | .dozeTemperatureSample a b => Sys2Proof.Machine.execDozeTemperatureSample a b s
  | .tamperNRelease => Sys2Proof.Machine.execTamperNRelease s
  | .porstNAssert => Sys2Proof.Machine.execPorstNAssert s
  | .rowPowerTransitionEnd a => Sys2Proof.Machine.execRowPowerTransitionEnd a s
  | .bridgeRetrainDone a => Sys2Proof.Machine.execBridgeRetrainDone a s
  | .testLogicReset => Sys2Proof.Machine.execTestLogicReset s
  | .debugAccessResponse a => Sys2Proof.Machine.execDebugAccessResponse a s
  | .stampWriteResponse a => Sys2Proof.Machine.execStampWriteResponse a s

end Sys2Proof.Machine
end

