-- ==== Sys2Proof/Safety.lean ====
section
/-! DEFINITION. What a state of the device always satisfies: the numbered resources and the memory are kept in their
canonical form, so that equal contents are equal data. -/
namespace Sys2Proof.Machine

/-- Numbers rise from `lo` on, and no entry equals what an unlisted number reads as. -/
def tableFrom {α : Type} [DecidableEq α] (d : α) : Nat → Table α → Bool
  | _, [] => true
  | lo, (j, v) :: r => decide (lo ≤ j) && decide (v ≠ d) && tableFrom d (j + 1) r
def Table.wf {α : Type} [DecidableEq α] (d : α) (t : Table α) : Bool := tableFrom d 0 t

/-- A run that goes on: the step answers a next state. -/
def State.goesOn (s : State) : Prop := ∃ t, step s = .next t

/-- The device runs: PORST_N is high, SYSCLK is present and no tamper response holds it in reset (R568 to R570). -/
abbrev State.live (s : State) : Prop := inReset s = false
/-- Register i of the name r is reached by an access of the host now (R384, R544, R549, R564, R572, R611). -/
abbrev State.serves (s : State) (r : RegName) (i : Nat) : Prop := reaches s (regOff r i) = true

end Sys2Proof.Machine
end

