-- ==== Sys2Proof/Certificates/Slice0/Obligations.lean ====
section
/-! DEFINITION. The statements about the device, by chapter: first the claims, then the obligations that gather them. -/
open Sys2Proof Sys2Proof.Machine

namespace Sys2Proof.Claims

/-! ## The queue and the step -/

/-- Commands are carried out first in, first out: a step takes the oldest command that waits and answers what it does to
the state with the rest of the queue.  The queue is the model's (notes/assumptions/1.md). -/
def stepRunsFrontCommand : Prop :=
  ∀ (c : Instr) (rest : List Instr) (s : State), s.pending = c :: rest → step s = exec c { s with pending := rest }

/-- With no command waiting the block idles: a step changes nothing (a choice of the model, notes/assumptions/1.md). -/
def emptyQueueIdles : Prop :=
  ∀ s : State, s.pending = [] → step s = .next s

/-- Nothing that a command does stops the device: every command, in every state, answers a next state.  The spec names no
command that ends the machine; errors are logged or answered (R4). -/
def everyStepGoesOn : Prop := ∀ s : State, s.goesOn

/-! ## Tables, registers and memory -/

/-- A register that is written reads back, and every register at another offset keeps its value (R7, R18). -/
def registerReadsBack : Prop :=
  ∀ (s : State) (r q : RegName) (i j : Nat) (v : W64),
    regGet (regPut s r i v) r i = v ∧ (regOff q j ≠ regOff r i → regGet (regPut s r i v) q j = regGet s q j)

/-- The offsets of Table 0.5 name the registers without overlap: from the offset of any register the control space finds
that register, with its number. -/
def registerMapRoundTrip : Prop :=
  ∀ (r : RegName) (i : Nat), i < (regRow r).count * (regRow r).banks → findReg (regOff r i) = some (r, i)

/-- Bytes that are stored read back, every byte outside them reads as before, and the canonical form of memory is kept. -/
def memoryReadsBack : Prop :=
  ∀ (m : List Host.Cell) (a : Nat) (bs : List Byte),
    bytesGet (bytesPut m a bs) a bs.length = bs ∧
    (∀ b, b < a ∨ a + bs.length ≤ b → cellGet (bytesPut m a bs) b = cellGet m b) ∧
    (Memory.wf m = true → Memory.wf (bytesPut m a bs) = true)

/-! ## Reset -/

/-- What the release of PORST_N leaves: the values that Table 22.7 and the register tables give; MRAM is kept where no write of the
calibration page was going on.  The zeros of memory that no rule gives are the model's (notes/assumptions/2.md). -/
def releaseOfPorstN : Prop :=
  ∀ (scope : Bool) (smb : Fin 4) (s : State), ∃ t, exec (.porst scope smb) s = .next t ∧
    inReset t = false ∧ t.tick = 0 ∧ t.otp = s.otp ∧ t.retired = s.retired ∧
    (s.power.calLeft = none → ∀ a, cellGet t.mem a = if 0xF8000000 ≤ a ∧ a < 0xF9000000 then cellGet s.mem a else 0) ∧
    (∀ r i, regOff r i ≠ regOff .pwrStrap 0 → regGet t r i = regReset r i) ∧
    (∀ n, t.axis n = {} ∧ t.alarm n = {} ∧ t.timer n = {} ∧ t.core n = {} ∧ t.ring n = {} ∧ t.job n = {} ∧ t.port n = {}) ∧
    t.actions = [] ∧ t.msixReq = [] ∧ t.pending = s.pending

/-- The state after reset is canonical and runs, and every register of the control space holds its reset value. -/
def resetState : Prop :=
  State.reset.live ∧ State.reset.pending = [] ∧ Memory.wf State.reset.mem = true ∧
  ∀ r i, regGet State.reset r i = regReset r i

/-- The commands that act on a device held in reset: those of the always-on domain, of the reset pins and of the TAP.  Of
AXCLK_TICK only the level of TRST_N acts. -/
def actsInReset : Instr → Bool
  | .porst .. | .porstNAssert | .sysclkLoss | .sysclkReturn | .slowclkBad | .slowclkGood | .thermNAssert | .thermNRelease
  | .thermalThrottle .. | .throttleRelease .. | .smbusRefresh .. | .tamperDetect .. | .tamperNRelease | .smbusRead .. | .k5CountTick .. | .k5CountWrap .. | .k5CompareMatch ..
  | .extest .. | .extestPulse .. | .extestTrain .. | .samplePreload .. | .idcode | .bypass .. | .testLogicReset => true
  | .axclkTick _ _ inputs => inputs.trst.isSome
  | _ => false

/-- A device held in reset does nothing: every other command leaves the state as it is. -/
def heldInReset : Prop :=
  ∀ (c : Instr) (s : State), inReset s = true → actsInReset c = false → exec c s = .next s

/-! ## Set-up registers (chapter 0) -/

/-- An access of another size or alignment changes no register but the log of rejected accesses, and leaves every staging
latch and read snapshot as it was (R12). -/
def rejectedWriteChangesNothing : Prop :=
  ∀ (off : BitVec 26) (size : Nat) (v : W64) (s : State), s.live →
    ¬ ((size = 4 ∧ off.toNat % 4 = 0) ∨ (size = 8 ∧ off.toNat % 8 = 0)) →
    ∃ t, exec (.registerWrite off size v) s = .next t ∧ t.stage = s.stage ∧ t.snap = s.snap ∧
      t = { s with regs := t.regs, reports := t.reports } ∧
      ∀ r i, regOff r i ∉ [regOff .glbBadaccCnt 0, regOff .glbBadaccLog 0, regOff .glbHlEvt 0] →
        regGet t r i = regGet s r i

/-- A 32-bit write to the low half of a 64-bit register goes into its staging latch, and the write to the high half commits
both (R13): here for the 64-bit words of an axis that every write may change.  The source step of the update stage, where an edge,
index event or frame is pending, comes before the committed write (R617). -/
def halfWritesCommitTogether : Prop :=
  ∀ (r : RegName) (n : Fin 32) (off hi : BitVec 26) (x y : W32) (s : State),
    r ∈ [RegName.axInc, .axLoadv, .axZval, .axSwrate] → off.toNat = regOff r n → hi = off + 4 → s.live → s.serves r n →
    let s1 := { s with stage := tset none s.stage off.toNat none, snap := tset none s.snap off.toNat none }
    (∀ z : W64, z.setWidth 32 = x → exec (.registerWrite off 4 z) s =
      .next { s with stage := tset none s.stage off.toNat (some x), snap := tset none s.snap off.toNat none }) ∧
    (∀ z : W64, z.setWidth 32 = y → tget none s.stage off.toNat = some x → exec (.registerWrite hi 4 z) s =
      .next (regPut (axStage s1 n) r n (y ++ x))) ∧
    (∀ z : W64, z.setWidth 32 = y → tget none s.stage off.toNat = none → exec (.registerWrite hi 4 z) s =
      .next (regPut (axStage s1 n) r n (y ++ (regGet s r n).setWidth 32))) ∧
    (∀ z : W64, exec (.registerWrite off 8 z) s =
      .next (regPut (axStage s1 n) r n z))

/-- A 32-bit read of the low half of a 64-bit register returns it and copies the high half into the read snapshot (R16). -/
def lowHalfReadTakesSnapshot : Prop :=
  ∀ (r : RegName) (i : Nat) (off : BitVec 26) (s : State), (regRow r).wide = true → r ≠ .tmrCapPair →
    i < (regRow r).count * (regRow r).banks → off.toNat = regOff r i → s.live → s.serves r i →
    exec (.lowHalfReadSnapshot off) s = .next { s with
      snap := tset none s.snap off.toNat (some ((regValue s r i >>> 32).setWidth 32))
      readData := ((regValue s r i).setWidth 32).setWidth 64 }

/-- A read of a counter returns it and clears it (R7, R9), and changes nothing else. -/
def counterCommands : List (Instr × RegName × Nat) → Prop := fun l =>
  ∀ e ∈ l, ∀ s : State, s.live → s.serves e.2.1 e.2.2 →
    exec e.1 s = .next { regPut s e.2.1 e.2.2 0 with readData := regGet s e.2.1 e.2.2 }
def counterReadsReturnAndClear : Prop :=
  ∀ (n : Fin 32) (sl p : Fin 8) (k : Fin 4) (d : Fin 2) (a : Fin 2048) (m : Fin 64) (c : Fin 256), counterCommands [
    (.axErrcntRead n, .axErrcnt, n), (.celCecntRead sl, .celCecnt, sl), (.celUecntRead sl, .celUecnt, sl),
    (.celOecntRead sl, .celOecnt, sl), (.hbmCecntRead k, .hbmCecnt, k), (.hbmUecntRead k, .hbmUecnt, k),
    (.trDeccntRead d, .trDeccnt, d), (.trBrceRead, .trBrce, 0), (.trShimcntRead, .trShimcnt, 0),
    (.glbBadaccCntRead, .glbBadaccCnt, 0), (.alLatecntRead a, .alLatecnt, a), (.tmrMissedRead m, .tmrMissed, m),
    (.vglCecntRead p, .vglCecnt, p), (.vglUecntRead p, .vglUecnt, p), (.vglCrccntRead p, .vglCrccnt, p),
    (.vglRplcntRead p, .vglRplcnt, p), (.vglTrncntRead p, .vglTrncnt, p), (.vglUnmcntRead p, .vglUnmcnt, p),
    (.vglInErrcntRead c, .vglInErrcnt, c), (.vglEgDropcntRead c, .vglEgDropcnt, c),
    (.secViolcntRead, .secViolcnt, 0), (.dbgTrdropRead, .dbgTrdrop, 0)]

/-! ## Axis time (chapter 2) -/

/-- State t is state u with c as the core of axis n; the marks by which the axis tells what this tick has set from what an earlier one
set (R8, R71) may differ too. -/
def axisBecomes (u t : State) (n : Nat) (c : AxisCore) : Prop :=
  t = { u with axes := t.axes } ∧ (∀ k, k ≠ n → t.axis k = u.axis k) ∧
  t.axis n = { u.axis n with core := c, marked := (t.axis n).marked, hits := (t.axis n).hits, told := (t.axis n).told }

/-- The forward transitions of the levels (A, B) of a quadrature pair (Table 2.6). -/
def quadForward : List (Bool × Bool × Bool × Bool) :=
  [(false, false, true, false), (true, false, true, true), (true, true, false, true), (false, true, false, false)]

/-- An accepted quadrature edge of a running axis: an edge in the direction of the last one, or the first edge, moves the
position by INC in its direction; a reversal leaves it (R45, R46).  DIRINV swaps the directions.  Everything else that the
edge sets is R59's `accept`; nothing else of the state changes.  In LOST a legal edge sets the direction and counts in EDGECNT, and
leaves position and value (R616). -/
def quadratureEdgeCounts : Prop :=
  ∀ (n : Fin 32) (s : State) (fwd : Bool), s.live → axisOn s n 1 = true →
    (let x := s.axis n
     (if fwd then (x.core.in0, x.core.in1, x.f0, x.f1) else (x.f0, x.f1, x.core.in0, x.core.in1)) ∈ quadForward) →
    let x := s.axis n
    let c := x.core
    let rev := fwd == axDirinv s n
    let inc := regGet s .axInc n
    let pos := if c.fresh = true ∨ rev = c.rev then (if rev then c.pos - inc else c.pos + inc) else c.pos
    (c.state = .run → exec (.axisQuadratureEdge n) s = .next (s.setAxis n { x with core :=
      { axAccept (axRatek s n) { c with in0 := x.f0, in1 := x.f1 } rev pos inc with pos := pos } })) ∧
    (isLost c.state = true → exec (.axisQuadratureEdge n) s = .next (s.setAxis n { x with core :=
      { c with in0 := x.f0, in1 := x.f1, rev, edgecnt := c.edgecnt + 1 } }))

/-- An illegal quadrature transition (both levels change) counts nothing: it sets QERR, increments ERRCNT and, with
LOSTONERR, puts a running axis in LOST, which sets its bit in AX_EVT (R47, R67); an axis in LOST stays there (R616). -/
def quadratureIllegalTransition : Prop :=
  ∀ (n : Fin 32) (s : State), s.live → axisOn s n 1 = true →
    (s.axis n).core.in0 ≠ (s.axis n).f0 → (s.axis n).core.in1 ≠ (s.axis n).f1 →
    let x := s.axis n
    let lost := axLostOnErr s n && x.core.state == .run
    let counted := regCount (regSetBits s .axStat n 0x100) .axErrcnt n 1
    let logged := if lost then regSetBits counted .axEvt (n.val / 16) (w64 (2 ^ (n.val % 16))) else counted
    ∃ t, exec (.axisQuadratureEdge n) s = .next t ∧ axisBecomes logged t n
      { x.core with in0 := x.f0, in1 := x.f1, illegal := true, state := if lost then .lost else x.core.state }

/-- A qualified index edge latches the position into ZCAP and sets IDX; with ZMODE 3 on a running axis, or while the axis
waits for an index in LOST, it also loads ZVAL (ZVAL + INC in reverse), puts the difference into ZERR, sets JUMP and the
axis runs (R48, R66).  An edge of the same tick is counted first (Table 2.11). -/
def indexEventCapturesAndLoads : Prop :=
  ∀ (n : Fin 32) (s : State), s.live → axisOn s n 1 = true → axZmode s n ≠ 0 →
    zQualified (axZgate s n) (s.axis n) = true → (s.axis n).core.zq = false → (s.axis n).core.illegal = false →
    let c := (s.axis n).core
    ((c.in0 ≠ (s.axis n).f0 ∨ c.in1 ≠ (s.axis n).f1) → ∃ t, exec (.axisQuadratureEdge n) s = .next t ∧
      (t.axis n).core.in0 = (s.axis n).f0 ∧ (t.axis n).core.in1 = (s.axis n).f1 ∧
      exec (.axisIndexEvent n) s = exec (.axisIndexEvent n) t) ∧
    (c.in0 = (s.axis n).f0 → c.in1 = (s.axis n).f1 → ∃ t, exec (.axisIndexEvent n) s = .next t ∧ t = { regSetBits s .axStat n 0x8000 with axes := t.axes } ∧
      (∀ k, k ≠ n.val → t.axis k = s.axis k) ∧ (t.axis n).core.zcap = c.pos ∧ (t.axis n).core.zq = true ∧
      (if c.state = .lostIndex ∨ (axZmode s n = 3 ∧ c.state = .run) then
        let p := regGet s .axZval n + (if c.rev then regGet s .axInc n else 0)
        (t.axis n).core.pos = p ∧ (t.axis n).core.disp = p ∧ (t.axis n).core.zerr = c.pos - p ∧
        (t.axis n).core.jump = true ∧ (t.axis n).core.state = .run
      else (t.axis n).core = { c with zq := true, zcap := c.pos }))

/-- A STEP edge of the kind EDGE selects moves a running axis by INC, forward when DIR is 0, DIRINV inverting it (R49). -/
def stepEdgeMoves : Prop :=
  ∀ (n : Fin 32) (s : State), s.live → axisOn s n 2 = true → (s.axis n).core.state = .run →
    (s.axis n).core.in0 ≠ (s.axis n).f0 → edgeKind (axEdgeKind s n) (s.axis n).f0 = true →
    let x := s.axis n
    let rev := x.f1 != axDirinv s n
    let inc := regGet s .axInc n
    let pos := if rev then x.core.pos - inc else x.core.pos + inc
    exec (.axisStepEdge n) s = .next (s.setAxis n { x with core :=
      { axAccept (axRatek s n) { x.core with in0 := x.f0, in1 := x.f1 } rev pos inc with pos := pos, rev := rev } })

/-- A pulse edge of the kind EDGE selects moves a running axis forward by exactly 1.0, whatever INC is; one that comes fewer
than MINPER ticks after the last is discarded, sets PSHORT and increments ERRCNT (R50). -/
def pulseEdgeMovesByOne : Prop :=
  ∀ (n : Fin 32) (s : State), s.live → axisOn s n 3 = true → (s.axis n).core.state = .run →
    (s.axis n).core.in0 ≠ (s.axis n).f0 → edgeKind (axEdgeKind s n) (s.axis n).f0 = true →
    let x := s.axis n
    let c := { x.core with in0 := x.f0 }
    ((∀ k, c.pulse = some k → axMinper s n ≤ k) →
      exec (.axisPulseEdge n) s = .next (s.setAxis n { x with core :=
        { axAccept (axRatek s n) c false (c.pos + 0x10000) 0x10000 with pos := c.pos + 0x10000, pulse := some 0 } })) ∧
    (∀ k, c.pulse = some k → k < axMinper s n →
      ∃ t, exec (.axisPulseEdge n) s = .next t ∧ axisBecomes (regCount (regSetBits s .axStat n 0x2000) .axErrcnt n 1) t n c)

/-- A frame whose CRC, STOP bit, START bit or TYPE does not match is discarded, sets FRMERR and increments ERRCNT (R53). -/
def badFrameIsDiscarded : Prop :=
  ∀ (n : Fin 32) (f : BitVec 90) (s : State), s.live → axisOn s n 4 = true →
    (f.getLsbD 0 = true ∨ f.getLsbD 89 = false ∨ 1 < fld f 1 4 ∨ fld f 73 16 ≠ (tsiCrc f).toNat) →
    ∃ t, exec (.tsiFrame n f) s = .next t ∧ axisBecomes (regCount (regSetBits s .axStat n 0x400) .axErrcnt n 1) t n (s.axis n).core

/-- An accepted frame sets the position to its VALUE.  On a running axis a MOTION frame takes its direction from the sign of
the change, 0 keeping it, and its distance to the next count from the size of the change; a RELOAD keeps rate and direction
and sets JUMP.  Out of LOST either makes the axis run with JUMP (R54, R63, R67), with rate 0 (notes/assumptions/150.md).  A SEQ that does
not follow that of the last accepted frame sets SEQGAP and counts in ERRCNT (R53, notes/assumptions/151.md).  No LOAD of the same
tick stands, which would win (Table 2.11). -/
def goodFrameSetsPosition : Prop :=
  ∀ (n : Fin 32) (f : BitVec 90) (s : State), s.live → axisOn s n 4 = true → f.getLsbD 0 = false → f.getLsbD 89 = true →
    fld f 1 4 ≤ 1 → fld f 73 16 = (tsiCrc f).toNat →
    (s.axis n).loadFrom = none →
    let v : W64 := w64 (fld f 9 64)
    let c := (s.axis n).core
    let u := if c.seqNo ≠ none ∧ c.seqNo ≠ some ((fld f 5 4 + 15) % 16) then regCount (regSetBits s .axStat n 0x800) .axErrcnt n 1 else s
    ∃ t, exec (.tsiFrame n f) s = .next t ∧ t = { u with axes := t.axes } ∧ (∀ k, k ≠ n.val → t.axis k = s.axis k) ∧
      (t.axis n).core.pos = v ∧ (t.axis n).core.seqNo = some (fld f 5 4) ∧ (t.axis n).core.quiet = 0 ∧
      (t.axis n).core.edgecnt = c.edgecnt + 1 ∧
      (if isLost c.state then
        (t.axis n).core.state = .run ∧ (t.axis n).core.disp = v ∧ (t.axis n).core.jump = true ∧ (t.axis n).core.rate = 0
      else (t.axis n).core.state = c.state ∧
        (fld f 1 4 = 0 → (t.axis n).core.step = w64 (sdiff v c.pos).natAbs ∧
          (t.axis n).core.rev = (if sdiff v c.pos < 0 then true else if sdiff v c.pos > 0 then false else c.rev)) ∧
        (fld f 1 4 = 1 → (t.axis n).core.disp = v ∧ (t.axis n).core.rev = c.rev ∧ (t.axis n).core.rate = c.rate ∧
          (t.axis n).core.jump = true))

/-- Interpolation never reaches the next count before the edge or frame that brings it (R60): a value that lies at or behind the
last count before the next one, seen in the direction of motion, goes on by rate and time as R59's `tick` computes it, to one LSB short
of the next count at most, where it holds, and never moves against the direction of motion; also in the tick after an accepted edge,
when it lies behind the new position.  Here between loads, whose value R65 gives. -/
def interpolationHoldsShort : Prop :=
  ∀ (stallt : Nat) (c : AxisCore), c.held = none → c.step.toNat < 2 ^ 62 →
    let along (v : W64) : Int := if c.rev then -(sdiff v c.pos) else sdiff v c.pos
    let short : Nat := c.step.toNat - 1
    let since := if c.edge = false ∧ c.since < 0xFFFFFF then c.since + 1 else c.since
    let ahead := if stallt ≠ 0 ∧ stallt < since then 0 else c.rate.toNat * since / 65536 % 2 ^ 64
    (-(2 ^ 62) : Int) ≤ along c.disp → along c.disp ≤ short →
    let c' := axInterp stallt c
    c'.pos = c.pos ∧ along c'.disp = max (along c.disp) (min ahead short : Nat) ∧ along c'.disp ≤ short ∧
      (short ≤ ahead → along c'.disp = short) ∧ along c.disp ≤ along c'.disp

/-- EN from 0 to 1: the axis starts at LOADV (a derived axis at OFFS) with rate 0, forward, and no edge seen; it runs, but a
quadrature axis with ZMODE 2 waits for an index in LOST, and a TSI or remote axis is LOST (R63). -/
def axisEnableStarts : Prop :=
  ∀ (n : Fin 32) (cfg : W32) (s : State), s.live → s.serves .axCfg n → n.val ≠ 0 → axEn s n = false → cfg.getLsbD 0 = true →
    let w := regMerge (regRow .axCfg) (regGet s .axCfg n) (cfg.setWidth 64)
    let mode := fld w 1 4
    (mode = 6 → axBase s n ≠ n.val ∧ axMode s (axBase s n) ≠ 6) →
    ∃ t, exec (.axisEnable n cfg) s = .next t ∧ regGet t .axCfg n = w ∧ t = { s with regs := t.regs, axes := t.axes, reports := t.reports } ∧
      (∀ k, k ≠ n.val → t.axis k = s.axis k) ∧ t.mem = s.mem ∧
      (t.axis n).core.disp = (if mode = 6 then regGet s .axOffs n else regGet s .axLoadv n) ∧
      (mode ≠ 6 → (t.axis n).core.pos = regGet s .axLoadv n) ∧
      (t.axis n).core.rate = 0 ∧ (t.axis n).core.rev = false ∧ (t.axis n).core.nedge = 0 ∧ (t.axis n).core.fresh = true ∧
      (t.axis n).core.state = (if mode = 1 ∧ fld w 11 2 = 2 then .lostIndex else if mode = 4 ∨ mode = 7 then .lost else .run)

/-- EN from 1 to 0: the axis is OFF with the value it had in the tick before the write (R64). -/
def axisDisableHolds : Prop :=
  ∀ (n : Fin 32) (cfg : W32) (s : State), s.live → s.serves .axCfg n → n.val ≠ 0 → axEn s n = true → cfg.getLsbD 0 = false →
    ∃ t, exec (.axisDisable n cfg) s = .next t ∧ axEn t n = false ∧
      t = { s with regs := t.regs, axes := t.axes, reports := t.reports } ∧
      (∀ k, k ≠ n.val → t.axis k = s.axis k) ∧ (t.axis n).core.state = .off ∧
      (t.axis n).core.disp = (s.axis n).pre.disp ∧ (t.axis n).core.pos = (s.axis n).pre.pos

/-- A write of a set-up word of an axis sets its writable fields, reserved encodings excepted, after the source step of its stage (R617);
of a 64-bit register it ends staging latch and snapshot (R13, R16).  While EN is 1 a write that would change a source field of
AX_n_SRC, AX_n_AUX or MODE of AX_n_CFG leaves the source fields and sets CFGERR, and the other fields take effect (R7, R11, R64).  A write
that would enable a derived axis on itself or on a derived axis leaves EN 0 and sets CFGERR (R57). -/
def axisSetupWrite : Prop :=
  ∀ (n : Fin 32) (v : W64) (s : State), s.live →
    let s1 := axStage s n
    (∀ e ∈ [(AxisReg.inc, RegName.axInc), (.loadv, .axLoadv), (.zval, .axZval), (.stallt, .axStallt), (.tmo, .axTmo),
        (.swrate, .axSwrate)], s.serves e.2 n →
      exec (.axisConfigWrite n e.1 v) s = .next (endStage (regPut s1 e.2 n (regMerge (regRow e.2) (regGet s e.2 n) v)) e.2 n)) ∧
    (∀ e ∈ [(AxisReg.src, RegName.axSrc, (0x1F3F3F3F : W64)), (.aux, .axAux, 0x7F000000)], s.serves e.2.1 n →
      let old := regGet s e.2.1 n
      let w := regMerge (regRow e.2.1) old v
      exec (.axisConfigWrite n e.1 v) s = .next (
        if axEn s n = true ∧ w &&& e.2.2 ≠ old &&& e.2.2 then
          regSetBits (regPut s1 e.2.1 n ((w &&& ~~~ e.2.2) ||| (old &&& e.2.2))) .axStat n 0x4000
        else regPut s1 e.2.1 n w)) ∧
    (s.serves .axCfg n → n.val ≠ 0 →
      let old := regGet s .axCfg n
      let w := regMerge (regRow .axCfg) old v
      let base := axBase s n
      (axEn s n = true → v.getLsbD 0 = true → exec (.axisConfigWrite n .cfg v) s = .next (regPut
        (if fld w 1 4 ≠ fld old 1 4 then regSetBits s1 .axStat n 0x4000 else s1) .axCfg n (putFld w 1 4 (fld old 1 4)))) ∧
      (axEn s n = false → v.getLsbD 0 = false → exec (.axisConfigWrite n .cfg v) s = .next (regPut s .axCfg n w)) ∧
      (axEn s n = false → v.getLsbD 0 = true → fld w 1 4 = 6 → base = n.val ∨ axMode s base = 6 →
        exec (.axisConfigWrite n .cfg v) s = .next (regSetBits (regPut s .axCfg n (putFld w 0 1 0)) .axStat n 0x4000)))

/-- CTRL.LOAD on an enabled counting, frame or software axis shifts position and value so that the value becomes LOADV, and sets JUMP; a
running axis keeps rate and direction, and out of LOST the axis runs with rate 0 and no edge seen (R65).  The source step of the stage
comes first (R617).  AX0, derived and disabled axes are left as they are. -/
def axisLoadShifts : Prop :=
  ∀ (n : Fin 32) (s : State), s.live → s.serves .axCtrl n →
    let s1 := axStage s n
    (n.val = 0 → exec (.axisLoad n) s = .next s1) ∧
    (axEn s n = false ∨ axMode s n = 6 → exec (.axisLoad n) s = .next s) ∧
    (n.val ≠ 0 → axEn s n = true → axMode s n ≠ 6 →
      let c := (s1.axis n).core
      let v := regGet s .axLoadv n
      ∃ t, exec (.axisLoad n) s = .next t ∧ t = { s1 with axes := t.axes } ∧ (∀ k, k ≠ n.val → t.axis k = s1.axis k) ∧
        (t.axis n).core.disp = v ∧ (t.axis n).core.jump = true ∧
        (axMode s n ≠ 5 → isLost c.state = true → (t.axis n).core.state = .run ∧ (t.axis n).core.pos = v ∧
          (t.axis n).core.rate = 0 ∧ (t.axis n).core.nedge = 0) ∧
        (axMode s n ≠ 5 → isLost c.state = false → (t.axis n).core.pos = c.pos + (v - c.disp)) ∧
        (axMode s n = 5 → (t.axis n).core.pos = v ∧ (t.axis n).core.ext = 0) ∧
        (isLost c.state = false → (t.axis n).core.state = c.state ∧ (t.axis n).core.rate = c.rate ∧ (t.axis n).core.rev = c.rev))

/-- REINDEX puts an enabled quadrature axis with ZMODE other than 0 in LOST, awaiting an index, and has no effect on any other
axis (R66); ADVANCE adds LOADV to an enabled software axis and takes its direction from the sign (R55).  The source step of the
stage comes first (R617). -/
def reindexAndAdvance : Prop :=
  ∀ (n : Fin 32) (s : State), s.live → s.serves .axCtrl n →
    let s1 := axStage s n
    let x := s1.axis n
    let quad : Prop := n.val ≠ 0 ∧ axEn s n = true ∧ axMode s n = 1 ∧ axZmode s n ≠ 0
    (quad → ∃ t, exec (.axisReindex n) s = .next t ∧
      axisBecomes (if isLost x.core.state then s1 else regSetBits s1 .axEvt (n.val / 16) (w64 (2 ^ (n.val % 16)))) t n
        { x.core with state := .lostIndex }) ∧
    (¬ quad → exec (.axisReindex n) s = .next s1) ∧
    (n.val ≠ 0 → axEn s n = true → axMode s n = 5 →
      let a := (regGet s .axLoadv n).toInt
      exec (.axisAdvance n) s = .next (s.setAxis n { s.axis n with core := { (s.axis n).core with
        pos := (s.axis n).core.pos + regGet s .axLoadv n, rev := if a < 0 then true else if a > 0 then false else (s.axis n).core.rev } })) ∧
    (axEn s n = false ∨ axMode s n ≠ 5 → exec (.axisAdvance n) s = .next s1)

/-- A write of NUM or DEN re-anchors an enabled derived axis at its value and its base's value before the ratio changes; a
write of OFFS adds the change to the anchor and sets JUMP (R56), and ends its staging latch and snapshot (R13, R16). -/
def derivedAxisWrites : Prop :=
  ∀ (n : Fin 32) (s : State), s.live → axEn s n = true → axMode s n = 6 →
    let x := s.axis n
    (∀ (den : Bool) (v : W32), let r := if den then RegName.axDen else .axNum
      s.serves r n → exec (.derivedRatioWrite n den v) s = .next (
        let t := regPut s r n (regMerge (regRow r) (regGet s r n) (v.setWidth 64))
        let b := baseValue s (axBase s n) 5
        if x.core.reanchor then t
        else t.setAxis n { x with core := { x.core with anchor := derivedValue (axNum s n) (axDen s n) x.core b, bref := b } })) ∧
    (∀ v : W64, s.serves .axOffs n → exec (.derivedOffsetWrite n v) s = .next (endStage
      ((regPut s .axOffs n v).setAxis n { x with core :=
        { x.core with anchor := x.core.anchor + (v - regGet s .axOffs n), jump := true } }) .axOffs n))

/-- The rebase of a derived axis whose base has travelled 2^56 or more since the anchor does not change its value (R56): the anchor and
b_ref move together. -/
def rebaseKeepsTheValue : Prop :=
  ∀ (n : Fin 32) (s : State), s.live → axisOn s n 6 = true → (s.axis n).core.reanchor = false → 0 < axDen s n →
    let c := (s.axis n).core
    let b := baseValue s (axBase s n) 5
    (2 ^ 56 ≤ (sdiff b c.bref).natAbs) →
    ∃ t, exec (.derivedRebase n) s = .next t ∧
      let c' := (t.axis n).core
      t = s.setAxis n { s.axis n with core := c' } ∧ c' = { c with anchor := c'.anchor, bref := c'.bref } ∧ (sdiff b c'.bref).natAbs < axDen s n ∧
      derivedValue (axNum s n) (axDen s n) c' b = derivedValue (axNum s n) (axDen s n) c b

/-- No edge for more than STALLT ticks: the rate becomes 0, STALLED is set and the next edge is a first edge (R62).  No
accepted frame for TMO µs: TMOUT is set and the axis is LOST.  An open input pair: FSFAULT is set and the axis is LOST.
Entering LOST sets the axis's bit in AX_EVT (R67). -/
def axisTimeouts : Prop :=
  ∀ (n : Fin 32) (s : State), s.live →
    let x := s.axis n
    let lose (c : Instr) (b : W64) : Prop := ∃ t, exec c s = .next t ∧
      axisBecomes (regSetBits (regSetBits s .axStat n b) .axEvt (n.val / 16) (w64 (2 ^ (n.val % 16)))) t n { x.core with state := .lost }
    (axisLive s n = true → x.core.state = .run → 0 < fld (regGet s .axStallt n) 0 24 →
      fld (regGet s .axStallt n) 0 24 < x.core.since → exec (.axisStall n) s = .next (s.setAxis n { x with core :=
        { x.core with rate := 0, nedge := 0, stalled := true } })) ∧
    (axisOn s n 4 = true ∨ axisOn s n 7 = true → x.core.state = .run → 0 < fld (regGet s .axTmo n) 0 20 →
      fld (regGet s .axTmo n) 0 20 * 500 ≤ x.core.quiet → lose (.axisFrameTimeout n) 0x1000) ∧
    (axEn s n = true → 1 ≤ axMode s n → axMode s n ≤ 3 → (s.die (n.val / 16)).doze = false → isLost x.core.state = false →
      hasFault s n (fsFault s) = true → lose (.axisFailsafeFault n) 0x200)

/-- In every tick device time AX0 of a die that is awake increases by 2.0, and that of a dozing die holds (R37): here with no
alarm, action or pulse in flight, and with no hold of a tamper response due. -/
def deviceTimeAdvances : Prop :=
  ∀ (tp : BitVec 64) (lv : BitVec 16) (inputs : PadInputs) (s : State), s.live → s.alarms = [] → s.actions = [] → s.pulses = [] →
    s.sec.holdDue = none →
    ∃ t, exec (.axclkTick tp lv inputs) s = .next t ∧ t.tick = s.tick + 1 ∧
      (∀ d, d < 2 → (t.die d).ax0 = if (s.die d).doze then (s.die d).ax0 else (s.die d).ax0 + 0x20000) ∧
      t.mem = s.mem ∧ t.rings = s.rings ∧ t.otp = s.otp ∧ t.msix = s.msix ∧ t.pending = s.pending

/-- The bundle ws stands at the pc of core n, the core is at its boundary, and nothing comes before the bundle (R109, R311). -/
abbrev bundleReady (s : State) (n : Nat) (ws : List W32) : Prop :=
  coreLive s n = true ∧ (s.core n).status.getLsbD 4 = false ∧ boundaryAct s n = none ∧ (s.core n).wait = .none ∧
  (s.core n).notBefore ≤ s.cclk ∧ (s.core n).stepping = false ∧ fetchBundle s (s.core n) (s.core n).pc = .words ws

/-- A bundle of one syllable in slot A (R109, R110, R111, R117, R141): its result reaches the destination register, the pc
moves by 4, and the next bundle can be in E one CCLK later; a repeated bundle counts RPT down and keeps its pc until the last
time.  Writes of g0 are discarded. -/
def integerBundleExecutes : Prop :=
  ∀ (n : Fin 64) (el : Pace) (y : W32) (s0 : State), s0.live →
    let s := { s0 with cclk := s0.cclk + el.cclk }
    let c := s.core n
    let a := c.gr (fld y 12 5)
    let b := c.gr (fld y 7 5)
    bundleReady s n [y] → (∀ e ∈ s.cores, e.2.stopDue = none) → fld y 28 3 = 0 → fld y 0 7 = 0 →
    (∀ r ∈ [fld y 17 5, fld y 12 5, fld y 7 5], c.gPending s.cclk r = false) →
    ∀ e ∈ [(0x00, a + b), (0x01, a - b), (0x02, a &&& b), (0x03, a ||| b), (0x04, a ^^^ b), (0x05, a &&& ~~~ b),
           (0x06, if 64 ≤ b.toNat then 0 else a <<< b.toNat), (0x07, if 64 ≤ b.toNat then 0 else a >>> b.toNat),
           (0x08, a.sshiftRight (min b.toNat 63)), (0x0B, if a = b then 1 else 0), (0x0D, if a.toInt < b.toInt then 1 else 0),
           (0x0E, if a.toNat < b.toNat then 1 else 0), (0x12, if a.toInt < b.toInt then b else a)],
      fld y 22 6 = e.1 → exec (.bundleExecute n el) s0 = .next (s.setCore n { (c.touch c.pc 1).setG (fld y 17 5) e.2 with
        seqn := c.seqn + 3, rpt := if c.rpt = 0 then 0 else c.rpt - 1, ibpSkip := false, notBefore := s.cclk + 1,
        pc := if c.rpt = 0 ∨ c.rpt = 1 then c.pc + 4 else c.pc })

/-- A bundle of one branch (R110, R154): a branch that is taken goes to pc plus 4 times its displacement and costs one CCLK
more; `br` with link leaves the address of the next bundle in g31. -/
def branchBundleExecutes : Prop :=
  ∀ (n : Fin 64) (el : Pace) (y : W32) (s0 : State), s0.live →
    let s := { s0 with cclk := s0.cclk + el.cclk }
    let c := s.core n
    let t := { c.touch c.pc 1 with seqn := c.seqn + 3, ibpSkip := false }
    let g := c.gr (fld y 18 5)
    let near : W64 := ((y.extractLsb' 0 18).signExtend 64) * 4
    let far : W64 := ((y.extractLsb' 0 23).signExtend 64) * 4
    bundleReady s n [y] → (∀ e ∈ s.cores, e.2.stopDue = none) → fld y 28 3 = 5 → c.rpt = 0 →
    (∀ r ∈ [fld y 18 5, 31], c.gPending s.cclk r = false) →
    (∀ e ∈ [(0x00, decide (g = 0)), (0x01, decide (g ≠ 0))], fld y 23 5 = e.1 → exec (.bundleExecute n el) s0 = .next (s.setCore n
      { t with pc := if e.2 then c.pc + near else c.pc + 4, notBefore := s.cclk + (if e.2 then 2 else 1) })) ∧
    (fld y 23 5 = 3 → exec (.bundleExecute n el) s0 = .next (s.setCore n { t with pc := c.pc + far, notBefore := s.cclk + 2 })) ∧
    (fld y 23 5 = 4 → exec (.bundleExecute n el) s0 = .next (s.setCore n
      { t.setG 31 (c.pc + 4) with pc := c.pc + far, notBefore := s.cclk + 2 }))

/-- A bundle of one load or store at register plus displacement (R123 to R125, R146 to R148): a load that no buffered store meets
goes out and is outstanding, one that a buffered store covers gets its bytes at once; a store of up to 8 bytes inside one word
enters the store buffer and memory stays as it is. -/
def memoryBundleExecutes : Prop :=
  ∀ (n : Fin 64) (el : Pace) (y : W32) (s0 : State), s0.live →
    let s := { s0 with cclk := s0.cclk + el.cclk }
    let c := s.core n
    let av := c.gr (fld y 12 5) + (y.extractLsb' 0 12).signExtend 64
    let a := av.toNat
    let size := 2 ^ (fld y 22 3 / 2)
    let g := fld y 17 5
    bundleReady s n [y] → (∀ e ∈ s.cores, e.2.stopDue = none) → fld y 28 3 = 2 → fld y 26 2 = 0 → fld y 22 3 < 7 → a % 8 + size ≤ 8 → c.rpt = 0 →
    memFault s c av size (y.getLsbD 25) = none → (∀ r ∈ [g, fld y 12 5], c.gPending s.cclk r = false) →
    (y.getLsbD 25 = true → fld y 22 1 = 0 → c.sb.length < 8 → ∃ t, exec (.bundleExecute n el) s0 = .next t ∧
      t = { s with cores := t.cores, jobs := t.jobs, rows := t.rows } ∧ (∀ k, k ≠ n.val → t.core k = s.core k) ∧
      (t.core n).sb = c.sb ++ [{ addr := a, bytes := leBytes (c.gr g).toNat size, level := c.level, seqn := c.seqn }] ∧
      (t.core n).pc = c.pc + 4 ∧ (t.core n).notBefore = s.cclk + 1 ∧ (t.core n).g = c.g) ∧
    (y.getLsbD 25 = false → c.loads.length < 8 → c.footHold c.seqn a size false = false → forward c (a, size) ≠ .wait →
      ∃ t, exec (.bundleExecute n el) s0 = .next t ∧ t = { s with cores := t.cores, rows := t.rows } ∧
        (∀ k, k ≠ n.val → t.core k = s.core k) ∧ (t.core n).pc = c.pc + 4 ∧ (t.core n).sb = c.sb ∧
        (∀ bs, forward c (a, size) = .bytes bs → (t.core n).loads = c.loads ∧
          (t.core n).g = (c.setG g (loadValue (fld y 22 1 == 1) bs)).g) ∧
        (forward c (a, size) = .memory → (t.core n).g = c.g ∧ ∃ l, (t.core n).loads = c.loads ++ [l] ∧ l.dest = g ∧ l.addr = a ∧
          l.size = size ∧ l.signed = (fld y 22 1 == 1) ∧ l.split = false ∧ l.low = none))

/-- The core after a bundle of one syllable, at the next bundle (R110, R115, R120). -/
abbrev onward (c : Core) (now : Nat) : Core :=
  { c.touch c.pc 1 with seqn := c.seqn + 3, ibpSkip := false, pc := c.pc + 4, notBefore := now + 1 }
/-- A handler can be entered at once (R308): it is valid and not running, the press is idle, no divide runs and no shield comes. -/
abbrev handlerOpen (s : State) (c : Core) : Prop :=
  (regGet s .dbgTrctl 0).getLsbD 0 = false ∧ c.status.getLsbD 3 = false ∧ c.evec.getLsbD 0 = true ∧ c.evec.getLsbD 1 = false ∧
  c.level ≠ 2 ∧ c.viq = [] ∧ c.vsrd = [] ∧ c.fprd = [] ∧ c.div = none
/-- The core after that entry (R308). -/
abbrev entered (c : Core) (now code : Nat) (info epc : W64) : Core := { c with
  links := [], estatus := c.status, epc := epc, einfo := info, ecause := w64 code, erpt := (if epc = c.pc then c.rpt else 0).setWidth 64,
  rpt := 0, edivd := setBit c.edivd 63 false, status := (setBit c.status 3 true) &&& ~~~ (0x117 : W64),
  pc := c.evec &&& 0x0000FFFFFFFFFFFC#64, fetchErr := none, notBefore := now + 2, ibpSkip := false, hstack := false :: c.hstack }

/-- A multiply or divide (R140, R142): a product may be read 3 CCLK later; a divide keeps the divider 66 or 34 CCLK, and a divisor
of 0 with DZE traps. -/
def multiplyAndDivideIssue : Prop :=
  ∀ (n : Fin 64) (el : Pace) (y : W32) (s0 : State), s0.live →
    let s := { s0 with cclk := s0.cclk + el.cclk }
    let c := s.core n
    let d := fld y 17 5
    let a := c.gr (fld y 12 5)
    let b := c.gr (fld y 7 5)
    let late := fun (t : Table Nat) (k : Nat) => if k = 0 then t else tset 0 t k (s.cclk + 3)
    bundleReady s n [y] → (∀ e ∈ s.cores, e.2.stopDue = none) → fld y 28 3 = 1 → fld y 0 7 = 0 → c.rpt = 0 →
    (∀ r ∈ [d, d + 1, fld y 12 5, fld y 7 5], c.gPending s.cclk r = false) →
    (∀ e ∈ [(0x24, a * b), (0x27, ((a * b).setWidth 32).signExtend 64)], fld y 22 6 = e.1 → exec (.bundleExecute n el) s0 = .next
      (s.setCore n { (onward c s.cclk).setG d e.2 with ready := late c.ready d })) ∧
    (∀ e ∈ [(0x25, a.signExtend 128 * b.signExtend 128), (0x26, a.setWidth 128 * b.setWidth 128)], d % 2 = 0 → d ≠ 0 → fld y 22 6 = e.1 →
      exec (.bundleExecute n el) s0 = .next (s.setCore n { ((onward c s.cclk).setG d (e.2.extractLsb' 0 64)).setG (d + 1) (e.2.extractLsb' 64 64) with
        ready := late (late c.ready d) (d + 1) })) ∧
    ∀ k : Fin 8, fld y 22 6 = 0x28 + k → c.div = none →
      (c.status.getLsbD 6 = false ∨ fld b 0 (if k.val < 4 then 64 else 32) ≠ 0 → exec (.bundleExecute n el) s0 = .next (s.setCore n { onward c s.cclk with
        div := some { dest := d, op := k % 4, wide := decide (k.val < 4), a, b, due := s.cclk + (if k.val < 4 then 66 else 34) } })) ∧
      (c.status.getLsbD 6 = true → fld b 0 (if k.val < 4 then 64 else 32) = 0 → handlerOpen s c →
        exec (.bundleExecute n el) s0 = .next (s.setCore n (entered (c.touch c.pc 1) s.cclk 0x31 a c.pc)))

/-- `mfcr` reads a control register, `mtcr` changes the bits that it has; one that the level does not allow is a privilege fault
(R112, R157, R304). -/
def controlRegisterBundles : Prop :=
  ∀ (n : Fin 64) (el : Pace) (y : W32) (s0 : State), s0.live →
    let s := { s0 with cclk := s0.cclk + el.cclk }
    let c := s.core n
    let g := c.gr (fld y 18 5)
    let k := fld y 10 8
    let t := onward c s.cclk
    let put := fun (m old : W64) => (old &&& ~~~ m) ||| (g &&& m)
    bundleReady s n [y] → (∀ e ∈ s.cores, e.2.stopDue = none) → fld y 28 3 = 5 → fld y 0 10 = 0 → c.rpt = 0 →
    c.gPending s.cclk (fld y 18 5) = false → c.viq = [] → c.vsrd = [] → c.fprd = [] →
    (fld y 23 5 = 8 →
      (∀ e ∈ [(0x00, c.status), (0x01, c.estatus), (0x02, c.epc), (0x03, c.ecause), (0x04, c.einfo), (0x05, c.evec), (0x06, c.shieldLimit),
          (0x07, w64 c.shieldHeld), (0x08, c.vstat), (0x09, c.fpctl), (0x0C, c.jobid), (0x0D, c.erpt), (0x0E, c.ediva), (0x0F, c.edivb),
          (0x10, c.edivd), (0x11, c.vctx)], k = e.1 → (c.level ≠ 0 ∨ e.1 ∈ [0x08, 0x09, 0x0C]) →
        exec (.bundleExecute n el) s0 = .next (s.setCore n (t.setG (fld y 18 5) e.2))) ∧
      (∀ e ∈ [(0x0A, w64 s.cclk), (0x0B, coreId s n)], k = e.1 → exec (.bundleExecute n el) s0 = .next
        (s.setCore n { t.setG (fld y 18 5) e.2 with taint := c.taint || (decide (c.level < 2) && c.job.isSome) }))) ∧
    (fld y 23 5 = 9 →
      (∀ e ∈ [(0x02, { t with epc := g }), (0x03, { t with ecause := put 0x3FFFF c.ecause }), (0x04, { t with einfo := g }),
          (0x05, { t with evec := put 0xFFFFFFFFFFFF c.evec }), (0x0D, { t with erpt := g &&& 0xFFFFFFFF }), (0x0E, { t with ediva := g }),
          (0x0F, { t with edivb := g }), (0x10, { t with edivd := g &&& 0x80000000000000FF }), (0x11, { t with vctx := g &&& 0xFFFFFFFFFFC0 })],
        k = e.1 → c.level ≠ 0 → exec (.bundleExecute n el) s0 = .next (s.setCore n e.2)) ∧
      (∀ e ∈ [(0x00, { t with status := put 0x17D c.status }), (0x01, { t with estatus := put 0x17D c.estatus }),
          (0x06, { t with shieldLimit := w64 (min (fld g 0 16) (shieldCap s)) })],
        k = e.1 → c.level = 1 → fld g 0 2 = 0 → g.getLsbD 4 = false → exec (.bundleExecute n el) s0 = .next (s.setCore n e.2)) ∧
      (k = 8 → exec (.bundleExecute n el) s0 = .next (s.setCore n { t with vstat := g &&& 0xF })) ∧
      (k = 9 → fld g 0 3 < 5 → exec (.bundleExecute n el) s0 = .next (s.setCore n { t with fpctl := put 0x1F1F07 c.fpctl })) ∧
      ∀ j : Fin 16, c.level ≠ 0 →
        (k = 0x20 + j → exec (.bundleExecute n el) s0 = .next (s.setCore n { t with mpuBase := tset 0 c.mpuBase j (g &&& 0xFFFFFFFFFFCF) })) ∧
        (k = 0x30 + j → exec (.bundleExecute n el) s0 = .next (s.setCore n { t with mpuLimit := tset 0 c.mpuLimit j (g &&& 0xFFFFFFFFFFC0) }))) ∧
    (fld y 23 5 = 8 ∨ fld y 23 5 = 9 → c.level = 0 → k ∈ [0, 1, 2, 3, 4, 5, 6, 0xD, 0xE, 0xF, 0x10, 0x11] → handlerOpen s c →
      exec (.bundleExecute n el) s0 = .next (s.setCore n (entered (c.touch c.pc 1) s.cclk 0x40 (y.setWidth 64) c.pc)))

/-- `sys` at U enters the handler behind itself, at S it is a Monitor call; `brk` enters it at its own address; `eret` returns,
and at U is a privilege fault (R158, R159, R309). -/
def systemBundles : Prop :=
  ∀ (n : Fin 64) (el : Pace) (y : W32) (s0 : State), s0.live →
    let s := { s0 with cclk := s0.cclk + el.cclk }
    let c := s.core n
    let code := w64 (fld y 0 16)
    bundleReady s n [y] → (∀ e ∈ s.cores, e.2.stopDue = none) → fld y 28 3 = 5 → fld y 16 7 = 0 → c.rpt = 0 → c.div = none →
    (fld y 23 5 = 0x0A → c.level = 0 → handlerOpen s c →
      exec (.bundleExecute n el) s0 = .next (s.setCore n (entered (onward c s.cclk) s.cclk 0x41 code (c.pc + 4)))) ∧
    (fld y 23 5 = 0x0A → c.level = 1 → fld y 0 16 ≠ 0xFF00 → (regGet s .dbgTrctl 0).getLsbD 0 = false →
      exec (.bundleExecute n el) s0 = .next (s.setCore n ((onward c s.cclk).setG 1 0xFFFFFFFFFFFFFFFF))) ∧
    (fld y 23 5 = 0x0B → (regGet s .dbgCtrl n).getLsbD 3 = false → handlerOpen s c →
      exec (.bundleExecute n el) s0 = .next (s.setCore n (entered (c.touch c.pc 1) s.cclk 0x03 code c.pc))) ∧
    (fld y 23 5 = 0x0C → fld y 0 16 = 0 → c.level = 0 → handlerOpen s c →
      exec (.bundleExecute n el) s0 = .next (s.setCore n (entered (c.touch c.pc 1) s.cclk 0x40 (y.setWidth 64) c.pc))) ∧
    (fld y 23 5 = 0x0C → fld y 0 16 = 0 → c.level ≠ 0 → levelOf c.estatus ≤ c.level → c.viq = [] → c.vsrd = [] → c.fprd = [] →
      c.status.getLsbD 7 = false → c.jendBack = none → (c.estatus.getLsbD 4 = true → 0 < c.shieldHeld) →
      exec (.bundleExecute n el) s0 = .next (s.setCore n { onward c s.cclk with
        status := c.estatus, rpt := c.erpt.setWidth 32, edivd := setBit c.edivd 63 false, pc := c.epc, notBefore := s.cclk + 2,
        hstack := c.hstack.drop 1, shieldEnd := if c.estatus.getLsbD 4 = true then s.cclk + c.shieldHeld else c.shieldEnd,
        div := if c.edivd.getLsbD 63 = true then some {
          dest := fld c.edivd 0 5, op := fld c.edivd 5 2, wide := c.edivd.getLsbD 7, a := c.ediva, b := c.edivb,
          due := s.cclk + 1 + (if c.edivd.getLsbD 7 = true then 66 else 34) } else none }))

/-- `rep` sets RPT or skips a bundle, `blc` counts LC down and branches; `flushi`, `sev` and `jend` wait in E for what comes before
them (R117, R121, R155, R156, R160, R162). -/
def loopAndEventBundles : Prop :=
  ∀ (n : Fin 64) (el : Pace) (y : W32) (s0 : State), s0.live →
    let s := { s0 with cclk := s0.cclk + el.cclk }
    let c := s.core n
    let t := onward c s.cclk
    let g := c.gr (fld y 18 5)
    bundleReady s n [y] → (∀ e ∈ s.cores, e.2.stopDue = none) → fld y 28 3 = 5 → c.rpt = 0 → c.gPending s.cclk (fld y 18 5) = false →
    (fld y 23 5 = 7 → fld y 16 6 = 0 →
      let k := if y.getLsbD 22 = true then c.lc else w32 (fld y 0 16)
      (k ≠ 0 → exec (.bundleExecute n el) s0 = .next (s.setCore n { t with rpt := k })) ∧
      (k = 0 → ∀ ws, fetchBundle s t (c.pc + 4) = .words ws → exec (.bundleExecute n el) s0 = .next
        (s.setCore n { t.touch (c.pc + 4) ws.length with pc := c.pc + 4 + w64 (4 * ws.length), notBefore := s.cclk + 2 }))) ∧
    (fld y 23 5 = 2 → fld y 18 5 = 0 → exec (.bundleExecute n el) s0 = .next (s.setCore n (if c.lc ≤ 1 then { t with lc := 0 } else { t with
      lc := c.lc - 1, pc := c.pc + (y.extractLsb' 0 18).signExtend 64 * 4, notBefore := s.cclk + 2 }))) ∧
    (fld y 23 5 = 0x0E → fld y 0 23 = 0 → exec (.bundleExecute n el) s0 = .next (s.setCore n
      (if c.sb = [] ∧ c.viq = [] ∧ c.wq = [] then { t with ibuf := [] } else c.touch c.pc 1))) ∧
    (c.level ≠ 0 ∨ c.status.getLsbD 5 = true → fld y 23 5 = 0x0F → fld y 0 23 = 0 → exec (.bundleExecute n el) s0 = .next (s.setCore n
      (if c.latch = true then { t with latch := false } else { t with wait := .wfe }))) ∧
    (c.level ≠ 0 ∨ c.status.getLsbD 5 = true → fld y 23 5 = 0x10 → fld y 0 18 = 0 →
      (inOrder s n = true → exec (.bundleExecute n el) s0 = .next
        ({ s with events := s.events ++ ((List.range 64).filter (fun k => g.getLsbD k && k != n.val)).map (fun k => (k, n.val)) }.setCore n
          { t with latch := c.latch || g.getLsbD n })) ∧
      (inOrder s n = false → exec (.bundleExecute n el) s0 = .next (s.setCore n (c.touch c.pc 1)))) ∧
    (fld y 23 5 = 0x0D → fld y 0 23 = 0 → c.viq = [] →
      (inOrder s n = false → exec (.bundleExecute n el) s0 = .next (s.setCore n (c.touch c.pc 1))) ∧
      ∀ j, c.job = some j → inOrder s n = true → c.links = [] → (regGet s .dbgTrctl 0).getLsbD 0 = false →
        let e : RankEnd := { ended := true, crc := c.digFlush.crc, crcN := c.digFlush.crcN, taint := c.taint }
        ∃ t, exec (.bundleExecute n el) s0 = .next t ∧ t = { s with cores := t.cores, jobs := t.jobs } ∧ (∀ k, k ≠ n.val → t.core k = s.core k) ∧
          (t.core n).ended = true ∧ (t.core n).g = c.g ∧ t.job j = (if c.partner = true then { s.job j with pranks := tset {} (s.job j).pranks c.rank e }
            else { s.job j with ranks := tset {} (s.job j).ranks c.rank e }))

/-- What the checks of `vrestore` found: the core with its queue, or the offset that fails. -/
abbrev loaded : Restore → Option Core | .ok c => some c | .bad _ => none
abbrev failsAt : Restore → Option Nat | .ok _ => none | .bad off => some off

/-- A vector operation that passes its checks enters the queue; `vsave` writes the area at VCTX, for an empty queue its header;
`vrestore` loads the queue and returns, or is an illegal instruction with the offset of what failed (R180, R325, R326). -/
def vectorBundles : Prop :=
  ∀ (n : Fin 64) (el : Pace) (y z : W32) (v : Vop) (s0 : State), s0.live →
    let s := { s0 with cclk := s0.cclk + el.cclk }
    let c := s.core n
    let u := c.touch c.pc 1
    (∀ e ∈ s.cores, e.2.stopDue = none) → fld y 28 3 = 3 → c.rpt = 0 → c.status.getLsbD 7 = false →
    (∀ e ∈ [([y], false, xDefault), ([y, z], true, z)], bundleReady s n e.1 → isVecOp y = true → y.getLsbD 16 = e.2.1 →
      (e.2.1 = true → fld z 28 3 = 4) → c.viqUsed < 32 → (∀ r ∈ sylReads y ++ sylWrites y, c.gPending s.cclk r = false) →
      vecAt (c.touch c.pc e.1.length) e.1 y = .ok v →
      v.syl0 = y ∧ v.syl1 = e.2.2 ∧ v.priv = c.level ∧ v.seqn = c.seqn + 1 ∧ v.fpc = c.fpctl.setWidth 32 ∧
      exec (.bundleExecute n el) s0 = .next (s.setCore n { c.touch c.pc e.1.length with
        viq := c.viq ++ [v], seqn := c.seqn + 3, ibpSkip := false, pc := c.pc + w64 (4 * e.1.length), notBefore := s.cclk + 1 })) ∧
    (bundleReady s n [y] → fld y 21 7 = 0x7C → saveIllegal y = none → c.level ≠ 0 → c.viq = [] → c.vsrd = [] → c.fprd = [] → c.sb = [] →
      vsaveFault s c = none → bridgeHolds s (n / 8) c.vctx.toNat 9536 = false →
      let hdr : List Byte := [0x51, 0x56, 0, 0] ++ leBytes (regGet s .glbMcVer 0).toNat 4 ++ zeroBytes 56
      let out := areaPut n c.level 129 (s.setCore n u) c.vctx.toNat hdr
      ∃ t, exec (.bundleExecute n el) s0 = .next t ∧ t = { out with cores := t.cores } ∧ (t.core n).viq = [] ∧ (t.core n).pc = c.pc + 4 ∧
        (t.core n).notBefore = t.cclk + 1 ∧ (t.core n).saved.length = c.saved.length + 1 ∧ (t.core n).g = c.g) ∧
    (bundleReady s n [y, z] → fld y 21 7 = 0x7D → saveIllegal y = none → fld z 28 3 = 5 → fld z 23 5 = 0x0C → fld z 0 23 = 0 →
      c.level ≠ 0 → levelOf c.estatus ≤ c.level → c.viq = [] → c.sb = [] → c.edivd.getLsbD 63 = false →
      bridgeHolds s (n / 8) c.vctx.toNat 9536 = false →
      let lvl := levelOf c.estatus
      let r := vrestoreDo (s.setCore n (c.touch c.pc 2)) n lvl (lvl == 0 || (lvl == 1 && !((c.hstack.drop 1).any id))) el.chk
      (∀ c', loaded r.2 = some c' → ∃ t, exec (.bundleExecute n el) s0 = .next t ∧ t.mem = r.1.mem ∧ (t.core n).viq = c'.viq ∧
        (t.core n).pc = c'.epc ∧ (t.core n).rpt = c'.erpt.setWidth 32) ∧
      (∀ off, failsAt r.2 = some off → handlerOpen r.1 (r.1.core n) → (r.1.core n).wait = .none → (r.1.core n).stepping = false →
        (r.1.core n).status.getLsbD 4 = false → exec (.bundleExecute n el) s0 = .next
          (r.1.setCore n (entered (r.1.core n) r.1.cclk 0x801 (w64 off) c.pc))))

/-- The divide completes (R130, R140): a division by zero gives all ones as the quotient and the dividend as the remainder; one of
32 bits gives its result extended by its sign bit. -/
def divideCompletes : Prop :=
  ∀ (n : Fin 64) (d : DivRec) (s : State), s.live → (s.core n).div = some d →
    let x : W32 := d.a.setWidth 32
    let y : W32 := d.b.setWidth 32
    (s.cclk < d.due → exec (.divideComplete n) s = .next s) ∧
    (d.due ≤ s.cclk → d.wide = false → ∀ e ∈ [(0, if y = 0 then 0xFFFFFFFF else x.sdiv y), (1, if y = 0 then 0xFFFFFFFF else x / y),
        (2, if y = 0 then x else x.srem y), (3, if y = 0 then x else x % y)], d.op = e.1 → exec (.divideComplete n) s = .next
          (s.setCore n { (s.core n).setG d.dest (BitVec.signExtend 64 e.2) with div := none })) ∧
    (d.due ≤ s.cclk → d.wide = true → ∀ e ∈ [(0, if d.b = 0 then 0xFFFFFFFFFFFFFFFF else d.a.sdiv d.b), (1, if d.b = 0 then 0xFFFFFFFFFFFFFFFF else d.a / d.b),
        (2, if d.b = 0 then d.a else d.a.srem d.b), (3, if d.b = 0 then d.a else d.a % d.b)],
      d.op = e.1 → exec (.divideComplete n) s = .next (s.setCore n { (s.core n).setG d.dest e.2 with div := none }))

/-- A load gets its response (R123, R129, R148): the bytes read, extended by its type, reach its register; a
response with an error ends the load and waits to be taken as a fault.  A store at the head of the store buffer leaves for its target
(R124), while no load has a request out, and a partner core's reaches no target: its job alone sees it (R101, R102).  A load that is split has a request for each half, and the second response completes it (R127). -/
def scalarAccessesComplete : Prop :=
  ∀ (n : Fin 64) (s : State), s.live →
    let c := s.core n
    (∀ l chk s' r bs, c.loads = [l] → l.split = false → l.low = none → l.high = none → l.bad = none → l.addr % 8 + l.size ≤ 8 →
      bridgeHolds s (n / 8) l.addr l.size = false → coreRead s n l.level l.addr l.size chk = (s', r, bs) →
      (r = .ok ∨ r = .decErr → exec (.loadResponse n 0 false chk) s = .next (s'.setCore n
        { (s'.core n).setG l.dest (loadValue l.signed bs) with loads := (s'.core n).loads.filter (fun x => x.seqn != l.seqn) })) ∧
      (r = .ownErr ∨ r = .datErr → ∃ t, exec (.loadResponse n 0 false chk) s = .next t ∧ (t.core n).g = (s'.core n).g ∧
        t.mem = s'.mem ∧ ∃ f ∈ (t.core n).late, f.addr = l.addr ∧ f.code = (if r = .ownErr then 0x12 else 0x13))) ∧
    (∀ l chk s' bs, c.loads = [l] → l.split = true → l.low = none → l.bad = none → 8 < l.addr % 8 + l.size →
      let k := 8 - l.addr % 8
      bridgeHolds s (n / 8) l.addr k = false → coreRead s n l.level l.addr k chk = (s', .ok, bs) →
      (l.high = none → exec (.loadResponse n 0 false chk) s = .next (s'.setCore n { s'.core n with
        loads := (s'.core n).loads.map (fun x => if x.seqn = l.seqn then { l with low := some bs } else x) })) ∧
      (l.high ≠ none → exec (.loadResponse n 0 false chk) s = .next (s'.setCore n
        { (s'.core n).setG l.dest (loadValue l.signed (bs ++ l.high.getD [])) with loads := (s'.core n).loads.filter (fun x => x.seqn != l.seqn) }))) ∧
    (∀ x r chk, c.sb = x :: r → c.drainAt ≤ s.cclk → c.loads = [] → c.footHold x.seqn x.addr x.bytes.length true = false →
      bridgeHolds s (n / 8) x.addr x.bytes.length = false →
      let out := s.setCore n { c with sb := r, drainAt := s.cclk + 3 }
      exec (.storeBufferDrain { core := n, chk }) s = .next
        (if c.partner then shadowPut out n x.level x.addr 0xFF x.bytes else (busWrite out (coreAgent out n x.level) x.addr x.bytes chk).1)) ∧
    (∀ chk, c.sb = [] → exec (.storeBufferDrain { core := n, chk }) s = .next s)

/-- A line fill (R120, R621): the 64 bytes of the missing line are read, with the taint and the range entry of the read (R87, R526),
and enter the buffer as its most recently used line; a fetch that fails keeps its reason. -/
def lineFillBringsTheLine : Prop :=
  ∀ (n : Fin 64) (chk : Check) (a : W64) (s s' : State) (r : Resp) (bs : List Byte), s.live → coreLive s n = true →
    let b := fld a 6 42 * 64
    let s0 := if taints (target s b) = true then taintBy s n (s.core n).level else s
    let s1 := if tracked s0 n = true then rrtRead s0 n (b, b + 63) else s0
    missingWord s n = some a → bridgeHolds s (n / 8) b 64 = false → memRead s1 (coreAgent s1 n (s.core n).level) b 64 chk = (s', r, bs) →
    (r = .ok → exec (.instructionLineFill n chk) s = .next (s'.setCore n { (s'.core n).fillLine (fld a 6 42) (shadowOver s' n b bs) with fetchErr := none })) ∧
    ∀ e ∈ [(Resp.decErr, 3), (.ownErr, 5), (.datErr, 6)], r = e.1 →
      exec (.instructionLineFill n chk) s = .next (s'.setCore n { s'.core n with fetchErr := some (e.2, a) })

/-- Events and waits (R162 to R165): an event on its way sets the latch of a core that serves a job and is discarded elsewhere;
a core in `wfe` wakes on its latch, which the wake clears, or on an interrupt it can take; `waitax` and `waitcy` end when the signed
difference from their value is not negative, and the bundle then executes. -/
def eventsAndWaits : Prop :=
  ∀ (n : Fin 64) (s : State), s.live →
    let c := s.core n
    (∀ e, s.events.find? (fun e => e.1 == n.val && eventFree s e) = some e → exec (.eventLatchSet n) s = .next (
      let t := { s with events := s.events.erase e }
      if c.job.isSome && !c.ended then t.setCore n { c with latch := true } else t)) ∧
    (c.wait = .wfe → c.latch = true → c.stepping = false → exec (.wfeWake n) s = .next (s.setCore n { c with latch := false, wait := .none })) ∧
    (c.wait = .wfe → c.latch = false → exec (.wfeWake n) s = .next (if (takeable s n).isSome then s.setCore n { c with wait := .none } else s)) ∧
    (c.wait ≠ .wfe → exec (.wfeWake n) s = .next s) ∧
    (∀ y v, coreLive s n = true → boundaryAct s n = none → c.stepping = false → c.rpt = 0 → (c.level ≠ 0 ∨ c.status.getLsbD 5 = true) →
      let s1 := s.setCore n { c with wait := .none }
      let t := s1.setCore n { ({ c with wait := .none } : Core).touch c.pc 1 with
        seqn := c.seqn + 3, pc := c.pc + 4, notBefore := s.cclk + 1, ibpSkip := false }
      fetchBundle s1 (s1.core n) c.pc = .words [y] → fld y 28 3 = 5 → c.gPending s.cclk (fld y 18 5) = false → c.gr (fld y 18 5) = v →
      (∀ k, c.wait = .waitax k v → fld y 23 5 = 0x11 → fld y 13 5 = k → fld y 0 13 = 0 →
        exec (.waitaxComplete n) s = .next (if 0 ≤ ((busVal s (n / 32)  k).value - v).toInt then t else s)) ∧
      (c.wait = .waitcy v → fld y 23 5 = 0x12 → fld y 0 18 = 0 →
        exec (.waitcyComplete n) s = .next (if 0 ≤ (w64 s.cclk - v).toInt then t else s)))

/-- A chain group starts (R195, R196, R188): its members take their pipes and ports and run from their progress; a group with no
element left completes at once. -/
def groupStarts : Prop :=
  ∀ (n : Fin 64) (v : Vop) (s : State), s.live → (s.core n).halted = false →
    let c := s.core n
    c.viq.find? (fun x => !x.started && !x.released) = some v →
    (c.canStart v.group = false → exec (.groupStart n) s = .next s) ∧
    (c.canStart v.group = true → (c.members v.group).any (fun x => decide (x.p < x.vl)) = true → ∃ t, exec (.groupStart n) s = .next t ∧
      t = { s with cores := t.cores, rows := t.rows } ∧ (∀ k, k ≠ n.val → t.core k = s.core k) ∧
      let a := c.assign v.group
      t.core n = { a with viq := a.viq.map (fun x => if x.group = v.group then { x with started := true, nxt := a.startAt x } else x) }) ∧
    (c.canStart v.group = true → (c.members v.group).all (fun x => decide (x.vl ≤ x.p)) = true → ∃ t, exec (.groupStart n) s = .next t ∧
      t = { s with cores := t.cores, rows := t.rows } ∧ (∀ k, k ≠ n.val → t.core k = s.core k) ∧
      ∀ x ∈ (t.core n).viq, x.group = v.group → x.released = true)

/-- The stream engine reads one element (R181, R182, R184, R189): the bytes, or the bit, at its address reach the operand, in two
halves where they cross a word; a suppressed element of an indexed stream is none, one that may not be read carries its stream fault,
and a masked-off element is not read. -/
def streamElementArrives : Prop :=
  ∀ (n : Fin 64) (k i : Nat) (o : Fin 4) (chk : Check) (v : Vop) (d : BitVec 256) (e : W64) (f : List (Nat × BitVec 9)) (tr : Bool) (s : State), s.live →
    let c := s.core n
    let len := tyBytes (fld d 48 4)
    let stride := (d.extractLsb' 96 32).toInt
    let put := fun (s : State) (x : ElemIn) => s.setCore n ((s.core n).setVop { v with data := v.data ++ [((o.val, i), x)] })
    c.halted = false → c.status.getLsbD 7 = false → c.viq[k]? = some v → o ≠ 0 → v.opnd o = .stream d →
    elementwise v o = true → c.portBusy v o = false → v.nxt ≤ i → v.started = true → v.released = false → v.fault = none → c.startAt v ≤ i →
    i < v.need o → v.op ≠ 0x6F → byWords s v = false → v.data.lookup (o.val, i) = none → orderedHold c v i = false →
    c.storesHold (c.members v.group) = false → (v.isMicro = false ∨ c.micro = none ∧ c.wq = []) → c.enabled v i = .val e f tr →
    (fld d 52 4 = 0 → placeOf c v o d i = .at ((fld d 0 48 : Int) + (i : Int) * stride * len) len none false) ∧
    (fld d 52 4 = 5 → let b : Int := (fld d 0 48 : Int) * 8 + (fld d 128 3 : Int) + (i : Int) * stride
      placeOf c v o d i = .at (b / 8) 1 (some (b % 8).toNat) false) ∧
    (e.getLsbD 0 = false → exec (.streamReadReturn n k o i chk) s = .next s) ∧
    (e.getLsbD 0 = true → placeOf c v o d i = .none → exec (.streamReadReturn n k o i chk) s = .next (put s (.oor 0))) ∧
    (e.getLsbD 0 = true → ∀ x, placeOf c v o d i = .fault x → exec (.streamReadReturn n k o i chk) s = .next (put s (.fault x))) ∧
    (e.getLsbD 0 = true → ∀ a w b cl, placeOf c v o d i = .at a w b cl →
      (∀ x, elemFault s c v.priv o a w mpuR = some x →
        exec (.streamReadReturn n k o i chk) s = .next (put s (.fault { x with rank := v.rankOf o }))) ∧
      (elemFault s c v.priv o a w mpuR = none → bridgeHolds s (n / 8) a.toNat w = false →
        ∀ s' bs, elemRead n v.priv chk (accHalves a.toNat w)
          (if (accHalves a.toNat w).any (fun h => taints (target s h.1)) = true then taintBy s n v.priv else s) = (s', none, bs) →
        (s'.core n).wq = c.wq → (s'.core n).micro = c.micro →
        let x := match b with | some k => (w64 ((leNat bs) / 2 ^ k % 2)) | none => w64 (leNat bs)
        exec (.streamReadReturn n k o i chk) s = .next (put s' (if cl = true then .oor x else .value x))))

/-- A pipe delivers an element of a hardwired instruction with a cask destination (R190, R199, R213, R250): the result is committed
in the cask with its flags, or, where it carries a flag whose trap is enabled, the group stops before it. -/
def pipeResultCommits : Prop :=
  ∀ (n : Fin 64) (k j m : Nat) (v : Vop) (x : W64) (r : ERes) (s : State), s.live → (s.core n).halted = false →
    let c := s.core n
    c.status.getLsbD 7 = false → c.pipeBusy v = false → c.viq[k]? = some v → c.viq.find? (fun u => u.seqn == v.seqn) = some v →
    v.started = true → v.released = false → v.fault = none → v.isMicro = false → v.nxt < v.vl → v.nxt = v.p → v.dst = .cask j m →
    c.unit v = 1 → (∀ p ∈ v.opnds, ∀ l, p.2 ≠ .link l) → c.storesHold (c.members v.group) = false → v.held = [] →
    itemOf c v v.nxt = .done r → r.writes = [{ ix := v.nxt, val := x }] → r.linkF = [] →
    (r.trap = false ∨ v.exempt = true → ∃ t, exec (.pipeResult n k) s = .next t ∧ t = s.setCore n (t.core n) ∧
      (t.core n).casks = (caskPut c j (tyBits (v.oty 0)) v.nxt x).casks ∧
      (t.core n).vstat = (if v.suppV then c.vstat else c.vstat ||| w64 (fld r.flags 5 4)) ∧
      (t.core n).fpctl = (if v.suppF then c.fpctl else c.fpctl ||| w64 (fld r.flags 0 5 * 256)) ∧ (t.core n).pc = c.pc) ∧
    (r.trap = true → v.exempt = false → exec (.pipeResult n k) s = .next
      (s.setCore n (c.setVop { v with fault := some (pFault 0x32 0 (w64 (fld r.flags 0 5))) })))

/-- The oldest write that was handed to port W is accepted (R133, R183, R615): its bytes, in two halves where they cross a word, or its
one bit reach their target, and it leaves the port; one of a job's digest that leaves for the control space, MRAM or a Vault is kept in
mind (R525); a partner core's reaches no target: its job alone sees it (R101, R102). -/
def vectorWriteIsAccepted : Prop :=
  ∀ (n : Fin 64) (w : WWrite) (r : List WWrite) (chk : Check) (s : State), s.live → (s.core n).wq = w :: r →
    0 < w.bytes.length → w.bytes.length ≤ 8 → bridgeHolds s (n / 8) w.addr w.bytes.length = false →
    let hs := accHalves w.addr w.bytes.length
    let s1 := if w.dig = true then hs.foldl (fun s h => markOutside s n h.1) s else s
    let write := fun (s : State) (a : Nat) (bs : List Byte) =>
      if (s.core n).partner = true then shadowPut s n w.level a 0xFF bs else (busWrite s (coreAgent s n w.level) a bs chk).1
    let done := fun (out : State) => ∃ t, exec (.vectorWriteAccepted { core := n, chk }) s = .next t ∧ t = out.setCore n (t.core n) ∧
      (t.core n).wq = (out.core n).wq.drop 1 ∧ (t.core n).g = (out.core n).g
    (w.bitp = none → w.addr % 8 + w.bytes.length ≤ 8 → done (write s1 w.addr w.bytes)) ∧
    (w.bitp = none → 8 < w.addr % 8 + w.bytes.length → let k := 8 - w.addr % 8
      done (write (write s1 w.addr (w.bytes.take k)) (w.addr + k) (w.bytes.drop k))) ∧
    (∀ k, w.bitp = some k → w.bytes.length = 1 → let v := ((w.bytes[0]?).getD 0).getLsbD 0
      done (if (s1.core n).partner = true then shadowPut s1 n w.level w.addr (setBit 0 k true) [setBit 0 k v]
        else (busBitWrite s1 (coreAgent s1 n w.level) w.addr k v chk).1))

/-- One word of a user routine that uses no pipe, port or write (R281, R283, Table 10.7): its counter operation takes effect,
and its condition, on the counters after it, chooses the next word. -/
def microwordCountsAndBranches : Prop :=
  ∀ (n : Fin 64) (v : Vop) (m : Micro) (s : State), s.live → (s.core n).halted = false →
    let c := s.core n
    let w := uWord s m.upc
    let k := fld w 149 2
    let x := (m.ec[k]?).getD 0
    c.status.getLsbD 7 = false → c.microVop = some v → c.pipeBusy v = false → v.op = 0x6F → v.fault = none → c.micro = some m →
    c.storesHold (c.running.filter Vop.isMicro) = false → m.queue = [] → m.pdefs = [] → m.stop = false →
    m.kept = [] → isStreamO v.mask = false → (∀ u ∈ c.viq, u.seqn = v.seqn → u = v) →
    (∀ o ∈ m.outs, m.cyc ≤ o.1) → fld w 71 4 = 0 → fld w 87 4 = 0 → fld w 103 5 = 0 → fld w 116 4 = 0 → fld w 124 6 = 0 → w.getLsbD 130 = false →
    fld w 145 2 = 0 → w.getLsbD 36 = false → fld w 28 6 ≠ 0xE →
    ∀ e ∈ [(0, x), (1, x + w32 (tyLanes v.ty)), (2, x + 1), (3, x + mwConst w), (4, mwConst w)], fld w 151 3 = e.1 →
      let m' := { m with ec := m.ec.set k e.2 }
      let ec' (j : Nat) : Nat := ((m'.ec[j]?).getD 0).toNat
      (fld w 28 6 = 0 → condHolds c v m' w = false) ∧ (fld w 28 6 = 1 → condHolds c v m' w = true) ∧
      (∀ j : Fin 4, fld w 28 6 = 2 + j → condHolds c v m' w = decide (ec' j = 0)) ∧
      (∀ j : Fin 4, fld w 28 6 = 6 + j → condHolds c v m' w = decide (v.vl ≤ ec' j)) ∧
      (∀ j : Fin 3, fld w 28 6 = 10 + j → condHolds c v m' w = decide (ec' (j + 1) ≤ ec' 0)) ∧
      exec (.microwordExecute n) s = .next (s.setCore n { c with micro := some { m' with
        upc := if condHolds c v m' w then fld w 14 14 else fld w 0 14, cyc := m.cyc + fld w 34 2 + 1 } })

/-- An exception is taken (R308, R129): of a core whose handler is valid and not running, with an idle press and no divide, the
fault of a load is taken with ESTATUS, EPC, ECAUSE and EINFO saved, the level S and EXC set, and the pc at EVEC. -/
def exceptionEntrySavesAndGoes : Prop :=
  ∀ (n : Fin 64) (l : LateFault) (s : State), s.live →
    let c := s.core n
    coreLive s n = true → debugBoundary s n = none → (regGet s .dbgTrctl 0).getLsbD 0 = false → c.status.getLsbD 4 = false →
    c.status.getLsbD 3 = false → c.evec.getLsbD 0 = true → c.evec.getLsbD 1 = false → c.late = [l] → l.exc = false → l.code < 0x40 →
    c.level ≠ 2 → c.viq = [] → c.vsrd = [] → c.fprd = [] → c.div = none → c.stepping = false →
    exec (.exceptionEntry n) s = .next (s.setCore n { c with
      late := [], links := [], estatus := c.status, epc := c.pc, einfo := w64 l.addr, ecause := w64 (l.code + 2 ^ 17), erpt := c.rpt.setWidth 64,
      rpt := 0, edivd := setBit c.edivd 63 false, status := (setBit c.status 3 true) &&& ~~~ (0x117 : W64),
      pc := c.evec &&& 0x0000FFFFFFFFFFFC#64, wait := .none, fetchErr := none, notBefore := s.cclk + 2, ibpSkip := false,
      hstack := false :: c.hstack, jendBack := if c.wait = .jend then some (c.hstack.length, c.pc) else c.jendBack })

/-- An interrupt is taken (R316, R317): the lowest source that is pending and enabled, where IE allows it and no shield holds it;
its pending bit clears, ECAUSE holds 0x80 plus its number, and the pc is at EVEC.  Without one nothing happens. -/
def interruptTakeEntersTheHandler : Prop :=
  ∀ (n : Fin 64) (s : State), s.live →
    let c := s.core n
    coreLive s n = true → debugBoundary s n = none → (regGet s .dbgTrctl 0).getLsbD 0 = false → c.status.getLsbD 4 = false →
    c.evec.getLsbD 0 = true → c.evec.getLsbD 1 = false → c.late = [] → c.viq = [] → c.vsrd = [] → c.fprd = [] → c.div = none →
    c.stepping = false → c.wait = .none →
    (takeable s n = none → exec (.interruptTake n) s = .next s) ∧
    ∀ j, takeable s n = some j →
      (c.status.getLsbD 2 = true ∧ c.level ≠ 2 ∧ (regGet s .rowIpend n).getLsbD j = true ∧ (regGet s .rowIen n).getLsbD j = true ∧
        ∀ i < j, ((regGet s .rowIpend n).getLsbD i && (regGet s .rowIen n).getLsbD i) = false) ∧
      exec (.interruptTake n) s = .next ((regPut s .rowIpend n (regGet s .rowIpend n &&& ~~~ (w64 (2 ^ j)))).setCore n { c with
        links := [], estatus := c.status, epc := c.pc, einfo := 0, ecause := w64 (0x80 + j + (c.status.getLsbD 8).toNat * 2 ^ 16),
        erpt := c.rpt.setWidth 64, rpt := 0, edivd := setBit c.edivd 63 false, status := (setBit c.status 3 true) &&& ~~~ (0x117 : W64),
        pc := c.evec &&& 0x0000FFFFFFFFFFFC#64, fetchErr := none, notBefore := s.cclk + 2, ibpSkip := false, hstack := true :: c.hstack })

/-- The shield and software interrupts (R312, R318): when SHIELD_COUNT reaches 0, SH clears and SHD sets; a write of ROW_ISWI sets
the pending bits it names and changes no other. -/
def shieldAndSoftwareInterrupts : Prop :=
  ∀ (n : Fin 64) (m : Byte) (s : State), s.live →
    let c := s.core n
    (c.status.getLsbD 4 = true → c.halted = false → 0 < c.shieldEnd → c.shieldEnd ≤ s.cclk → exec (.shieldExpiry n) s = .next
      (s.setCore n { c with status := setBit (setBit c.status 4 false) 8 true, shieldHeld := 0 })) ∧
    (c.status.getLsbD 4 = false ∨ c.halted = true ∨ s.cclk < c.shieldEnd → exec (.shieldExpiry n) s = .next s) ∧
    (s.serves .rowIswi n → ∃ t, exec (.softwareInterrupt n m) s = .next t ∧ t = { s with regs := t.regs } ∧
      regGet t .rowIpend n = regGet s .rowIpend n ||| m.setWidth 64 ∧
      ∀ k, k < 64 → k ≠ n.val → regGet t .rowIpend k = regGet s .rowIpend k)

/-! ## Memories (chapters 12 and 13) -/

/-- The whole answer of a read command: a response code and bytes. -/
def answered (s : State) (r : Resp) (bs : List Byte) : State := { s with resp := r, readBytes := bs }

/-- A read of the Cellar by the owner in force, of a bay that is ON, in which the check code finds nothing, returns the bytes
stored and changes nothing; of every other master or bay it returns zeros with an ownership error, which the slice counts
and logs (R337, R341, R342).  An access that crosses a stopped bridge waits (R384, R530). -/
def cellarReadAnswers : Prop :=
  ∀ (m : Fin 16) (level : Fin 3) (a : BitVec 28) (n : Nat) (s : State), s.live → m ≠ 10 → m ≠ 11 →
    let b := a.toNat / 2 ^ 22
    let sl := a.toNat / 2 ^ 25
    let len := min n (64 - a.toNat % 64)
    let mine := m = 15 ∨ (s.bay b).force = ownerCode m
    (bridgeHolds s m a.toNat len = true → exec (.cellarRead m level a n .clean) s = .next s) ∧
    (bridgeHolds s m a.toNat len = false → bayOn s b = true → mine → (∀ w, isPoison s w = false) →
      exec (.cellarRead m level a n .clean) s = .next (answered s .ok (bytesGet s.mem a.toNat len))) ∧
    (bridgeHolds s m a.toNat len = false → bayOn s b = false ∨ ¬ mine → ∃ t, exec (.cellarRead m level a n .clean) s = .next t ∧
      t = { s with regs := t.regs, reports := t.reports, resp := .ownErr, readBytes := List.replicate len 0 } ∧
      regGet t .celOecnt sl = w64 (min ((regGet s .celOecnt sl).toNat + 1) 0xFFFFFFFF) ∧
      (regGet t .celOelog sl).getLsbD 63 = true ∧
      ((regGet s .celOelog sl).getLsbD 63 = true → regGet t .celOelog sl = regGet s .celOelog sl))

/-- What the check code finds in a read of a bay that is ON, by its owner (R337, R338): each word with an uncorrectable error is
marked and counted and the read returns zeros with a data error, the contents kept; each corrected word is counted and the
read returns the bytes stored. -/
def cellarReadFindsError : Prop :=
  ∀ (m : Fin 16) (level : Fin 3) (a : BitVec 28) (n : Nat) (chk : Check) (s : State), s.live → m ≠ 10 → m ≠ 11 →
    bayOn s (a.toNat / 2 ^ 22) = true → (m = 15 ∨ (s.bay (a.toNat / 2 ^ 22)).force = ownerCode m) →
    a.toNat % 64 + n ≤ 64 → bridgeHolds s m a.toNat n = false →
    let sl := a.toNat / 2 ^ 25
    let ws := unitsOf 8 a.toNat n
    (chk.ce = [] → ws.any (fun w => isPoison s w || chk.ue.contains w) = true →
      ∃ t, exec (.cellarRead m level a n chk) s = .next t ∧ t.resp = .datErr ∧ t.readBytes = List.replicate n 0 ∧
        t = { s with regs := t.regs, reports := t.reports, poison := t.poison, resp := t.resp, readBytes := t.readBytes } ∧
        (∀ w, isPoison t w = ((ws.contains w && chk.ue.contains w) || isPoison s w)) ∧
        ((regGet s .celUecnt sl).toNat ≤ 0xFFFFFFFF → regGet t .celUecnt sl =
          w64 (min ((regGet s .celUecnt sl).toNat + (ws.filter (isPoison t)).length) 0xFFFFFFFF))) ∧
    (chk.ue = [] → (∀ w ∈ ws, isPoison s w = false) →
      ∃ t, exec (.cellarRead m level a n chk) s = .next t ∧ t.resp = .ok ∧ t.readBytes = bytesGet s.mem a.toNat n ∧
        t = { s with regs := t.regs, reports := t.reports, resp := t.resp, readBytes := t.readBytes } ∧
        ((regGet s .celCecnt sl).toNat ≤ 0xFFFFFFFF → regGet t .celCecnt sl =
          w64 (min ((regGet s .celCecnt sl).toNat + (ws.filter chk.ce.contains).length) 0xFFFFFFFF)))

/-- A write of the Cellar by the owner in force, of a bay that is ON, stores its bytes and clears the error of each word that
it covers whole; the write of any other master, or of a bay that is not ON, is discarded and counted.  The writer sees no
error (R335, R338, R342). -/
def cellarWriteStores : Prop :=
  ∀ (m : Fin 16) (level : Fin 3) (a : BitVec 28) (bytes : List Byte) (s : State), s.live → m ≠ 12 → m ≠ 13 →
    let b := a.toNat / 2 ^ 22
    let sl := a.toNat / 2 ^ 25
    let bs := bytes.take (64 - a.toNat % 64)
    let mine := m = 15 ∨ (s.bay b).force = ownerCode m
    bridgeHolds s m a.toNat bs.length = false →
    (bayOn s b = true → mine → (∀ w ∈ unitsOf 8 a.toNat bs.length, isPoison s w = true → w ∈ unitsWhole 8 a.toNat bs.length) →
      ∃ t, exec (.cellarWrite m level a bytes .clean) s = .next t ∧
        t = { s with mem := bytesPut s.mem a.toNat bs, poison := t.poison, resp := .ok } ∧
        (∀ w, isPoison t w = (isPoison s w && !(unitsWhole 8 a.toNat bs.length).contains w))) ∧
    (bayOn s b = false ∨ ¬ mine → ∃ t, exec (.cellarWrite m level a bytes .clean) s = .next t ∧
      t = { s with regs := t.regs, reports := t.reports, resp := .ok } ∧
      regGet t .celOecnt sl = w64 (min ((regGet s .celOecnt sl).toNat + 1) 0xFFFFFFFF))

/-- The compare-and-set of CEL_OWNb (R343): only the Cellarer, a HANDOVER entry or the owning row's Supervisor may change an
owner, to a code that is not reserved, when EXPECT names the present one (the Cellarer may name any).  A rejected write
changes no owner, and sets RES and OWNREJ; a row that another agent has overtaken in the same TCLK, and that expects itself, meets a mismatch
(Table 12.12, notes/assumptions/125.md).  A core of the other die reaches it while the bridge runs (R384, R530). -/
def ownershipIsCompareAndSet : Prop :=
  ∀ (b : Fin 64) (new expect : Fin 16) (w : OwnAgent) (s : State), s.live → s.serves .celOwn b →
    (bridgeDown s = true → ∀ r l, w = .core r l → r < 4) →
    let x := s.bay b
    let may := w = .cellarer ∨ w = .handover ∨ ∃ r l, w = .core r l ∧ 1 ≤ l ∧ (x.owner = r ∨ x.passed = some (r, s.tick) ∧ expect.val = r)
    let named := if expect = 0xE then w = .cellarer else expect.val = x.owner
    let legal := ¬ (0xB ≤ new.val ∧ new.val ≤ 0xE)
    (may → legal → named → exec (.ownershipWrite b new expect w) s = .next
      (s.setBay b { x with owner := new, coming := x.coming ++ [(new.val, none)], res := 0
                           passed := match w with | .core _ _ => none | _ => some (x.owner, s.tick) })) ∧
    (¬ (may ∧ legal ∧ named) → ∃ res, (res = 1 ∨ res = 2) ∧ (res = 1 ↔ may ∧ legal ∧ expect ≠ 0xE) ∧
      exec (.ownershipWrite b new expect w) s = .next (regSetBits (s.setBay b { x with res := res }) .celEvt 0 0x10000))

/-- The oldest accepted ownership write of a bay comes into force at its slice (R344); a power write is carried out only
while the owner is None and no transition is in progress, else it sets PWRREJ (R347). -/
def bayOwnerAndPower : Prop :=
  ∀ (b : Fin 64) (st : Fin 4) (s : State), s.live → updateWaits s b = false →
    let x := s.bay b
    (∀ n r, x.coming = n :: r → exec (.ownerInForce b) s = .next (s.setBay b { x with force := n.1, coming := r })) ∧
    (s.serves .celBpwr b → x.owner ≠ 0xF ∨ x.busy = true →
      exec (.bayPowerWrite b st) s = .next (regSetBits s .celEvt 0 0x20000)) ∧
    (s.serves .celBpwr b → x.owner = 0xF → x.busy = false → st ≠ 3 → bayPowerOf st ≠ x.power →
      exec (.bayPowerWrite b st) s = .next (s.setBay b { x with power := bayPowerOf st, busy := true, fromP := x.power })) ∧
    (x.busy = true → x.power ≠ .off → x.fromP ≠ .off →
      exec (.bayPowerTransitionEnd b) s = .next (s.setBay b { x with busy := false, fromP := x.power }))

/-- A bay that was OFF, or that goes OFF, loses its contents: every byte of it reads 0 and no word of it is marked; every other
byte keeps its value (Table 12.4). -/
def bayPowerOffLosesContents : Prop :=
  ∀ (b : Fin 64) (s : State), s.live → updateWaits s b = false → (s.bay b).busy = true → (s.bay b).power = .off ∨ (s.bay b).fromP = .off →
    ∃ t, exec (.bayPowerTransitionEnd b) s = .next t ∧
      t = { s with mem := t.mem, poison := t.poison, bays := t.bays } ∧ (t.bay b).busy = false ∧
      (∀ k, k ≠ b.val → t.bay k = s.bay k) ∧
      (∀ a, cellGet t.mem a = if b.val * 2 ^ 22 ≤ a ∧ a < (b.val + 1) * 2 ^ 22 then 0 else cellGet s.mem a) ∧
      (∀ w, isPoison t w = (isPoison s w && !(decide (b.val * 2 ^ 22 ≤ w * 8) && decide (w * 8 < (b.val + 1) * 2 ^ 22))))

/-- The scrubber (R339): with EN = 1 and nothing to find it moves to the word position after the next one in a bay that is ON, and
counts a pass after the last position or when it starts again; with EN = 0 or no bay ON it does nothing.  It stores nothing in
memory. -/
def scrubberVisits : Prop :=
  ∀ (sl : Fin 8) (s : State), s.live →
    ((regGet s .celScrubCtrl 0).getLsbD 0 = false → ∀ ce ue, exec (.scrubRead sl ce ue) s = .next s) ∧
    ((regGet s .celScrubCtrl 0).getLsbD 0 = true →
      let p := tget 0 s.scrubPos sl
      (scrubNext s sl p = none → ∀ ce ue, exec (.scrubRead sl ce ue) s = .next s) ∧
      (s.poison = [] → ∀ q, scrubNext s sl p = some q → q < 8192 →
        let t := { s with scrubPos := tset 0 s.scrubPos sl ((q + 1) % 8192) }
        exec (.scrubRead sl [] []) s = .next
          (if q < p ∨ q = 8191 then regPut t .celScrubPass sl ((regGet s .celScrubPass sl + 1) &&& 0xFFFFFFFF) else t))) ∧
    (∀ ce ue t, exec (.scrubRead sl ce ue) s = .next t → t.mem = s.mem)

/-- The scrubber's next position is a word position of its slice in a bay that is ON, when some is; with none it has no next. -/
def scrubberSkipsBaysThatAreNotOn : Prop :=
  ∀ (sl p : Nat) (s : State), p < 8192 →
    ((∃ k, k < 8 ∧ bayOn s (sl * 8 + k) = true) →
      ∃ q, scrubNext s sl p = some q ∧ q < 8192 ∧ bayOn s (sl * 8 + q / 1024) = true) ∧
    ((∀ k, k < 8 → bayOn s (sl * 8 + k) = false) → scrubNext s sl p = none)

/-- HBM while its range is ready: a read of a codeword with no error returns the bytes stored; a write stores its bytes, and a
write of all 64 bytes clears the codeword's error, one of fewer reads the codeword first, counts its error and keeps it (R359 to
R361). -/
def hbmReadsAndWrites : Prop :=
  ∀ (m : Fin 16) (a : BitVec 48) (n : Nat) (bytes : List Byte) (s : State), s.live → hasPath m 8 = true →
    target s a.toNat = .hbm →
    let w := a.toNat / 64 * 8
    let len := min n (64 - a.toNat % 64)
    let bs := bytes.take (64 - a.toNat % 64)
    bridgeHolds s m a.toNat len = false → bridgeHolds s m a.toNat bs.length = false →
    (isPoison s w = false → exec (.hbmRead m a n .clean) s = .next (answered s .ok (bytesGet s.mem a.toNat len))) ∧
    (isPoison s w = true → ∃ t, exec (.hbmRead m a n .clean) s = .next t ∧
      t = { s with regs := t.regs, reports := t.reports, resp := .datErr, readBytes := List.replicate len 0 } ∧
      regGet t .hbmUecnt (hbmStack s a.toNat) = w64 (min ((regGet s .hbmUecnt (hbmStack s a.toNat)).toNat + 1) 0xFFFFFFFF)) ∧
    (bs.length = 64 ∨ bs = [] ∨ isPoison s w = false → ∃ t, exec (.hbmWrite m a { bytes }) s = .next t ∧
      t = { s with mem := bytesPut s.mem a.toNat bs, poison := t.poison, resp := .ok } ∧
      (bs.length = 64 → isPoison t w = false) ∧ (bs.length < 64 → isPoison t w = isPoison s w)) ∧
    (bs.length < 64 → bs ≠ [] → isPoison s w = true → ∃ t, exec (.hbmWrite m a { bytes }) s = .next t ∧
      t = { s with regs := t.regs, reports := t.reports, mem := bytesPut s.mem a.toNat bs, poison := t.poison, resp := .ok } ∧
      isPoison t w = true ∧
      regGet t .hbmUecnt (hbmStack s a.toNat) = w64 (min ((regGet s .hbmUecnt (hbmStack s a.toNat)).toNat + 1) 0xFFFFFFFF))

/-- Training of HBM (R367, R368): it starts when none is in progress, and the range goes to the default target; at its end
every byte of HBM reads 0, no codeword is marked, the mode is HBM_CFG.SPLIT, and the range, or each half, is ready when its
stacks respond and have passed.  Bytes outside HBM and the rows repaired for good keep their values (R366). -/
def hbmTraining : Prop :=
  ∀ (w0 w1 w2 w3 : W32) (s : State), s.live →
    (s.serves .hbmCtrl 0 → (regGet s .hbmStat 0).getLsbD 0 = false → exec .hbmTrain s = .next
      (regPut (regPut s .hbmStat 0 ((regGet s .hbmStat 0 &&& ~~~ (6 : W64)) ||| 1)) .hbmCtrl 0 1)) ∧
    ((regGet s .hbmStat 0).getLsbD 0 = true →
      let pass := fun (i : Nat) => (if i = 0 then w0 else if i = 1 then w1 else if i = 2 then w2 else w3).getLsbD 0 &&
        !(if i = 0 then w0 else if i = 1 then w1 else if i = 2 then w2 else w3).getLsbD 1
      let split := (regGet s .hbmCfg 0).getLsbD 0
      ∃ t, exec (.hbmTrainingEnd w0 w1 w2 w3) s = .next t ∧
        t = { s with regs := t.regs, reports := t.reports, mem := t.mem, poison := t.poison, hbmRows := [], hbmSoft := [], hbmHard := t.hbmHard } ∧
        (∀ r, tget false s.hbmHard r = true → tget false t.hbmHard r = true) ∧
        (∀ a, cellGet t.mem a = if 0x001000000000 ≤ a ∧ a < 0x002800000000 then 0 else cellGet s.mem a) ∧
        (∀ v, isPoison t v = (isPoison s v && decide (v * 8 < 0x001000000000))) ∧
        regGet t .hbmCtrl 0 = 0 ∧ (regGet t .hbmStat 0).getLsbD 0 = false ∧ (regGet t .hbmStat 0).getLsbD 3 = split ∧
        (regGet t .hbmStat 0).getLsbD 1 = (if split then pass 0 && pass 1 else pass 0 && pass 1 && pass 2 && pass 3) ∧
        (regGet t .hbmStat 0).getLsbD 2 = (if split then pass 2 && pass 3 else pass 0 && pass 1 && pass 2 && pass 3) ∧
        (∀ i, i < 4 → (regGet t .hbmStat 0).getLsbD (4 + i) = !pass i))

/-- A row that has collected HBM_PPR_THR corrected codewords is repaired softly once: SOFT counts it and PPR is set (R365).
Refresh changes no contents (R363).  A stack above 85 °C reads HOT.  LOGCLR clears the logs it names (R350, R369). -/
def hbmCareAndLogs : Prop :=
  ∀ (a : BitVec 48) (ch : Fin 128) (sid : Fin 3) (bank : Fin 16) (k : Fin 4) (sl : Fin 8) (temp : Byte) (v : W32) (s : State),
    s.live →
    (target s a.toNat = .hbm → 0 < fld (regGet s .hbmPprThr 0) 0 16 →
      fld (regGet s .hbmPprThr 0) 0 16 ≤ tget 0 s.hbmRows (hbmRow s a.toNat) →
      tget false s.hbmSoft (hbmRow s a.toNat) = false →
      let j := hbmStack s a.toNat
      let p := regGet s .hbmPpr j
      exec (.softRepair a) s = .next (regSetBits { regPut s .hbmPpr j (putFld p 12 12 (min (fld p 12 12 + 1) 4095)) with
        hbmSoft := tset false s.hbmSoft (hbmRow s a.toNat) true } .hbmEvt 0 (w64 (2 ^ (8 + j))))) ∧
    (∃ r, exec (.hbmRefresh ch sid bank) s = .next { s with refresh := r }) ∧
    exec (.stackHot k temp) s = .next (regPut s .hbmTemp k (temp.setWidth 64 ||| (if (85 : Int) < temp.toInt then 0x100 else 0))) ∧
    (s.serves .hbmLogclr k → exec (.hbmLogclr k v) s = .next (if v.getLsbD 0 then regPut s .hbmUelog k 0 else s)) ∧
    (s.serves .celLogclr sl → exec (.celLogclr sl v) s = .next
      (let t := if v.getLsbD 0 then regPut s .celUelog sl 0 else s
       if v.getLsbD 1 then regPut t .celOelog sl 0 else t))

/-- The default target answers a read with zeros and a decode error and discards a write; each access counts for the
requester's die (R354).  A write to the boot ROM is discarded and logged in the same way (R355). -/
def defaultTargetAnswers : Prop :=
  ∀ (m : Fin 16) (a : BitVec 48) (wr : Bool) (s : State), s.live →
    (target s a.toNat = .none → let d := masterDie m
      ∃ t, exec (.defaultTargetAccess m a wr) s = .next t ∧ t.resp = .decErr ∧
        t.readBytes = (if wr then s.readBytes else List.replicate 8 0) ∧
        t = { s with regs := t.regs, reports := t.reports, resp := t.resp, readBytes := t.readBytes } ∧
        regGet t .trDeccnt d = w64 (min ((regGet s .trDeccnt d).toNat + 1) 0xFFFFFFFF) ∧
        (regGet t .trDeclog d).getLsbD 63 = true ∧ (regGet t .trEvt 0).getLsbD d = true) ∧
    (target s a.toNat = .rom → hasPath m 13 = true → bridgeHolds s m a.toNat 1 = false →
      ∃ t, exec (.bootRomWrite m a) s = .next t ∧ t.resp = .decErr ∧
        t = { s with regs := t.regs, reports := t.reports, resp := t.resp } ∧
        regGet t .trDeccnt 0 = w64 (min ((regGet s .trDeccnt 0).toNat + 1) 0xFFFFFFFF))

/-! ## The Trellis and the die bridge (chapter 14) -/

/-- A refill adds RATE to the bucket of each enabled pair, to at most DEPTH tokens, and to no other (R379); it changes nothing else. -/
def bucketsRefill : Prop :=
  ∀ s : State, s.live → ∃ t, exec .bucketRefill s = .next t ∧ t = { s with buckets := t.buckets } ∧
    ∀ m k, m < 16 → k < 15 →
      let w := regGet s .trRl (15 * m + k)
      let x := tget 0 s.buckets (16 * m + k)
      tget 0 t.buckets (16 * m + k) =
        if w.getLsbD 24 then min (x + fld w 0 12) (256 * fld w 12 12) else x

/-- An arbiter grants no more than its capacity in a TCLK, and first a transaction of the highest priority among the assured
ones, or among all when none is assured, of those that may pass (R377, R378): here with no request at the ports.  Where none
may pass nothing is granted and none is lost. -/
def grantTakesHighestPriority : Prop :=
  ∀ (p : Fin 23) (s : State), s.live → (∀ e ∈ (s.arbiter p).waiting, e.master < 16) → (∀ m, m < 16 → (s.trPort m).queue = []) →
    let x := s.arbiter p
    let c := (heads p x.waiting).filter (mayPass s p)
    let a := if c.any (·.assured) then c.filter (·.assured) else c
    let room := x.room + capacity s p
    ∃ u, exec (.trellisGrant p []) s = .next u ∧
      u = { s with arbiters := u.arbiters, trPorts := u.trPorts, bridges := u.bridges, readBytes := u.readBytes } ∧
      8 * u.readBytes.length ≤ room ∧
      (c = [] ∨ room < 8 → u.readBytes = [] ∧ (u.arbiter p).waiting = x.waiting.map (fun t => { t with late := false }) ∧ ∀ m, u.trPort m = s.trPort m) ∧
      (c ≠ [] → 8 ≤ room → ∃ e ∈ a, u.readBytes.head? = some (BitVec.ofNat 8 e.master) ∧
        ∀ f ∈ a, pairPrio s f.master f.target ≤ pairPrio s e.master e.target)

/-- A row's request for HBM of its own die comes to its port while nothing else waits or is due there (R372, R374, R379): its address selects
the stack; with a token of an enabled pair it leaves assured and the bucket holds one token less; with CAP = 1 and no token it
waits at the port; else it leaves unassured.  What leaves is granted at once by an idle stack that is parked on the row, and by
another waits there for the next TCLK (R378). -/
def requestLeavesItsPort : Prop :=
  ∀ (m : Fin 16) (addr : BitVec 48) (p : Fin 23) (write : Bool) (s : State), s.live → m.val < 8 → target s addr.toNat = .hbm →
    p.val = 8 + hbmStack s (64 * (addr.toNat / 64)) → masterDie m = (p.val - 8) / 2 → p.val < 12 →
    (s.row m).inReset = false → (s.trPort m).tags.length < 5184 → (∀ k, k < 16 → (s.trPort k).queue = []) → (s.arbiter p).waiting = [] →
    (s.bridge 0).owed = [] → (s.bridge 1).owed = [] →
    let w := regGet s .trRl (15 * m.val + 8)
    let k := tget 0 s.buckets (16 * m.val + 8)
    let on : Prop := w.getLsbD 24 = true ∧ fld w 0 12 ≠ 0 ∧ fld w 12 12 ≠ 0
    let parked : Prop := (s.arbiter p).park = m.val
    ∃ u, exec (.trellisGrant p [{ master := m, addr, write }]) s = .next u ∧
      u = { s with arbiters := u.arbiters, trPorts := u.trPorts, bridges := u.bridges, buckets := u.buckets, readBytes := u.readBytes } ∧
      let gone (a : Bool) : Prop := (u.trPort m).queue = [] ∧ (parked → u.readBytes = [BitVec.ofNat 8 m.val] ∧ (u.arbiter p).waiting = []) ∧
        (¬ parked → u.readBytes = [] ∧ (u.arbiter p).waiting.map (fun t => (t.master, t.block, t.write, t.assured)) = [(m.val, addr.toNat / 64, write, a)])
      (on → 256 ≤ k → tget 0 u.buckets (16 * m.val + 8) = k - 256 ∧ gone true) ∧
      (on → k < 256 → w.getLsbD 25 = true → u.buckets = s.buckets ∧ u.readBytes = [] ∧ (u.trPort m).queue.length = 1) ∧
      (¬ on ∨ k < 256 ∧ w.getLsbD 25 = false → u.buckets = s.buckets ∧ gone false)

/-- A replay of the die bridge counts in TR_BRCE and sets its event; the sixteenth failure in a row of one flit stops the
direction (R384).  TR_LOGCLR clears the logs it names (R390). -/
def bridgeReplayAndLogs : Prop :=
  ∀ (dir ok : Bool) (v : W32) (s : State), s.live →
    let d := dir.toNat
    let x := s.bridge d
    let counted := regSetBits (regCount s .trBrce 0 1) .trEvt 0 8
    (x.stopped = true → exec (.bridgeFlitReplay dir ok) s = .next s) ∧
    (x.stopped = false → ok = true → exec (.bridgeFlitReplay dir ok) s = .next (counted.setBridge d { x with fails := 0 })) ∧
    (x.stopped = false → ok = false → x.fails < 15 →
      exec (.bridgeFlitReplay dir ok) s = .next (counted.setBridge d { x with fails := x.fails + 1 })) ∧
    (x.stopped = false → ok = false → x.fails = 15 → exec (.bridgeFlitReplay dir ok) s = .next
      (regSetBits (counted.setBridge d { x with fails := 16, stopped := true }) .trEvt 0 16)) ∧
    (s.serves .trLogclr 0 → exec (.trLogclr v) s = .next
      (let t := if v.getLsbD 0 then regPut s .trDeclog 0 0 else s
       if v.getLsbD 1 then regPut t .trDeclog 1 0 else t))

/-! ## The host link (chapter 15) -/

/-- The link trains to the highest rate and width that both ends support (R393): here with no outbound request waiting. -/
def linkTrainsToCommonRate : Prop :=
  ∀ (rate width : Nat) (s : State), s.live → s.link.out = [] →
    let l := { s.link with rate := max 1 (min 6 rate), width := linkWidth width, flit := decide (6 ≤ rate) }
    exec (.linkTraining rate width) s = .next { s with link := l } ∧
    (s.link.rate = 0 → exec (.linkUp rate width) s = .next { s with link := l })

/-- The link goes down (R404): LDOWN is set, every outbound request that waits is lost or ends as a timeout, nothing more
leaves, and nothing but the link and its registers changes. -/
def linkDownLosesRequests : Prop :=
  ∀ s : State, s.live → s.link.rate ≠ 0 →
    ∃ t, exec .linkDown s = .next t ∧ t = { s with regs := t.regs, reports := t.reports, link := t.link } ∧
      t.link.rate = 0 ∧ t.link.tx = s.link.tx ∧ t.link.reads = [] ∧ (∀ q ∈ t.link.out, q.sent = true) ∧
      (regGet t .glbHlEvt 0).getLsbD 0 = true

/-- A BAR0 read TLP of one aligned DW is one access: it returns the register's value, which for a register that no read
clears changes nothing else (R396, R397); its completion leaves when its turn comes.  While Memory Space Enable is 0 a read
receives Unsupported Request (R399). -/
def bar0Reads : Prop :=
  ∀ (r : RegName) (i : Nat) (off : BitVec 26) (data : List (Option Byte)) (s : State), s.live → s.link.rate ≠ 0 →
    (s.link.mse = false → exec (.bar0Access off false 4 data) s = .next { s with link :=
      { s.link.error aerUnsupported (memHeader s.link false (s.link.cfg.bar0 + w64 off.toNat) 4) with
        reads := s.link.reads ++ [{ status := 1, data := [] }] } }) ∧
    (s.link.mse = true → s.link.cfg.d3 = false → bridgeDown s = false → (regRow r).wide = false → (regRow r).rc = false → i < (regRow r).count * (regRow r).banks →
      off.toNat = regOff r i → s.serves r i → bar0Serves s off.toNat = true → (∀ b ∈ data, b.isSome = true) →
      exec (.bar0Access off false 4 data) s = .next { s with link := { s.link with reads := s.link.reads ++
        [{ status := 0, data := leBytes (regValue s r i).toNat 4 }] } }) ∧
    (∀ x rest, s.link.reads = x :: rest → exec .bar0ReadCompletion s = .next { s with link :=
      { s.link with reads := rest, reply := some x } })

/-- A BAR0 TLP that is no access of R396 changes no register: a read of it completes with zeros, and it is counted and its
first one logged (R396, R407). -/
def bar0RejectsOtherTlps : Prop :=
  ∀ (off : BitVec 26) (len : Nat) (data : List (Option Byte)) (s : State), s.live → s.link.rate ≠ 0 → s.link.mse = true →
    s.link.cfg.d3 = false → bridgeDown s = false → ¬ ((len = 4 ∧ off.toNat % 4 = 0) ∨ (len = 8 ∧ off.toNat % 8 = 0)) →
    ∃ t, exec (.bar0Access off false len data) s = .next t ∧
      t = { s with regs := t.regs, reports := t.reports, link := { s.link with reads := s.link.reads ++
        [{ status := 0, data := List.replicate len 0 }] } } ∧
      regGet t .glbBadaccCnt 0 = w64 (min ((regGet s .glbBadaccCnt 0).toNat + 1) 0xFFFFFFFF) ∧
      (regGet t .glbBadaccLog 0).getLsbD 63 = true ∧
      ((regGet s .glbBadaccLog 0).getLsbD 63 = true → regGet t .glbBadaccLog 0 = regGet s .glbBadaccLog 0)

/-- BAR2 reaches the Cellar without a check of ownership (R398): a write of bytes of one word of a bay that is ON stores them,
a read of one block returns the bytes; where BAR2 is absent a read receives Unsupported Request (R401). -/
def bar2ReachesTheCellar : Prop :=
  ∀ (off : BitVec 28) (bs : List Byte) (len : Nat) (s : State), s.live → s.link.rate ≠ 0 → s.link.mse = true →
    s.link.cfg.d3 = false → bridgeDown s = false →
    (s.otp.lcs < 2 → (s.die 0).doze = false → bs.length ≤ s.link.mps → bayOn s (off.toNat / 2 ^ 22) = true → s.poison = [] → bs ≠ [] → off.toNat % 8 + bs.length ≤ 8 →
      exec (.bar2Access off true bs.length (bs.map some) .clean) s = .next { s with mem := bytesPut s.mem off.toNat bs }) ∧
    (s.otp.lcs < 2 → bayOn s (off.toNat / 2 ^ 22) = true → s.poison = [] → (s.die 0).doze = false → 0 < len →
      off.toNat % 64 + len ≤ 64 → exec (.bar2Access off false len [] .clean) s = .next { s with link :=
        { s.link with reads := s.link.reads ++ [{ status := 0, data := bytesGet s.mem off.toNat len }] } }) ∧
    (s.link.mps < bs.length → exec (.bar2Access off true bs.length (bs.map some) .clean) s = .next
      { s with link := s.link.error aerMalformed (memHeader s.link true (s.link.cfg.bar2 + w64 off.toNat) bs.length) }) ∧
    (2 ≤ s.otp.lcs → exec (.bar2Access off false len [] .clean) s = .next { s with link :=
        { s.link.error aerUnsupported (memHeader s.link false (s.link.cfg.bar2 + w64 off.toNat) len) with reads := s.link.reads ++ [{ status := 1, data := [] }] } })

/-- Inbound problems set the AER status of Table 15.3, log the first headers and send the message of their severity, and
change nothing else but the completion of a read; a write of the Command register sets Memory Space Enable and Bus Master
Enable (R399, R401), and the host reads back what it wrote. -/
def inboundProblemsAndCommand : Prop :=
  ∀ s : State, s.live → s.link.rate ≠ 0 →
    let l := s.link
    (exec (.inboundError .outsideRead) s =
      .next { s with link := { l.error aerUnsupported (tlpHeader l 0x20000000) with reads := l.reads ++ [{ status := 1, data := [] }] } }) ∧
    (exec (.inboundError .outsideWrite) s = .next { s with link := l.error aerUnsupported (tlpHeader l 0x60000000) }) ∧
    (exec (.inboundError .poisonedWrite) s = .next { s with link := l.error aerPoisoned (tlpHeader l 0x60004000) }) ∧
    (exec (.inboundError .unexpectedCompletion) s = .next { s with link := l.error aerUnexpected (tlpHeader l 0x4A000000) }) ∧
    (∀ (b : Fin 32) (h : BitVec 128), bit (l.error b h).aer.status b = true ∧ (bit l.aer.mask b = false → l.aer.log.length < 4 →
      (l.error b h).aer.log = l.aer.log ++ [⟨b.val, h⟩])) ∧
    (∀ v : W32, cfgReady s = true → (∀ q ∈ l.out, q.sent = true) →
      exec (.commandRegisterWrite .command (some v)) s =
        .next { s with link := { l with mse := bit v 1, bme := bit v 2, cfg := { l.cfg with retry := false } } }) ∧
    (cfgReady s = true → ∃ t, exec (.commandRegisterWrite .command none) s = .next t ∧
      t = { s with link := { l with cfg := { l.cfg with retry := false, data := t.link.cfg.data } } } ∧
      bit t.link.cfg.data 1 = l.mse ∧ bit t.link.cfg.data 2 = l.bme) ∧
    (cfgReady s = false → ∀ r,
      let t := { s with link := { l with cfg := { l.cfg with retry := true } } }
      exec (.commandRegisterWrite r none) s = .next t ∧ ∀ v, exec (.commandRegisterWrite r (some v)) s = .next t)

/-- A completion with the rest of its bytes answers the outstanding read of its tag, and one with a part of them is kept; one with an error, or a timeout, answers it with a failure, and a
timeout sets CTO (R400).  A completion without an outstanding tag is discarded as unexpected (R401). -/
def outboundReadsAreAnswered : Prop :=
  ∀ (request part : Nat) (bs : List Byte) (q : OutReq) (s : State), s.live → s.link.rate ≠ 0 → (∀ x ∈ s.link.out, x.sent = true) →
    let id := request + part
    let done := fun (res : OutRes) => s.link.out.map (fun x => if x.id = id then { x with res := some res } else x)
    (s.link.out.filter (fun x => x.id == id) = [q] → q.isWrite = false → q.res = none → q.kind ≠ .orphan →
      (∀ o, let ps := insertPart (o, bs) q.parts
        (q.len ≤ (joinParts ps).length → exec (.outboundCompletion id (.data bs o)) s = .next
          { s with link := { s.link with out := done (.data ((joinParts ps).take q.len)) } }) ∧
        ((joinParts ps).length < q.len → exec (.outboundCompletion id (.data bs o)) s = .next
          { s with link := { s.link with out := s.link.out.map (fun x => if x.id = id then { x with parts := ps } else x) } })) ∧
      (q.parts = [] → bs.length = q.len → joinParts (insertPart (0, bs) q.parts) = bs) ∧
      exec (.outboundCompletion id .urca) s = .next { s with link := { s.link with out := done (.fail 5) } } ∧
      exec (.completionTimeout request part) s = .next
        (regSetBits { s with link := { s.link with out := done (.fail 4) } } .glbHlEvt 0 8)) ∧
    ((∀ x ∈ s.link.out, x.id ≠ id) →
      exec (.outboundCompletion id (.data bs)) s = .next
        { s with link := s.link.error aerUnexpected (tlpHeader s.link 0x4A000000) } ∧
      exec (.completionTimeout request part) s = .next s)

/-- The oldest message that is asked for of an open vector is a posted 4-byte write of the data to the address that the entry held
when it was asked for; of a closed vector it sets the PBA bit (R402). -/
def msixMessage : Prop :=
  ∀ (v : Fin 2048) (m : MsixMsg) (s : State), s.live → s.msixReq.find? (fun x => x.vector == v.val) = some m →
    let e := s.entry v
    (s.link.msixEn = false ∨ s.link.fmask = true ∨ e.masked = true →
      exec (.msixMessage v) s = .next { s with msixReq := s.msixReq.erase m, pba := tset false s.pba v true }) ∧
    (s.link.msixEn = true → s.link.fmask = false → e.masked = false → s.link.rate ≠ 0 → s.link.mayIssue = true →
      s.link.posted = none → (s.die 0).doze = false → bootHolds s = false → s.link.out = [] → exec (.msixMessage v) s = .next { s with msixReq := s.msixReq.erase m, link := { s.link with
        nextId := s.link.nextId + 1
        tx := s.link.tx ++ [{ addr := m.addr, data := leBytes m.data.toNat 4 }] } })

/-- Each DW of an MSI-X entry is written on its own (R402); an unmasked vector whose PBA bit is set sends one message and
clears the bit.  With no PBA bit set, a write of Message Control only sets MSI-X Enable and Function Mask. -/
def msixEntriesAndUnmask : Prop :=
  ∀ (v : Fin 2048) (x : W32) (s : State), s.live → reaches s (msixBase + 16 * v.val) = true →
    let e := s.entry v
    exec (.msixEntryWrite v 0 x) s = .next (s.setEntry v { e with addrLo := x &&& 0xFFFFFFFC }) ∧
    exec (.msixEntryWrite v 1 x) s = .next (s.setEntry v { e with addrHi := x }) ∧
    exec (.msixEntryWrite v 2 x) s = .next (s.setEntry v { e with data := x }) ∧
    (x.getLsbD 0 = true → exec (.msixEntryWrite v 3 x) s = .next (s.setEntry v { e with masked := true })) ∧
    (tget false s.pba v = false → exec (.msixUnmask (.entry v)) s = .next (s.setEntry v { e with masked := false })) ∧
    (tget false s.pba v = true → s.link.msixEn = true → s.link.fmask = false → s.link.rate ≠ 0 → s.link.mayIssue = true →
      s.link.posted = none → bootHolds s = false → s.link.out = [] → exec (.msixUnmask (.entry v)) s = .next { s.setEntry v { e with masked := false } with
        pba := tset false s.pba v false
        link := { s.link with nextId := s.link.nextId + 1
                              tx := s.link.tx ++ [{ addr := e.addrHi ++ e.addrLo, data := leBytes e.data.toNat 4 }] } }) ∧
    (s.pba = [] → ∀ en mask,
      (cfgReady s = true → exec (.msixUnmask (.control en mask)) s = .next { s with link :=
        { s.link with msixEn := en, fmask := mask, cfg := { s.link.cfg with retry := false } } }) ∧
      (cfgReady s = false → exec (.msixUnmask (.control en mask)) s = .next { s with link :=
        { s.link with cfg := { s.link.cfg with retry := true } } }))

/-- A function-level reset returns the configuration and the MSI-X table to their reset state and resets every ring; memory,
bay owners, axes, and, where no started descriptor holds words for them, alarms, timers and channels stay (R403). -/
def functionLevelResetScope : Prop :=
  ∀ s : State, s.live → ∃ t, exec .functionLevelReset s = .next t ∧
    t.msix = [] ∧ t.pba = [] ∧ t.msixReq = [] ∧ t.link.mse = false ∧ t.link.bme = false ∧ t.link.msixEn = false ∧
    t.link.tx = s.link.tx ∧ (∀ r, (t.ring r).state = .disabled) ∧ (regGet t .glbHlEvt 0).getLsbD 1 = true ∧
    t.mem = s.mem ∧ t.bays = s.bays ∧ t.axes = s.axes ∧ t.dies = s.dies ∧ t.ustore = s.ustore ∧ t.otp = s.otp ∧ t.pending = s.pending ∧
    ((∀ r, ∀ e ∈ (s.ring r).started, dType e.bytes ∉ [5, 6, 7, 8]) → (∀ e ∈ s.ingests, e.2.owed = []) → (∀ e ∈ s.egresses, e.2.owed = []) →
      t.alarms = s.alarms ∧ t.timers = s.timers ∧ t.ports = s.ports ∧ t.ingests = s.ingests ∧ t.egresses = s.egresses)

/-- The SMBus port answers the reads of Table 15.6 at its address, with the PEC byte where it is asked for, and NACKs every other
transaction, in every state of the device; it changes nothing but its own answer.  A refresh brings the readings, and before boot is complete the values that R408 names for that time.  GLB_BADACC_CLR clears the log (R407). -/
def smbusPortAnswers : Prop :=
  ∀ (k : SmbTransaction) (pec : Bool) (code : Byte) (left right : List (BitVec 16)) (pw vd : W16) (v : W32) (s : State),
    let p := s.power
    let l := sensorsRead s 0 left
    let r := sensorsRead s 8 right
    let say := fun (a : Option (List Byte)) => { s with power := { p with smb := a } }
    let health := fld (regGet s .glbRasRow 0) 0 4
    let a : BitVec 7 := BitVec.ofNat 7 (0x58 + fld (regGet s .pwrStrap 0) 1 2)
    let rd (kind : SmbKind) (c : Byte) (bs : List Byte) : Prop := exec (.smbusRead { kind, addr := a, pec } c) s =
      .next (say (some (if pec then bs ++ [smbPec { kind, addr := a, pec } c bs] else bs)))
    (p.porst = false →
      rd .readByte 0x00 [p.tHot] ∧ rd .readByte 0x01 [p.tLeft] ∧ rd .readByte 0x02 [p.tRight] ∧
      rd .readWord 0x10 [p.pkg.setWidth 8, (p.pkg >>> 8).setWidth 8] ∧ rd .readWord 0x11 [p.vdd.setWidth 8, (p.vdd >>> 8).setWidth 8] ∧
      (∀ h l, p.seen = some (h, l) → rd .readByte 0x20 [h] ∧ rd .readByte 0x21 [l] ∧ rd .blockRead 0x30
        [p.tHot, p.tLeft, p.tRight, p.pkg.setWidth 8, (p.pkg >>> 8).setWidth 8, p.vdd.setWidth 8, (p.vdd >>> 8).setWidth 8, h])) ∧
    (p.porst = true ∨ k.addr ≠ a → exec (.smbusRead k code) s = .next (say none)) ∧
    (k.kind = .writeByte ∨ k.kind = .sendByte → exec (.smbusRead k code) s = .next (say none)) ∧
    (code ∉ [0x00, 0x01, 0x02, 0x10, 0x11, 0x20, 0x21, 0x30] → exec (.smbusRead k code) s = .next (say none)) ∧
    (p.porst = false → fld (regGet s .pwrBoot 0) 0 3 = 5 → ∃ t, exec (.smbusRefresh left right pw vd) s = .next t ∧
      t = { s with regs := t.regs, power := { p with
        tHot := hottest (l ++ r), tLeft := hottest l, tRight := hottest r, pkg := pw, vdd := vd, seen := t.power.seen } } ∧
      (∃ h : Byte, t.power.seen = some (h, BitVec.ofNat 8 s.otp.lcs) ∧ h.getLsbD 0 = true ∧ (health ≠ 15 → h.getLsbD 3 = true)) ∧
      regGet t .pwrStat 0 = putFld (regGet s .pwrStat 0) 8 8 (hottest (l ++ r)).toNat) ∧
    (p.porst = false → fld (regGet s .pwrBoot 0) 0 3 ≠ 5 → ∃ t, exec (.smbusRefresh left right pw vd) s = .next t ∧ t = { s with power :=
        { p with tHot := 0x80, tLeft := 0x80, tRight := 0x80, pkg := 0xFFFF, vdd := 0xFFFF, seen := t.power.seen } } ∧
      ∃ h : Byte, t.power.seen = some (h, BitVec.ofNat 8 s.otp.lcs) ∧ h.getLsbD 0 = false) ∧
    (s.live → s.serves .glbBadaccClr 0 → exec (.glbBadaccClr v) s = .next
      (if v.getLsbD 0 then regPut s .glbBadaccLog 0 0 else s))

/-! ## Rings and jobs (chapter 16) -/

/-- A write of RK_r_CFG that changes SIZE from 0 enables a disabled ring: it runs with PIDX and DONE at CIDX, no tokens and
LSTAMP 0, and its group is marked (R411).  Nothing else changes. -/
def ringEnableStarts : Prop :=
  ∀ (r : Fin 8192) (cfg : W32) (s : State), s.live → s.serves .rkRCfg r → s.otp.lcs < 3 → (s.ring r).state = .disabled →
    fld cfg 0 5 ≠ 0 → fld cfg 0 5 ≤ 17 →
    let c := regGet s .rkRCidx r
    ∃ t, exec (.ringEnable r cfg) s = .next t ∧ t = { s with regs := t.regs, rings := t.rings, marks := t.marks } ∧
      (t.ring r).state = .running ∧ (t.ring r).tokens = [] ∧ (t.ring r).fetched = [] ∧ (t.ring r).next = c.setWidth 32 ∧
      (∀ k, k ≠ r.val → t.ring k = s.ring k) ∧ regGet t .rkRPidx r = c ∧ regGet t .rkRDone r = c ∧
      regGet t .rkRLstamp r = 0 ∧ regGet t .rkRCidx r = c ∧ tget false t.marks (r.val / 64) = true ∧
      regGet t .rkRCfg r = regMerge (regRow .rkRCfg) (regGet s .rkRCfg r) (cfg.setWidth 64)

/-- EPOCH, SQBASE, CQBASE and CIDX of a ring that is not DISABLED keep their values, and a write that would change one sets
CFGERR; of a DISABLED ring they are written.  A write of RK_r_CFG to a ring that is not DISABLED keeps SIZE, with CFGERR where it
would change it, and sets the other fields; to a DISABLED ring with SIZE 0 it sets the register.  RK_r_MOD may be written at any
time (R411).  A write of a 64-bit register as one access ends what is staged or latched of it (R13, R16). -/
def ringSetupIsFrozen : Prop :=
  ∀ (r : Fin 8192) (v : W64) (s : State), s.live →
    (∀ e ∈ [(RingReg.epoch, RegName.rkREpoch), (.sqbase, .rkRSqbase), (.cqbase, .rkRCqbase), (.cidx, .rkRCidx)],
      s.serves e.2 r →
      let w := regMerge (regRow e.2) (regGet s e.2 r) v
      exec (.ringConfigWrite r e.1 v) s = .next (endStage (
        if (s.ring r).state = .disabled then regPut s e.2 r w
        else if w = regGet s e.2 r then s else regSetBits s .rkEvt 0 0x10) e.2 r)) ∧
    (s.serves .rkRCfg r →
      let old := regGet s .rkRCfg r
      let w := regMerge (regRow .rkRCfg) old v
      ((s.ring r).state ≠ .disabled → exec (.ringConfigWrite r .cfg v) s = .next
        (regPut (if fld w 0 5 = fld old 0 5 then s else regSetBits s .rkEvt 0 0x10) .rkRCfg r (putFld w 0 5 (fld old 0 5)))) ∧
      ((s.ring r).state = .disabled → fld w 0 5 = 0 → exec (.ringConfigWrite r .cfg v) s = .next (regPut s .rkRCfg r w))) ∧
    (s.serves .rkRMod r → exec (.ringConfigWrite r .mod v) s = .next
      (regPut s .rkRMod r (regMerge (regRow .rkRMod) (regGet s .rkRMod r) v)))

/-- A poll trigger starts a poll of all 128 groups, or merges into the one poll that follows the poll that runs; a timed
trigger comes INTV × 100 ns (50 ticks each) after the start of the last poll, and never with INTV 0 (R415, R417). -/
def pollStarts : Prop :=
  ∀ s : State, s.live → (∀ q ∈ s.link.out, q.sent = true) →
    let due := pollIntv s ≠ 0 ∧ s.poll.start + 50 * pollIntv s ≤ s.tick
    (∀ c ∈ [Instr.poll, .pollCommand, .pollIntervalExpiry],
      (c = .pollCommand → s.serves .rkCmd 0 ∧ (regGet s .rkCmdstat 0).getLsbD 0 = false) → (c = .pollIntervalExpiry → due) →
      (s.poll.running = true → exec c s = .next { s with poll := { s.poll with again := true } }) ∧
      (s.poll.running = false → ∃ t, exec c s = .next t ∧
        t = { s with poll := t.poll, link := t.link, regs := t.regs, reports := t.reports } ∧ t.link.tx = s.link.tx ∧
        t.poll.running = true ∧ t.poll.again = false ∧ t.poll.count = s.poll.count + 1 ∧ t.poll.start = s.tick ∧
        t.poll.groups = List.range 128 ∧ t.poll.doors = [])) ∧
    (¬ due → exec .pollIntervalExpiry s = .next s) ∧
    (s.serves .rkCmd 0 → (regGet s .rkCmdstat 0).getLsbD 0 = true → exec .pollCommand s = .next (regSetBits s .rkEvt 0 0x20))

/-- A group word that differs from the one recorded, or of a marked group, or in a sweep, brings the group's 64 doorbell words
into the poll and takes its mark away; any other brings none (R411, R415): here while another group of the poll is still to be read. -/
def groupWordSelectsDoorbells : Prop :=
  ∀ (g : Fin 128) (q : OutReq) (bs : List Byte) (f n k : Nat) (s : State), s.live → (∀ q ∈ s.link.out, q.sent = true) →
    s.poll.running = true →
    g.val ∈ s.poll.groups → k ∈ s.poll.groups → k ≠ g.val → findOut s (coversGroup g) = some q → q.kind = .groups f n →
    q.res = some (.data bs) →
    let w : W64 := w64 (leNat ((bs.drop (8 * (g.val - f))).take 8))
    let changed := w ≠ tget 0 s.groupSeen g ∨ tget false s.marks g = true ∨ s.poll.sweep = true
    ∃ t, exec (.groupWordReadDone g) s = .next t ∧
      t = { s with poll := t.poll, link := t.link, regs := t.regs, reports := t.reports, marks := t.marks } ∧ g.val ∉ t.poll.groups ∧
      k ∈ t.poll.groups ∧ tget false t.marks g = false ∧ (∀ i, i ≠ g.val → tget false t.marks i = tget false s.marks i) ∧
      t.poll.doors = (if changed then s.poll.doors ++ (List.range 64).map (· + 64 * g.val) else s.poll.doors)

/-- A doorbell word is accepted when its ring is RUNNING or STOPPED, its epoch is the ring's, PIDX is new and lies within the
ring; acceptance sets PIDX.  A word with the PIDX in force, or of a ring that is not live, changes nothing and sets no event; one
with another epoch sets STALEDB, and any other that is not accepted DBOVF (R416). -/
def doorbellWordIsChecked : Prop :=
  ∀ (r : Fin 8192) (q : OutReq) (bs : List Byte) (f n : Nat) (s : State), s.live → (∀ q ∈ s.link.out, q.sent = true) →
    s.poll.running = true →
    r.val ∈ s.poll.doors → findOut s (coversDoor r) = some q → q.kind = .doors f n → q.res = some (.data bs) →
    let w : W64 := w64 (leNat ((bs.drop (8 * (r.val - f))).take 8))
    let pidx : W32 := w.setWidth 32
    let old : W32 := (regGet s .rkRPidx r).setWidth 32
    let done : W32 := (regGet s .rkRDone r).setWidth 32
    let live := (s.ring r).state = .running ∨ (s.ring r).state = .stopped
    let epoch := (w >>> 32).setWidth 32 = (regGet s .rkREpoch r).setWidth 32
    let within := (pidx - old).toNat ≤ (pidx - done).toNat ∧ (pidx - done).toNat ≤ 2 ^ (fld (regGet s .rkRCfg r) 0 5 - 1)
    ∃ t, exec (.doorbellReadDone r) s = .next t ∧ t.rings = s.rings ∧ t.mem = s.mem ∧
      regGet t .rkRPidx r = (if live ∧ epoch ∧ pidx ≠ old ∧ within then pidx.setWidth 64 else regGet s .rkRPidx r) ∧
      regGet t .rkEvt 0 = regGet s .rkEvt 0 ||| (if live ∧ ¬ epoch then 2 else if live ∧ pidx ≠ old ∧ ¬ within then 1 else 0) ∧
      (∀ k : Fin 8192, k ≠ r → regGet t .rkRPidx k = regGet s .rkRPidx k)

/-- A fetch of a live ring asks for the descriptors that are available, at most 8, from the slot of the next one, in requests
of at most Max_Read_Request_Size each; their completions add them to the ring's fetched descriptors, and a failed one adds the
first alone, which stands for the failure (R400, R420). -/
def descriptorsAreFetched : Prop :=
  ∀ (r : Fin 8192) (s : State), s.live → (s.ring r).state = .running ∨ (s.ring r).state = .stopped →
    let x := s.ring r
    let n := fetchCount s r
    let a := regGet s .rkRSqbase r + w64 (64 * (x.next.toNat % 2 ^ (fld (regGet s .rkRCfg r) 0 5 - 1)))
    (0 < n → s.link.rate ≠ 0 → s.link.mayIssue = true → (s.die 0).doze = false → bootHolds s = false → s.link.out = [] → 64 ≤ s.link.mrrs →
      n ≤ 8 ∧ (∃ t, exec (.descriptorFetch r) s = .next t ∧ t = { s with link := t.link } ∧ (t.link.out.map (·.len)).sum = 64 * n ∧
        (∀ q ∈ t.link.out, q.kind = .fetch r x.next n ∧ q.len ≤ s.link.mrrs ∧ q.sent = true) ∧ t.link.tx = s.link.tx) ∧
      (64 * n ≤ s.link.mrrs → a.toNat % 4096 + 64 * n ≤ 4096 → exec (.descriptorFetch r) s = .next { s with link :=
        { s.link with nextId := s.link.nextId + 1, out :=
          [{ id := s.link.nextId, kind := .fetch r x.next n, sent := true, len := 64 * n, addr := a }] } })) ∧
    (∀ (q : OutReq) (q0 : W32) (m : Nat) (bs : List Byte), s.link.out = [q] → q.kind = .fetch r q0 m → q.len = 64 * m →
      bs.length = q.len → q.res = some (.data bs) →
      exec (.descriptorFetchDone r) s = .next (({ s with link := { s.link with out := [] } } : State).setRing r
        { x with next := q0 + w32 m, fetched := x.fetched ++
          (List.range m).map (fun i => { seqNo := q0 + w32 i, bytes := (bs.drop (64 * i)).take 64 }) })) ∧
    (∀ (q : OutReq) (q0 : W32) (m code : Nat), s.link.out = [q] → q.kind = .fetch r q0 m →
      q.res = some (.fail code) → exec (.descriptorFetchDone r) s = .next (({ s with link := { s.link with out := [] } } : State).setRing r
        { x with next := q0 + 1, fetched := x.fetched ++ [{ seqNo := q0, fail := some (1 + 16 * code, q.addr) }] }))

/-- The descriptor at the head of a running ring (R420, R421, R423): a malformed one completes with status 0x20 and the DETAIL
of its check, and the ring stops.  A well-formed one whose launch condition finds no token waits; else it takes its token, whose
stamp is then LSTAMP, and starts, which moves CIDX past it (R422): a NOP, a FENCE, a HANDOVER without entries or an object descriptor
without words and OP completes with status 0, another is started and not yet complete.  A MOVE starts on the engine that its ring
has, a JOB once it holds its cores; a JOB that too few cores in service can serve completes with status 0x40 and DETAIL 5 (R524). -/
def descriptorStart : Prop :=
  ∀ (r : Fin 8192) (e : Desc) (rest : List Desc) (s : State), s.live → recovering s = false → (s.ring r).state = .running →
    (s.ring r).checked = false → (s.ring r).fetched = e :: rest → e.fail = none → (s.ring r).started = [] →
    let ended := fun (t : State) (status detail : Nat) => ∃ d o a b, (t.ring r).started = [d] ∧ d.seqNo = e.seqNo ∧
      d.bytes = e.bytes ∧ d.done = some (o, a, b) ∧ o.status = status ∧ o.detail = detail
    let begun := fun (t : State) => ∃ d, (t.ring r).started = [d] ∧ d.seqNo = e.seqNo ∧ d.bytes = e.bytes ∧ d.done = none
    let ty := dType e.bytes
    let entryless := ty = 3 ∨ ty = 9 ∨ (ty = 4 ∧ dByte e.bytes 2 = 0) ∨ (5 ≤ ty ∧ ty ≤ 8 ∧ oMask e.bytes = 0 ∧ oOp e.bytes = 0)
    (∀ k, descBad s r e.bytes = some k → ∃ t, exec (.descriptorStart r) s = .next t ∧ (t.ring r).fetched = rest ∧
      (t.ring r).tokens = (s.ring r).tokens ∧ (t.ring r).state = .stopped ∧ ended t 0x20 k ∧
      regGet t .rkRCidx r = (e.seqNo + 1).setWidth 64) ∧
    (descBad s r e.bytes = none → jobsOff s = false →
      let takes := dLcond e.bytes = 2 ∨ (dLcond e.bytes = 3 ∧ (s.ring r).used = false)
      (takes → (s.ring r).tokens = [] →
        exec (.descriptorStart r) s = .next (s.setRing r { s.ring r with checked := true })) ∧
      (¬ takes ∨ (s.ring r).tokens ≠ [] →
        let wants := (ty = 1 ∧ jobUnservable s e.bytes = false ∧ jobHolds s (jobId r e.seqNo) e.bytes = false) ∨
          (ty = 2 ∧ (s.ring r).engine = none)
        (wants → ∃ t, exec (.descriptorStart r) s = .next t ∧ (t.ring r).fetched = e :: rest ∧ (t.ring r).started = [] ∧
          (t.ring r).metAt.isSome = true ∧ (t.ring r).tokens = (s.ring r).tokens ∧ regGet t .rkRCidx r = regGet s .rkRCidx r) ∧
        (¬ wants → ∃ t, exec (.descriptorStart r) s = .next t ∧ (t.ring r).fetched = rest ∧
          (t.ring r).tokens = (if takes then (s.ring r).tokens.drop 1 else (s.ring r).tokens) ∧
          regGet t .rkRLstamp r = (if takes then ((s.ring r).tokens.headD { stamp := 0, axis := 0 }).stamp else regGet s .rkRLstamp r) ∧
          regGet t .rkRCidx r = (e.seqNo + 1).setWidth 64 ∧ (entryless → (t.ring r).state = .running ∧ ended t 0 0) ∧
          (ty = 1 → jobUnservable s e.bytes = true → ended t 0x40 5) ∧
          (ty = 1 → jobUnservable s e.bytes = false → begun t ∧ (t.job (jobId r e.seqNo)).bytes = e.bytes ∧
            (t.job (jobId r e.seqNo)).running = false) ∧
          (ty = 2 → begun t ∧ ∀ k, (s.ring r).engine = some k →
            t.engine k = { busy := true, ring := r, seqNo := e.seqNo }) ∧
          (3 < ty → ¬ entryless → begun t))))

/-- The token of an alarm joins the queue of a ring that is RUNNING or STOPPED and holds fewer than 16 tokens; else it is
dropped and sets TOKOVF (R422, R451).  Tokens for one ring that come before it arrive first (R449). -/
def launchTokens : Prop :=
  ∀ (n : Fin 2048) (s : State), s.live →
    let arrive := fun (t : State) (a : Action) =>
      let r := fld a.word 0 13
      let x := t.ring r
      let u := { t with actions := t.actions.erase a }
      if (x.state = .running ∨ x.state = .stopped) ∧ x.tokens.length < 16 then
        u.setRing r { x with tokens := x.tokens ++ [{ stamp := a.stamp, axis := a.axis }] }
      else regSetBits u .rkEvt 0 4
    exec (.launchToken n) s = .next ((dueActions s n .ring (fun a => fld a.word 0 13)).foldl arrive s) ∧
    (∀ a, dueAction s n .ring = some a → a ∈ dueActions s n .ring (fun a => fld a.word 0 13) ∧
      ∀ b ∈ dueActions s n .ring (fun a => fld a.word 0 13), b.due ≤ s.tick ∧ fld b.word 0 13 = fld a.word 0 13)

/-- A free core, and a free MOVE engine, goes to the job or ring that the order of R424 puts first; nothing else changes, and a
core that is not free is given to none. -/
def reservationOrder : Prop :=
  ∀ (n : Fin 64) (e : Fin 16) (s : State), s.live → jobsOff s = false →
    (∀ j, coreFree s n = true →
      (assignCores s (rerunWaiters s ++ waiters s 1) ((List.range 64).filter (coreFree s))).find? (fun p => p.1 == n.val) = some (n.val, j) →
      exec (.coreReserve (.core n)) s = .next (s.setCore n { s.core n with reserved := some j })) ∧
    (coreFree s n = false → exec (.coreReserve (.core n)) s = .next s) ∧
    (∀ r q d, (s.engine e).busy = false → (waiters s 2).find? (fun w => (s.ring w.1).engine.isNone) = some (r, q, d) →
      exec (.coreReserve (.engine e)) s = .next
        ((s.setRing r { s.ring r with engine := some e.val }).setEngine e { busy := true, claim := true, ring := r, seqNo := q }))

/-- All cores of a JOB start together, in the state of Table 16.12 (R425, R426): at ENTRY, at level S, with the arguments in g1
to g5, its rank in JOBID, and its pending interrupts clear. -/
def jobStartsItsCores : Prop :=
  ∀ (r : Fin 8192) (q : W32) (s : State), s.live → jobsOff s = false →
    let j := jobId r q
    let d := (s.job j).bytes
    let cores := (List.range 64).filter (fun n => (s.core n).reserved == some j && (jSet d).contains n)
    d ≠ [] → (s.job j).running = false → jPair d = false → jobUnservable s d = false → jobHolds s j d = true →
    (∀ n ∈ cores, coreReady s n = true ∧ (s.core n).haltPend = false) →
    ∃ t, exec (.jobStart r q) s = .next t ∧ (t.job j).running = true ∧ (t.job j).cores = cores ∧
      ∀ k n, cores[k]? = some n →
        (t.core n).pc = w64 (jEntry d) ∧ (t.core n).job = some j ∧ (t.core n).rank = k ∧ (t.core n).ended = false ∧
        (t.core n).jobid = w64 (k + (cores.length - 1) * 256) ∧ (t.core n).status = 0 ∧ (t.core n).evec = 0 ∧
        (∀ i, i < 4 → tget 0 (t.core n).g (i + 1) = jArg d i) ∧ tget 0 (t.core n).g 5 = w64 (jPblk d) ∧
        (t.core n).sb = [] ∧ (t.core n).viq = [] ∧ regGet t .rowIpend n = 0

/-- The launch stamp of a running job goes to the 8 bytes at PBLK, once (R454): here where PBLK is an aligned address of a bay
that is ON and that the row owns.  With PBLK 0 nothing is written. -/
def launchStampIsWritten : Prop :=
  ∀ (r : Fin 8192) (q : Launched) (n : Nat) (rest : List Nat) (s : State), s.live →
    let j := jobId r q.seqNo
    let x := s.job j
    let a := jPblk x.bytes
    x.running = true → x.stamped = false → x.cores = n :: rest → n < 64 → (s.core n).partner = false →
    (a = 0 → exec (.launchStampWrite r q) s = .next (s.setJob j { x with stamped := true })) ∧
    (0 < a → a < 2 ^ 28 → a % 8 = 0 → bayOn s (a / 2 ^ 22) = true → (s.bay (a / 2 ^ 22)).force = n / 8 → s.poison = [] →
      bridgeHolds s (n / 8) a 8 = false → exec (.launchStampWrite r q) s = .next
        (({ s with mem := bytesPut s.mem a (leBytes x.stamp.toNat 8) } : State).setJob j { x with stamped := true }))

/-- A job completes once every rank has ended and every write of it is visible (R427); its record says the status and the
digest of its ranks (R433), and its cores are free.  Here a job that nothing has ended from outside, without PAIR. -/
def jobCompletes : Prop :=
  ∀ (r : Fin 8192) (q : W32) (e : Started) (s : State), s.live →
    let j := jobId r q
    let x := s.job j
    x.ring = r.val → x.seqNo = q → x.running = true → x.err = none → x.abort = none → x.fail = none → x.rerun = none →
    jPair x.bytes = false → x.partners = [] → (∀ k, k < x.cores.length → (rankOf x.ranks k).ended = true) →
    (∀ n ∈ x.cores, (s.core n).sb = [] ∧ (s.core n).wq = [] ∧ ownComing s n = false ∧ (s.core n).stopDue = none) →
    (s.ring r).started = [e] → e.seqNo = q → e.stale = false →
    e.done = none →
    ∃ t o a b, exec (.jobComplete r q) s = .next t ∧ t.job j = {} ∧
      (∀ n, n < 64 → (t.core n).reserved ≠ some j) ∧ (t.ring r).started = [{ e with done := some (o, a, b) }] ∧
      o.status = 0 ∧ o.detail = 0 ∧ o.taint = (ranksList x.ranks x.cores.length).any (·.taint) ∧
      b.length = 32 ∧ b.take 8 = leBytes (if jDigest x.bytes then digestOf (ranksList x.ranks x.cores.length) else 0).toNat 8 ∧
      t.mem = s.mem

/-- A chunk of a MOVE is read completely and then written, in ascending order (R428): here a chunk inside one 64-byte block of a
source and of a destination; in device memory in bays that the Racking Engine owns, in host memory by a read request, whose data
are then written, or by a posted write.  A MOVE whose bytes are all moved completes with status 0 and frees its engine. -/
def moveCopies : Prop :=
  ∀ (e : Fin 16) (st : Started) (s : State), s.live →
    let x := s.engine e
    let d := st.bytes
    let src := mvSrc d + x.pos
    let dst := mvDst d + x.pos
    let n := mvLen d - x.pos
    x.busy = true → x.claim = false → x.err = none → findStarted s x.ring x.seqNo = some st → st.done = none →
    bridgeDown s = false → (s.ring x.ring).state ≠ .resetting →
    (mvSrch d = false → mvDsth d = false → 0 < n → src % 64 + n ≤ 64 → dst % 64 + n ≤ 64 → src < 2 ^ 28 → dst < 2 ^ 28 →
      bayOn s (src / 2 ^ 22) = true → bayOn s (dst / 2 ^ 22) = true → (s.bay (src / 2 ^ 22)).force = 8 →
      (s.bay (dst / 2 ^ 22)).force = 8 → s.poison = [] →
      exec (.moveChunk e .clean .clean) s = .next (({ s with mem := bytesPut s.mem dst (bytesGet s.mem src n) } : State).setEngine e
        { x with pos := x.pos + n, wait := false })) ∧
    (0 < n → src % 64 + n ≤ 64 → dst % 64 + n ≤ 64 → s.link.rate ≠ 0 → s.link.mayIssue = true → (s.die 0).doze = false →
      bootHolds s = false → s.link.posted = none → 64 ≤ s.link.mrrs → 64 ≤ s.link.mps → s.poison = [] →
      (mvSrch d = false → mvDsth d = true → s.link.out = [] → src < 2 ^ 28 → bayOn s (src / 2 ^ 22) = true →
        (s.bay (src / 2 ^ 22)).force = 8 → ∃ t, exec (.moveChunk e .clean .clean) s = .next t ∧
          t = { s with engines := t.engines, link := t.link } ∧ t.engine e = { x with pos := x.pos + n, wait := false } ∧
          t.link.tx = s.link.tx ++ [{ addr := w64 dst, data := bytesGet s.mem src n }]) ∧
      (mvSrch d = true → mvDsth d = false → s.link.out = [] → exec (.moveChunk e .clean .clean) s = .next
        (({ s with link := { s.link with nextId := s.link.nextId + 1, out :=
          [{ id := s.link.nextId, kind := .moveRead e, sent := true, len := n, addr := w64 src }] } } : State).setEngine e
          { x with wait := true })) ∧
      (∀ (q : OutReq) (bs : List Byte), mvSrch d = true → mvDsth d = false → s.link.out = [q] → q.kind = .moveRead e →
        q.res = some (.data bs) → bs.length = n → dst < 2 ^ 28 → bayOn s (dst / 2 ^ 22) = true →
        (s.bay (dst / 2 ^ 22)).force = 8 → exec (.moveChunk e .clean .clean) s = .next
          (({ s with link := { s.link with out := [] }, mem := bytesPut s.mem dst bs } : State).setEngine e
            { x with pos := x.pos + n, wait := false }))) ∧
    (mvLen d ≤ x.pos → (∀ q ∈ s.link.out, q.kind ≠ .moveData e) → ∃ t, exec (.moveComplete e) s = .next t ∧
      t.engine e = {} ∧ t.mem = s.mem ∧ ∃ d' o a b, findStarted t x.ring x.seqNo = some d' ∧ d'.done = some (o, a, b) ∧
        o.status = 0 ∧ b.length = 32)

/-- A HANDOVER makes its entries' ownership writes in order, waits until each is in force, and completes with status 0 after
the last; an entry that is rejected ends it with status 0x20 and DETAIL 0x80 + 32 RES + e (R429, R344). -/
def handoverMakesItsEntries : Prop :=
  ∀ (r : Fin 8192) (e : Started) (s : State), s.live → (s.ring r).started = [e] → e.stale = false → e.done = none →
    dType e.bytes = 4 →
    (s.ring r).state ≠ .resetting →
    let w := dWord e.bytes (8 + 2 * e.prog) 2
    let b := w % 64
    let x := s.bay b
    let res := ownResult x.owner (overtaken s b) (w / 64 % 16) (w / 1024 % 16) .handover
    (e.busy = false → res = 0 → exec (.handover r) s = .next
      ((s.setBay b { x with owner := w / 64 % 16, coming := x.coming ++ [(w / 64 % 16, none)], res := 0, passed := some (x.owner, s.tick) }).setRing r
        { s.ring r with started := [{ e with busy := true }] })) ∧
    (e.busy = false → res ≠ 0 → ∃ t o a k, exec (.handover r) s = .next t ∧ (t.bay b).owner = x.owner ∧
      (t.ring r).started = [{ e with done := some (o, a, k) }] ∧ o.status = 0x20 ∧ o.detail = 0x80 + res * 32 + e.prog) ∧
    (e.busy = true → x.coming = [] → e.prog + 1 < dByte e.bytes 2 → exec (.handover r) s = .next
      (s.setRing r { s.ring r with started := [{ e with prog := e.prog + 1, busy := false }] })) ∧
    (e.busy = true → x.coming = [] → dByte e.bytes 2 ≤ e.prog + 1 → ∃ t o a k, exec (.handover r) s = .next t ∧
      (t.ring r).started = [{ e with prog := e.prog + 1, busy := false, done := some (o, a, k) }] ∧ o.status = 0 ∧ t.bays = s.bays)

/-- An object descriptor applies its words and its operation in one step, once its object can take them, and completes with
status 0 (R430): an alarm that is disarmed, or is not ACTIVE, takes every word of its window (R445); a timer stops, starts or is
reset; a channel takes its words while it holds no frame or message, is enabled after them, and refuses words that would leave an
enabled channel invalid, with status 0x20 and DETAIL 8 (R519); OP 2 disables an egress channel at once.  A WAIT completes with status 0 when its ring holds the epoch and has passed WSEQ, with 0x20 and DETAIL 0x0A
when the ring does not hold the epoch, and waits otherwise (R432). -/
def objectsAndWaits : Prop :=
  ∀ (r : Fin 8192) (e : Started) (s : State), s.live → (s.ring r).started = [e] → e.stale = false → e.done = none →
    bridgeDown s = false →
    let w := dWord e.bytes 2 2 % 8192
    let holds := ((s.ring w).state = .running ∨ (s.ring w).state = .stopped) ∧
      (regGet s .rkREpoch w).setWidth 32 = w32 (dWord e.bytes 8 4)
    let passed := 0 ≤ ((regGet s .rkRDone w).setWidth 32 - w32 (dWord e.bytes 4 4)).toInt
    let ended := fun (t : State) (status detail : Nat) => ∃ o a b, (t.ring r).started = [{ e with done := some (o, a, b) }] ∧
      o.status = status ∧ o.detail = detail
    let n := oObj e.bytes
    let awake := (s.die (objDie e.bytes)).doze = false
    (dType e.bytes = 5 → oOp e.bytes = 2 → oMask e.bytes = 0 → (s.alarm (oObj e.bytes)).mark = none → awake →
      ∃ t, exec (.objectDescriptor r) s = .next t ∧ ended t 0 0 ∧
        t.alarm (oObj e.bytes) = { s.alarm (oObj e.bytes) with state := .idle } ∧
        ∀ k, k ≠ oObj e.bytes → t.alarm k = s.alarm k) ∧
    (dType e.bytes = 5 → (s.alarm n).mark = none → awake → oOp e.bytes = 2 ∨ (oOp e.bytes = 0 ∧ (s.alarm n).state ≠ .active) →
      ∀ p ∈ [(0, RegName.alCfg, 0), (1, .alHyst, 0), (2, .alTarget, 0), (3, .alTarget, 32), (4, .alIntv, 0), (5, .alIntv, 32),
          (6, .alRoute, 0), (7, .alPin, 0), (8, .alCore, 0), (9, .alSlog, 0), (10, .alSbase, 0), (11, .alSbase, 32)],
        oMask e.bytes = 2 ^ p.1 → ∃ t, exec (.objectDescriptor r) s = .next t ∧ ended t 0 0 ∧
          regGet t p.2.1 n = putFld (regGet s p.2.1 n) p.2.2 32 (dWord e.bytes (16 + 4 * p.1) 4)) ∧
    (dType e.bytes = 6 → awake → oMask e.bytes = 0 → tmCompat s n = false → ∃ t, exec (.objectDescriptor r) s = .next t ∧
      ended t 0 0 ∧ t.mem = s.mem ∧ (oOp e.bytes = 1 ∨ oOp e.bytes = 3 → (t.timer n).run = true) ∧
      (oOp e.bytes = 2 → (t.timer n).run = false) ∧ (oOp e.bytes = 4 → (t.timer n).pscnt = 0 ∧ (t.timer n).down = false)) ∧
    (dType e.bytes = 7 ∨ (dType e.bytes = 8 ∧ e.at_ + (if objDie e.bytes = 0 then 32 else 80) ≤ s.tick) → awake →
      oOp e.bytes = 1 → e.arrived = false → e.refused = false → objReady s e.bytes = true →
      let m := if dType e.bytes = 7 then (s.egress n).owed else (tget {} s.ingests n : Ingest).owed
      m = [] → ∃ t, exec (.objectDescriptor r) s = .next t ∧ t.mem = s.mem ∧ ∃ d o a b, (t.ring r).started = [d] ∧
        d.bytes = e.bytes ∧ d.done = some (o, a, b) ∧
        (chanBad s e.bytes = true → o.status = 0x20 ∧ o.detail = 8 ∧
          ∀ q ∈ [RegName.vglEgCfg, .vglEgLen, .vglEgSrc, .vglEgStat, .vglInCfg, .vglInNslot, .vglInBase, .vglInOrigin, .vglInPitch,
            .vglInSlotsz, .vglInStat], regGet t q n = regGet s q n) ∧
        (chanBad s e.bytes = false → o.status = 0 ∧
          (regGet t (if dType e.bytes = 7 then .vglEgStat else .vglInStat) n).getLsbD 0 = true ∧
          (dType e.bytes = 7 → ∀ p ∈ [(0, RegName.vglEgCfg, 0), (1, .vglEgLen, 0), (2, .vglEgSrc, 0), (3, .vglEgSrc, 32)],
            oMask e.bytes = 2 ^ p.1 → regGet t p.2.1 n = putFld (regGet s p.2.1 n) p.2.2 32 (dWord e.bytes (16 + 4 * p.1) 4)))) ∧
    (dType e.bytes = 7 → oOp e.bytes = 2 → oMask e.bytes = 0 → e.arrived = false → e.refused = false → awake →
      ∃ t, exec (.objectDescriptor r) s = .next t ∧ (regGet t .vglEgStat n).getLsbD 0 = false ∧ t.mem = s.mem ∧
        ((s.egress n).state = .free → (s.egress n).owed = [] → ∃ o a b, o.status = 0 ∧
          (t.ring r).started = [{ e with arrived := true, done := some (o, a, b) }]) ∧
        ((s.egress n).state ≠ .free → (t.ring r).started = [{ e with arrived := true }] ∧
          (t.egress n).owed = (s.egress n).owed ++ [⟨r, e.seqNo, e.bytes⟩])) ∧
    (dType e.bytes = 10 → holds → passed → ∃ t, exec (.wait r) s = .next t ∧ ended t 0 0) ∧
    (dType e.bytes = 10 → ¬ holds → ∃ t, exec (.wait r) s = .next t ∧ ended t 0x20 0x0A) ∧
    (dType e.bytes = 10 → holds → ¬ passed → exec (.wait r) s = .next s)

/-- The record of a completed descriptor is one posted write of 32 bytes to its slot; with IRQEN it counts for moderation, and
IRQ or the MODCNT-th pending record asks for a message on VEC (R433, R437). -/
def recordsAndModeration : Prop :=
  ∀ (r : Fin 8192) (e : Started) (o : Outcome) (a : W64) (b : List Byte) (s : State), s.live → s.power.rkDead = false →
    (s.ring r).started = [e] → e.issued = false → e.stale = false → e.done = some (o, a, b) → s.link.rate ≠ 0 →
    s.link.mayIssue = true → s.link.posted = none → (s.die 0).doze = false → bootHolds s = false → s.link.out = [] →
    let x := s.ring r
    let irq := decide (e.bytes.getD 1 0 &&& 4 ≠ 0)
    let full := decide (max 1 (fld (regGet s .rkRMod r) 0 8) ≤ x.pend + 1)
    ∃ t, exec (.completionRecord r e.seqNo) s = .next t ∧ t.link.tx = s.link.tx ++ [{ addr := a, data := b }] ∧
      (t.ring r).started = [] ∧ regGet t .rkRDone r = ((regGet s .rkRCidx r).setWidth 32 : W32).setWidth 64 ∧
      t.mem = s.mem ∧ (∀ k, k ≠ r.val → t.ring k = s.ring k) ∧
      (ringIrqen s r = false → t.msixReq = s.msixReq ∧ (t.ring r).pend = x.pend) ∧
      (ringIrqen s r = true → irq || full → t.msixReq = s.msixReq ++ [s.msixMsg (ringVec s r)] ∧ (t.ring r).pend = 0) ∧
      (ringIrqen s r = true → !(irq || full) → t.msixReq = s.msixReq ∧ (t.ring r).pend = x.pend + 1)

/-- MODTIME (R437): the oldest pending record has waited its µs (500 ticks each). -/
def moderationTimeout : Prop :=
  ∀ (r : Fin 8192) (s : State), s.live → ringIrqen s r = true → 0 < fld (regGet s .rkRMod r) 8 16 → (s.ring r).pend ≠ 0 →
    (s.ring r).since + 500 * fld (regGet s .rkRMod r) 8 16 ≤ s.tick →
    exec (.moderationTimeout r) s = .next (({ s with msixReq := s.msixReq ++ [s.msixMsg (ringVec s r)] } : State).setRing r { s.ring r with pend := 0 })

/-- Commands of RK_CMD (R438): a RESET waits for the chunk in progress of a MOVE of its ring, which is RESETTING and BUSY till then; it leaves its ring DISABLED with SIZE 0, no tokens and no fetched descriptor, CIDX as it was
and DONE equal to it; a RESUME of a STOPPED ring sets it RUNNING; while BUSY is 1 for another ring a command is ignored and
sets CMDREJ.  RK_LOGCLR clears the stop log (R441). -/
def ringCommands : Prop :=
  ∀ (r : Fin 8192) (v : W32) (s : State), s.live → s.serves .rkCmd 0 →
    let busy := (regGet s .rkCmdstat 0).getLsbD 0
    (busy = false ∨ (s.ring r).state = .resetting → (s.ring r).started = [] → chunkOpen s r = false →
      (∀ k ∈ tkeys s.rings, k ≠ r.val → ∀ e, activeOf s k (· == 10) = some e → dWord e.bytes 2 2 % 8192 ≠ r) →
      ∃ t, exec (.ringReset r) s = .next t ∧ (t.ring r).state = .disabled ∧ (t.ring r).tokens = [] ∧ (t.ring r).fetched = [] ∧
        (∀ k, k ≠ r.val → t.ring k = s.ring k) ∧ regGet t .rkRCidx r = regGet s .rkRCidx r ∧
        regGet t .rkRDone r = regGet s .rkRCidx r ∧ fld (regGet t .rkRCfg r) 0 5 = 0 ∧ t.mem = s.mem) ∧
    (busy = false ∨ (s.ring r).state = .resetting → chunkOpen s r = true → (s.ring r).engine = none →
      (∀ e ∈ (s.ring r).started, dType e.bytes ≠ 1) →
      (∀ k ∈ tkeys s.rings, k ≠ r.val → ∀ e, activeOf s k (· == 10) = some e → dWord e.bytes 2 2 % 8192 ≠ r) → ∃ t, exec (.ringReset r) s = .next t ∧
      (t.ring r).state = .resetting ∧ (t.ring r).started = (s.ring r).started ∧ t.engines = s.engines ∧ (regGet t .rkCmdstat 0).getLsbD 0 = true) ∧
    (busy = false → (s.ring r).state ≠ .resetting → chunkOpen s r = false → ∀ (k : Fin 8192) (e : Started), k ≠ r → (s.ring k).started = [e] → e.stale = false →
      e.done = none → dType e.bytes = 10 → dWord e.bytes 2 2 % 8192 = r.val →
      ∃ t o a b, exec (.ringReset r) s = .next t ∧ (t.ring k).started = [{ e with done := some (o, a, b) }] ∧
        o.status = 0x20 ∧ o.detail = 0x0A) ∧
    (busy = true → (s.ring r).state ≠ .resetting → exec (.ringReset r) s = .next (regSetBits s .rkEvt 0 0x20)) ∧
    (busy = true → exec (.ringResume r) s = .next (regSetBits s .rkEvt 0 0x20)) ∧
    (busy = false → (s.ring r).state = .stopped →
      exec (.ringResume r) s = .next (s.setRing r { s.ring r with state := .running })) ∧
    (busy = false → (s.ring r).state ≠ .stopped → exec (.ringResume r) s = .next s) ∧
    (s.serves .rkLogclr 0 → exec (.rkLogclr v) s = .next (if v.getLsbD 0 then regPut s .rkStoplog 0 0 else s))

/-! ## Axis alarms (chapter 17) -/

/-- ARM sets an alarm ACTIVE at its target with k = 0 and every arming flag clear, whatever its state, when DIR and INTV form a
combination of R444; else it sets CFGERR and leaves the state.  DISARM sets IDLE (R443, R444). -/
def alarmArmAndDisarm : Prop :=
  ∀ (n : Fin 2048) (s : State), s.live → s.serves .alCtrl n → (s.alarm n).mark = none →
    let a := s.alarm n
    let dir := fld (regGet s .alCfg n) 5 2
    let i := (regGet s .alIntv n).toInt
    let legal := (dir = 0 ∧ 0 ≤ i) ∨ (dir = 1 ∧ i ≤ 0) ∨ (dir = 2 ∧ i = 0)
    (legal → exec (.alarmArm n) s = .next (s.setAlarm n { a with
      state := .active, k := 0, next := regGet s .alTarget n, armf := false, armb := false, first := true, pend := false })) ∧
    (¬ legal → exec (.alarmArm n) s = .next
      (regSetBits (regSetBits s .alStat n 0x400) .alEvt (n.val / 1024) 2)) ∧
    exec (.alarmDisarm n) s = .next (s.setAlarm n { a with state := .idle })

/-- While an alarm is ACTIVE, writes of CFG, HYST, TARGET and INTV are ignored and set CFGERR; the routing words may be written in
any state (R445).  A write of a 64-bit register as one access ends what is staged or latched of it (R13, R16). -/
def alarmSetupIsFrozen : Prop :=
  ∀ (n : Fin 2048) (v : W64) (s : State), s.live → (s.alarm n).mark = none →
    (∀ e ∈ [(AlarmReg.cfg, RegName.alCfg), (.hyst, .alHyst), (.target, .alTarget), (.intv, .alIntv)], s.serves e.2 n →
      exec (.alarmConfigWrite n e.1 v) s = .next (endStage (
        if (s.alarm n).state = .active then regSetBits (regSetBits s .alStat n 0x400) .alEvt (n.val / 1024) 2
        else regPut s e.2 n (regMerge (regRow e.2) (regGet s e.2 n) v)) e.2 n)) ∧
    (∀ e ∈ [(AlarmReg.route, RegName.alRoute), (.pin, .alPin), (.core, .alCore), (.slog, .alSlog), (.sbase, .alSbase)],
      s.serves e.2 n → exec (.alarmConfigWrite n e.1 v) s = .next
        (endStage (regPut s e.2 n (regMerge (regRow e.2) (regGet s e.2 n) v)) e.2 n))

/-- The crossing test of an ACTIVE alarm in one tick (R446 to R448): held while its axis is not RUN; it fires only when it is
armed for a direction and the target is reached in it; else it arms when the axis is more than H away.  A forced firing of
PASTF counts as armed and late. -/
def alarmCrossingTest : Prop :=
  ∀ (n : Nat) (s : State), (s.alarm n).state = .active →
    let a := s.alarm n
    let v := busVal s (n / 1024) (fld (regGet s .alCfg n) 0 5)
    let dir := fld (regGet s .alCfg n) 5 2
    let d := (v.value - a.next).toInt
    let h : Int := (regGet s .alHyst n).toNat
    let past := a.first = true ∧ (regGet s .alCfg n).getLsbD 7 = true ∧ dir ≠ 2 ∧ ((dir ≠ 1 ∧ 0 ≤ d) ∨ (dir ≠ 0 ∧ d ≤ 0))
    let up := dir ≠ 1 ∧ (a.armf = true ∨ past) ∧ 0 ≤ d
    let down := dir ≠ 0 ∧ (a.armb = true ∨ past) ∧ d ≤ 0
    let t := alarmTest s n
    (v.state ≠ .run → t = s.setAlarm n { a with held := true }) ∧
    (v.state = .run → t = { s with alarms := t.alarms } ∧ (∀ k, k ≠ n → t.alarm k = s.alarm k) ∧
      (t.alarm n).held = false ∧ (t.alarm n).first = false ∧ (t.alarm n).k = a.k ∧ (t.alarm n).next = a.next ∧
      (up ∨ down → ∃ m, (t.alarm n).mark = some m ∧ m.obs = v.value ∧ (m.fwd = true ↔ up) ∧
        (m.late = true ↔ past ∨ a.pend = true ∨ v.jump = true ∨ (s.die (n / 1024)).woke = true)) ∧
      (¬ (up ∨ down) → (t.alarm n).mark = a.mark ∧ (t.alarm n).pend = false ∧
        ((t.alarm n).armf = true ↔ a.armf = true ∨ (dir ≠ 1 ∧ d < -h)) ∧
        ((t.alarm n).armb = true ↔ a.armb = true ∨ (dir ≠ 0 ∧ h < d))))

/-- A firing (R446): it sets FIRED, takes the observed value, counts k, and moves the target by INTV; without INTV a FWD or BWD
alarm is DONE, and a BOTH alarm clears its arming flags.  A late one sets LATE and counts (R447).  It adds the actions that
CFG.ACT enables, pins four ticks later, timers at the first TMRCLK edge from then on, the others at f + 40 (Table 17.3); memory is
untouched. -/
def alarmFires : Prop :=
  ∀ (n : Fin 2048) (m : Firing) (s : State), s.live → (s.alarm n).mark = some m → s.actions = [] →
    let a := s.alarm n
    let dir := fld (regGet s .alCfg n) 5 2
    let i := regGet s .alIntv n
    ∃ t, exec (.alarmFiring n) s = .next t ∧ (∀ k, k ≠ n.val → t.alarm k = s.alarm k) ∧ t.mem = s.mem ∧ t.rings = s.rings ∧
      (t.alarm n).mark = none ∧ (t.alarm n).obs = m.obs ∧ (t.alarm n).k = a.k + 1 ∧
      (dir = 2 → (t.alarm n).state = a.state ∧ (t.alarm n).armf = false ∧ (t.alarm n).armb = false ∧ (t.alarm n).next = a.next) ∧
      (dir ≠ 2 → i = 0 → (t.alarm n).state = .done ∧ (t.alarm n).next = a.next) ∧
      (dir ≠ 2 → i ≠ 0 → (t.alarm n).state = a.state ∧ (t.alarm n).next = a.next + i ∧
        ((t.alarm n).pend = true ↔ if dir = 0 then 0 ≤ (m.obs - (a.next + i)).toInt else (m.obs - (a.next + i)).toInt ≤ 0)) ∧
      (regGet t .alStat n).getLsbD 8 = true ∧
      (m.late = true → (regGet t .alStat n).getLsbD 9 = true ∧
        regGet t .alLatecnt n = w64 (min ((regGet s .alLatecnt n).toNat + 1) 0xFFFFFFFF)) ∧
      (m.late = false → regGet t .alLatecnt n = regGet s .alLatecnt n) ∧
      (∀ x ∈ t.actions, x.alarm = n ∧ x.stamp = a.next ∧ x.k = a.k ∧
        (x.kind = .pin → x.due = s.tick + 4) ∧ (x.kind = .timer → x.due = (s.tick + 5) / 2 * 2) ∧
        (x.kind ≠ .pin → x.kind ≠ .timer → x.due = s.tick + 40)) ∧
      (∀ e ∈ [(0, ActKind.ring), (1, .pin), (2, .timer), (3, .egress), (4, .core), (5, .stamp), (6, .poll)],
        ((∃ x ∈ t.actions, x.kind = e.2) ↔ (regGet s .alCfg n).getLsbD (8 + e.1) = true))

/-- A pin action on its latch (R450): a pulse of PW ticks or a set makes it 1, a clear 0, a toggle inverts it; a pulse with
PW = 0 does nothing.  The end of a pulse makes it 0.  Here where no other action meets the pin in that tick. -/
def pinActions : Prop :=
  ∀ (n : Fin 2048) (d : Fin 2) (pin : Fin 40) (a : Action) (s : State), s.live →
    let i := n.val / 1024 * 40 + fld a.word 0 6
    let op := fld a.word 6 2
    let pw := fld a.word 8 16
    let v := if op = 0 then (if pw = 0 then s.latch.getLsbD i else true) else if op = 1 then true
      else if op = 2 then false else !s.latch.getLsbD i
    let j := d.val * 40 + pin.val
    (s.actions = [a] → a.alarm = n → a.kind = .pin → a.due ≤ s.tick → tget 0 s.pulses i ≠ a.due →
      exec (.alarmPinAction n) s = .next
        { s with
          actions := [], latch := setBit s.latch i v
          pulses := if op = 0 ∧ pw ≠ 0 then tset 0 s.pulses i (a.due + pw) else s.pulses }) ∧
    (s.actions = [] → 0 < tget 0 s.pulses j → tget 0 s.pulses j ≤ s.tick → exec (.pulseEnd d pin) s = .next
      { s with latch := setBit s.latch j false, pulses := tset 0 s.pulses j 0 }) ∧
    (tget 0 s.pulses j = 0 ∨ s.tick < tget 0 s.pulses j → exec (.pulseEnd d pin) s = .next s)

/-- The other actions of an alarm where they arrive: a timer action starts, stops or resets the local timer, resets and starts it, or
opens or closes its gate (R469); a core action sets the event latches of the cores of its set that serve a job, or raises an interrupt on every core of
it (R452). -/
def timerAndCoreActions : Prop :=
  ∀ (n : Fin 2048) (a : Action) (s : State), s.live →
    let rest := { s with actions := s.actions.erase a }
    let k := n.val / 1024 * 32 + fld a.word 24 5
    let cs := coreSet (fld a.word 0 8) (fld a.word 8 8)
    let regs4 := fun (x : Timer) => x.pscA = regGet32 s .tmrPsc k ∧ x.perA = regGet32 s .tmrPer k ∧ x.cmp0A = regGet32 s .tmrCmp0 k ∧
      x.cmp1A = regGet32 s .tmrCmp1 k
    (dueAction s n .timer = some a → dueActions s n .timer actTimer = [a] → tmCompat s k = false → (s.die (n.val / 1024)).doze = false →
      (s.timer k).tickDue = false → (s.timer k).uevDue = none → (s.timer k).capDue = [] →
      (fld a.word 29 3 = 0 → ∃ t, exec (.alarmTimerAction n) s = .next t ∧ t = { rest with timers := t.timers } ∧
        (∀ m, m ≠ k → t.timer m = s.timer m) ∧ (t.timer k).run = true ∧ (t.timer k).pscnt = (s.timer k).pscnt ∧
        ((s.timer k).run = true → t.timer k = s.timer k) ∧ ((s.timer k).run = false → regs4 (t.timer k) ∧
          (t.timer k).cnt = (if (t.timer k).perA = 0 then 0 else (s.timer k).cnt))) ∧
      (fld a.word 29 3 = 2 ∨ fld a.word 29 3 = 3 → ∃ t, exec (.alarmTimerAction n) s = .next t ∧ t = { rest with timers := t.timers } ∧
        (∀ m, m ≠ k → t.timer m = s.timer m) ∧ (t.timer k).run = ((s.timer k).run || fld a.word 29 3 == 3) ∧ regs4 (t.timer k) ∧
        (t.timer k).pscnt = 0 ∧ (t.timer k).down = false ∧ (t.timer k).latepend = false ∧
        (t.timer k).cnt = (if tmMode s k = 1 ∧ (t.timer k).perA ≠ 0 then (t.timer k).perA - 1 else 0)) ∧
      (fld a.word 29 3 = 1 → exec (.alarmTimerAction n) s = .next (rest.setTimer k { s.timer k with run := false })) ∧
      (fld a.word 29 3 = 4 → exec (.alarmTimerAction n) s = .next (rest.setTimer k { s.timer k with gatel := true })) ∧
      (fld a.word 29 3 = 5 → exec (.alarmTimerAction n) s = .next (rest.setTimer k { s.timer k with gatel := false }))) ∧
    (dueAction s n .core = some a → bridgeDown s = false → a.near = false → a.word.getLsbD 16 = false → ∃ t, exec (.alarmCoreEvent n) s = .next t ∧
      t = { rest with cores := t.cores } ∧ ∀ c, t.core c =
        if c ∈ cs ∧ (s.core c).serving = true then { s.core c with latch := true } else s.core c) ∧
    (dueAction s n .core = some a → bridgeDown s = false → a.near = false → a.word.getLsbD 16 = true → ∃ t, exec (.alarmCoreEvent n) s = .next t ∧
      t = { rest with regs := t.regs } ∧ ∀ c, c < 64 → regGet t .rowIpend c =
        if c ∈ cs then regGet s .rowIpend c ||| w64 (2 ^ (16 + fld a.word 17 3)) else regGet s .rowIpend c)

/-- A stamp record is 16 bytes, the scheduled stamp and then k and the alarm's number, at SBASE + (k mod 2^SLOG) × 16; a bay that
the Racking Engine owns stores it.  A DECERR or DATERR response sets SERR (R453).  A poll action starts a poll (R417). -/
def stampAndPollActions : Prop :=
  ∀ (n : Fin 2048) (a : Action) (r : Resp) (s : State), s.live →
    let addr := a.base.toNat + a.k.toNat % 2 ^ fld a.word 0 5 * 16
    (dueAction s n .stamp = some a → addr < 2 ^ 28 → bridgeHolds s 9 addr 16 = false → bayOn s (addr / 2 ^ 22) = true → (s.bay (addr / 2 ^ 22)).force = 8 →
      s.poison = [] → exec (.stampRecord { alarm := n }) s = .next { s with
        actions := s.actions.erase a
        mem := bytesPut s.mem addr (leBytes a.stamp.toNat 8 ++ leBytes (fld a.k 0 32 + a.alarm % 2048 * 2 ^ 32) 8)
        stampAns := s.stampAns ++ [(n.val, .ok)] }) ∧
    (s.stampAns = [(n.val, r)] → exec (.stampWriteResponse n) s = .next (
      let t := { s with stampAns := [] }
      if r = .decErr ∨ r = .datErr then regSetBits (regSetBits t .alStat n 0x800) .alEvt (n.val / 1024) 4 else t)) ∧
    (dueAction s n .poll = some a → s.poll.running = false → (∀ q ∈ s.link.out, q.sent = true) →
      ∃ t, exec (.alarmDoorbellPoll n) s = .next t ∧ t.poll.running = true ∧ t.poll.count = s.poll.count + 1 ∧
        t.poll.groups = List.range 128 ∧ a ∉ t.actions ∧ t.mem = s.mem)

/-! ## Timers (chapter 18) -/

/-- The four commands of a native timer (R466, R469) on which nothing is due: START transfers the preloads when RUN was 0, STOP
holds everything, RESET transfers them and returns the counter, the prescaler, the direction and the outputs to their start,
LOAD takes TMR_n_LOAD and marks a late update at or past the period in force, and so does a START whose period the counter has
passed (R467: it never runs on past it); with the period 0 the counter holds 0 (R468).  A compatibility timer takes none of them. -/
def timerCommands : Prop :=
  ∀ (n : Fin 64) (s : State), s.live → s.serves .tmrCtrl n → (s.timer n).tickDue = false → (s.timer n).uevDue = none →
    (s.timer n).capDue = [] →
    let t := s.timer n
    let x := { t with pscA := regGet32 s .tmrPsc n, perA := regGet32 s .tmrPer n, cmp0A := regGet32 s .tmrCmp0 n,
                      cmp1A := regGet32 s .tmrCmp1 n }
    let load := regGet32 s .tmrLoad n
    let late := decide (t.perA.toNat ≤ load.toNat)
    let begun := if x.perA = 0 then { x with cnt := 0 }
      else { x with latepend := t.latepend || decide (x.perA.toNat ≤ t.cnt.toNat) }
    (tmCompat s n = false →
      exec (.timerStart n) s = .next (s.setTimer n { (if t.run then t else begun) with run := true }) ∧
      exec (.timerStop n) s = .next (s.setTimer n { t with run := false }) ∧
      exec (.timerReset n) s = .next (s.setTimer n { x with
        cnt := if fld (regGet s .tmrCfg n) 0 2 = 1 ∧ x.perA ≠ 0 then x.perA - 1 else 0
        pscnt := 0, down := false, latepend := false, oc0 := tmOcinit s n 0, oc1 := tmOcinit s n 1 }) ∧
      exec (.timerLoad n) s = .next (s.setTimer n { t with cnt := if t.perA = 0 then 0 else load, latepend := t.latepend || late })) ∧
    (tmCompat s n = true → ∀ c ∈ [Instr.timerStart n, .timerStop n, .timerReset n, .timerLoad n], exec c s = .next s)

/-- The counter step of one timer tick (R465, Table 18.2): up to the period and back to 0 with an update event, down to 0 and
then an update event, or up and down with the update event at the bottom; a late mark brings the count to 0 with a late one
(R467).  Here where the new count matches no compare value, on a die that is awake. -/
def timerTickCounts : Prop :=
  ∀ (n : Fin 64) (s : State), s.live → (s.timer n).tickDue = true → (s.die (n.val / 32)).doze = false →
    let t := { s.timer n with tickDue := false }
    let mode := fld (regGet s .tmrCfg n) 0 2
    let free := fun (c : W32) => c ≠ t.cmp0A ∧ c ≠ t.cmp1A
    (t.latepend = true → exec (.timerTick n) s = .next (s.setTimer n
      { t with latepend := false, cnt := 0, down := false, uevDue := some true })) ∧
    (t.latepend = false → mode = 0 → t.cnt = t.perA - 1 → exec (.timerTick n) s = .next (s.setTimer n
      { t with cnt := 0, uevDue := some false })) ∧
    (t.latepend = false → mode = 0 → t.cnt ≠ t.perA - 1 → free (t.cnt + 1) →
      exec (.timerTick n) s = .next (s.setTimer n { t with cnt := t.cnt + 1 })) ∧
    (t.latepend = false → mode = 1 → t.cnt = 0 → exec (.timerTick n) s = .next (s.setTimer n { t with uevDue := some false })) ∧
    (t.latepend = false → mode = 1 → t.cnt ≠ 0 → free (t.cnt - 1) →
      exec (.timerTick n) s = .next (s.setTimer n { t with cnt := t.cnt - 1 })) ∧
    (t.latepend = false → mode = 2 → t.down = false → free (t.cnt + 1) →
      exec (.timerTick n) s = .next (s.setTimer n { t with cnt := t.cnt + 1, down := decide (t.cnt + 1 = t.perA) })) ∧
    (t.latepend = false → mode = 2 → t.down = true → t.cnt = 1 →
      exec (.timerTick n) s = .next (s.setTimer n { t with cnt := 0, down := false, uevDue := some false })) ∧
    (t.latepend = false → mode = 2 → t.down = true → t.cnt ≠ 1 → free (t.cnt - 1) →
      exec (.timerTick n) s = .next (s.setTimer n { t with cnt := t.cnt - 1 }))

/-- A tick whose new count equals a compare value in force is a match (R470): it sets CMPxF, moves the output as OCxM says, and is
TRGO where MMS names it (R472); here a count that brings no update event, where no interrupt is enabled. -/
def timerMatches : Prop :=
  ∀ (n : Fin 64) (s : State), s.live → (s.timer n).tickDue = true → (s.timer n).latepend = false → (s.die (n.val / 32)).doze = false →
    regGet s .tmrIrqen n = 0 →
    let t := s.timer n
    let mode := fld (regGet s .tmrCfg n) 0 2
    let up := mode = 0 ∨ (mode = 2 ∧ t.down = false)
    let cnt := if up then t.cnt + 1 else t.cnt - 1
    mode ≠ 3 → (mode = 0 → t.cnt ≠ t.perA - 1) → (mode = 1 → t.cnt ≠ 0) → (mode = 2 → t.down = true → t.cnt ≠ 1) →
    let hit0 := cnt = t.cmp0A
    let hit1 := cnt = t.cmp1A
    let out := fun (x : Nat) (v : Bool) =>
      if tmOcm s n x = 1 then true else if tmOcm s n x = 2 then false else if tmOcm s n x = 3 then !v else v
    let trgo := (tmMms s n = 1 ∧ hit0) ∨ (tmMms s n = 2 ∧ hit1)
    let named := fun (k : Nat) => tmTrgkind s k = false ∧ localTimer k (tmTrgsel s k) = n ∧ tmSms s k + tmClksel s k ≠ 0
    ∃ u, exec (.timerTick n) s = .next u ∧ u = { s with regs := u.regs, timers := u.timers } ∧
      u.timer n = { t with
        tickDue := false, cnt := cnt
        down := if mode = 2 ∧ t.down = false then decide (t.cnt + 1 = t.perA) else t.down
        oc0 := if hit0 then out 0 t.oc0 else t.oc0
        oc1 := if hit1 then out 1 t.oc1 else t.oc1
        trgNext := t.trgNext || decide (trgo ∧ named n) } ∧
      (∀ k ∈ List.range 64, k ≠ n.val → u.timer k = { s.timer k with trgNext := (s.timer k).trgNext || decide (k / 32 = n.val / 32 ∧ trgo ∧ named k) }) ∧
      regGet u .tmrStat n = regGet s .tmrStat n ||| (if hit0 then 0x200 else 0) ||| (if hit1 then 0x400 else 0)

/-- An update event transfers the preloads, reloads a down counter with the period it transferred, sets UEVF, with LATEUPD when
late, stops a one-shot timer, is TRGO where MMS is 0, and compares the count that it leaves (R465 to R467, R470, R472): here
where no interrupt is enabled, on a die that is awake. -/
def timerUpdateEvent : Prop :=
  ∀ (n : Fin 64) (late : Bool) (s : State), s.live → (s.timer n).uevDue = some late → regGet s .tmrIrqen n = 0 →
    (s.die (n.val / 32)).doze = false →
    let t := s.timer n
    let per := regGet32 s .tmrPer n
    let cnt := if per = 0 then 0 else if fld (regGet s .tmrCfg n) 0 2 = 1 ∧ late = false then per - 1 else t.cnt
    let hit0 := cnt = regGet32 s .tmrCmp0 n
    let hit1 := cnt = regGet32 s .tmrCmp1 n
    let out := fun (x : Nat) (v : Bool) =>
      if tmOcm s n x = 1 then true else if tmOcm s n x = 2 then false else if tmOcm s n x = 3 then !v else v
    let trgo := tmMms s n = 0 ∨ (tmMms s n = 1 ∧ hit0) ∨ (tmMms s n = 2 ∧ hit1)
    let named := fun (k : Nat) => tmTrgkind s k = false ∧ localTimer k (tmTrgsel s k) = n ∧ tmSms s k + tmClksel s k ≠ 0
    ∃ u, exec (.updateEvent n) s = .next u ∧ u = { s with regs := u.regs, reports := u.reports, timers := u.timers } ∧
      (∀ k ∈ List.range 64, k ≠ n.val → u.timer k = { s.timer k with trgNext := (s.timer k).trgNext || decide (k / 32 = n.val / 32 ∧ trgo ∧ named k) }) ∧
      u.timer n = { t with
        uevDue := none, cnt := cnt, pscA := regGet32 s .tmrPsc n, perA := per, cmp0A := regGet32 s .tmrCmp0 n
        cmp1A := regGet32 s .tmrCmp1 n, run := t.run && !(regGet s .tmrCfg n).getLsbD 2
        oc0 := if hit0 then out 0 t.oc0 else t.oc0
        oc1 := if hit1 then out 1 t.oc1 else t.oc1
        trgNext := t.trgNext || decide (trgo ∧ named n) } ∧
      regGet u .tmrStat n = regGet s .tmrStat n ||| (if late then 0x2100 else 0x100) ||| (if hit0 then 0x200 else 0) |||
        (if hit1 then 0x400 else 0)

/-- One TMRCLK cycle of a running, ungated native timer (R463, R465, R468): a cycle of TMRCLK itself, or an accepted edge of
CLKPIN, or a count that the clocking axis has gained, is a source event; a timer that is stopped or gated takes none; the prescaler counts, and brings a timer tick every PSC + 1 events; with the period in force 0 the
count is 0.  A command that names another source than the timer's has no effect.  A rising trigger input starts a timer of SMS
3, resets one of SMS 2, and is a source event of CLKSEL 2 (R472). -/
def timerSourceAndTrigger : Prop :=
  ∀ (n : Fin 64) (s : State), s.live → tmCompat s n = false → (s.die (n.val / 32)).doze = false → (s.timer n).tickDue = false →
    (s.timer n).uevDue = none → tmHeld s n = false → (s.timer n).capDue = [] → (s.timer n).taken = none → (s.timer n).trgRise = false →
    let t := s.timer n
    let event := fun (x : Timer) => if t.perA = 0 then { x with cnt := 0 }
      else if t.pscnt + 1 ≤ t.pscA.toNat then { x with pscnt := t.pscnt + 1 } else { x with pscnt := 0, tickDue := true }
    let cycle := { t with trgi := tmTrgi s n, trgPend := false, clkEdges := 0 }
    (∀ k : Fin 4, k.val ≠ tmClksel s n → exec (.timerSourceEvent n k) s = .next s) ∧
    (t.run = true → t.gatel = true → tmSms s n = 0 →
      (tmClksel s n = 0 → exec (.timerSourceEvent n 0) s = .next (s.setTimer n (event cycle))) ∧
      (tmClksel s n = 3 → let x := { cycle with lastAx := (busVal s (n.val / 32) (tmClkax s n)).value >>> 16 }
        (tmAxisCount s n = 0 → exec (.timerSourceEvent n 3) s = .next (s.setTimer n x)) ∧
        (tmAxisCount s n = 1 → exec (.timerSourceEvent n 3) s = .next (s.setTimer n (event x)))) ∧
      (tmClksel s n = 1 → t.clkEdges = 1 → exec (.timerSourceEvent n 1) s = .next (s.setTimer n (event cycle))) ∧
      (tmClksel s n = 1 → t.clkEdges = 0 → exec (.timerSourceEvent n 1) s = .next (s.setTimer n cycle)) ∧
      (tmClksel s n = 1 → 2 ≤ t.clkEdges → ∃ u, exec (.timerSourceEvent n 1) s = .next u ∧ u.timer n = event cycle ∧
        (regGet u .tmrStat n).getLsbD 16 = true)) ∧
    (t.run = false ∨ t.gatel = false ∨ (tmSms s n = 1 ∧ tmTrgi s n = false) → tmSms s n < 2 → tmClksel s n = 0 →
      exec (.timerSourceEvent n 0) s = .next (s.setTimer n cycle)) ∧
    (tmTrgi s n = true → t.trgi = false →
      (tmSms s n = 3 → tmClksel s n ≠ 2 → exec (.triggerInputEdge n true) s = .next
        (s.setTimer n { t with trgi := true, trgPend := false, taken := some false, run := true })) ∧
      (tmSms s n = 2 → ∃ u, exec (.triggerInputEdge n true) s = .next u ∧ (u.timer n).pscnt = 0 ∧
        (u.timer n).perA = regGet32 s .tmrPer n ∧ (u.timer n).run = t.run ∧ (u.timer n).down = false ∧ (u.timer n).tickDue = false) ∧
      (tmSms s n = 0 → tmClksel s n = 2 → t.run = true → t.gatel = true → exec (.triggerInputEdge n true) s = .next
        (s.setTimer n (event { t with trgi := true, trgPend := false, taken := some true })))) ∧
    (tmTrgi s n = false → t.trgi = true → exec (.triggerInputEdge n false) s = .next
      (s.setTimer n { t with trgi := false, trgPend := false, taken := some false })) ∧
    (tmTrgi s n = t.trgi → ∀ e, exec (.triggerInputEdge n e) s = .next s)

/-- A write of a timer's set-up words (R461, R466): with PRELOAD 1 and a period in force, a write of PSC, PER, CMP0 or CMP1 changes
the written value alone; with PRELOAD 0, or while the period in force is 0, it comes into force at once (R468), and a PER at or
below the count marks a late update (R467).  CFG while RUN is 1 keeps its frozen fields and sets CFGERR
when the write would change one. -/
def timerSetupWrites : Prop :=
  ∀ (n : Fin 64) (v : W32) (s : State), s.live → (s.timer n).tickDue = false → (s.timer n).uevDue = none →
    (s.timer n).capDue = [] →
    let t := s.timer n
    let pre := (regGet s .tmrCfg n).getLsbD 3
    (∀ e ∈ [(TimerReg.psc, RegName.tmrPsc), (.per, .tmrPer), (.cmp0, .tmrCmp0), (.cmp1, .tmrCmp1)], s.serves e.2 n → pre = true →
      t.perA ≠ 0 → exec (.timerConfigWrite n e.1 v) s = .next
        (regPut s e.2 n (regMerge (regRow e.2) (regGet s e.2 n) (v.setWidth 64)))) ∧
    (pre = false ∨ t.perA = 0 → s.serves .tmrCmp0 n → exec (.timerConfigWrite n .cmp0 v) s = .next
      ((regPut s .tmrCmp0 n (v.setWidth 64)).setTimer n { t with cmp0A := v, cnt := if t.perA = 0 then 0 else t.cnt })) ∧
    (pre = false ∨ t.perA = 0 → s.serves .tmrPer n → exec (.timerConfigWrite n .per v) s = .next
      ((regPut s .tmrPer n (v.setWidth 64)).setTimer n (if v = 0 then { t with perA := v, cnt := 0 }
        else { t with perA := v, latepend := t.latepend || decide (v.toNat ≤ t.cnt.toNat) }))) ∧
    (s.serves .tmrCfg n → t.run = true →
      let old := regGet s .tmrCfg n
      let w := regMerge (regRow .tmrCfg) old (v.setWidth 64)
      let frozen : W64 := 0x17FFF7
      exec (.timerConfigWrite n .cfg v) s = .next (
        let u := if w &&& frozen = old &&& frozen then s
          else regSetBits (regSetBits s .tmrStat n 0x20000) .tmrEvt 0 4
        regPut u .tmrCfg n ((w &&& ~~~ frozen) ||| (old &&& frozen))))

/-- The capture unit (R474): of the accepted edges of CAPPIN, oldest first, the first edge of a pulse is latched, the second
publishes the pair with NEW, and with OVR when NEW is set already; a second edge before any first publishes nothing.  A read of CAP_PAIR returns the pair and clears
NEW (R475). -/
def capturesPublishPairs : Prop :=
  ∀ (n : Fin 64) (s : State), s.live → tmCompat s n = false → (s.die (n.val / 32)).doze = false → (s.timer n).tickDue = false →
    (s.timer n).uevDue = none →
    let t := s.timer n
    let cfg := regGet s .tmrCapcfg n
    let first := !cfg.getLsbD 7
    (t.capDue = [] → ∀ e, exec (.captureEdge n e) s = .next s) ∧
    (∀ d rest, t.capDue = d :: rest →
      let x := { t with capDue := rest }
      exec (.captureEdge n (!d)) s = .next s ∧
      (cfg.getLsbD 0 = false → exec (.captureEdge n d) s = .next (s.setTimer n x)) ∧
      (cfg.getLsbD 0 = true → d = first → exec (.captureEdge n d) s = .next (s.setTimer n { x with capr := some t.cnt })) ∧
      (cfg.getLsbD 0 = true → d ≠ first → t.capr = none → exec (.captureEdge n d) s = .next (s.setTimer n x)) ∧
      (∀ c, cfg.getLsbD 0 = true → d ≠ first → t.capr = some c → t.new = false → (regGet s .tmrIrqen n).getLsbD 3 = false →
        exec (.captureEdge n d) s = .next (s.setTimer n { x with capr := none, capPair := (t.cnt ++ c : BitVec 64), new := true })) ∧
      (∀ c, cfg.getLsbD 0 = true → d ≠ first → t.capr = some c → t.new = true → regGet s .tmrIrqen n = 0 →
        exec (.captureEdge n d) s = .next (regSetBits (regSetBits
          (s.setTimer n { x with capr := none, capPair := (t.cnt ++ c : BitVec 64), new := true }) .tmrStat n 0x1000) .tmrEvt 0 1))) ∧
    (s.serves .tmrCapPair n → exec (.capPairRead n true) s = .next
      (({ s with snap := tset none s.snap (regOff .tmrCapPair n) none, readData := t.capPair } : State).setTimer n { t with new := false })) ∧
    (s.serves .tmrCapPair n → exec (.capPairRead n false) s = .next
      (({ s with
          snap := tset none s.snap (regOff .tmrCapPair n) (some ((t.capPair >>> 32).setWidth 32))
          readData := (t.capPair.setWidth 32).setWidth 64 } : State).setTimer n { t with new := false }))

/-- The compatibility machine (R479, R480): the program can start it and not stop it; every PRE + 1 cycles the count adds 1 and wraps, which sets OVFF;
a count that becomes K5_n_CMP sets CMPF and drives the compare output; a capture latches the count and sets CAPF, with CAPOV
when CAPF is set.  Here where no flag is enabled to interrupt; a flag that is set in DOZE is remembered for the
wake. -/
def compatibilityTimer : Prop :=
  ∀ (n : Fin 64) (s : State), s.live → tmCompat s n = true → fld (regGet s .k5Ctl n) 1 3 = 0 →
    let t := s.timer n
    let ctl := regGet s .k5Ctl n
    (t.k5wrap = false → t.k5match = false → s.serves .k5Ctl n → exec (.k5Run n) s = .next (regPut s .k5Ctl n (setBit
      (if ctl.getLsbD 0 then putFld (regMerge (regRow .k5Ctl) ctl (ctl ||| 1)) 8 8 (fld ctl 8 8)
       else regMerge (regRow .k5Ctl) ctl (ctl ||| 1)) 0 true))) ∧
    (t.k5wrap = false → t.k5match = false → t.k5cap = false →
      let x := { t with k5out := if ctl.getLsbD 5 then t.k5out else false }
      (∀ v, t.k5next = some v → exec (.k5CountTick n) s = .next (s.setTimer n
        { x with k5next := none, k5cnt := v, k5match := decide (v = regGet32 s .k5Cmp n) })) ∧
      (t.k5next = none → ctl.getLsbD 0 = false → exec (.k5CountTick n) s = .next (s.setTimer n x)) ∧
      (t.k5next = none → ctl.getLsbD 0 = true → t.k5psc < fld ctl 8 8 →
        exec (.k5CountTick n) s = .next (s.setTimer n { x with k5psc := t.k5psc + 1 })) ∧
      (t.k5next = none → ctl.getLsbD 0 = true → fld ctl 8 8 ≤ t.k5psc → exec (.k5CountTick n) s = .next (s.setTimer n
        { x with
          k5psc := 0, k5cnt := t.k5cnt + 1, k5wrap := decide (t.k5cnt = 0xFFFFFFFF)
          k5match := decide (t.k5cnt + 1 = regGet32 s .k5Cmp n) }))) ∧
    let late := fun (b : Nat) (x : Timer) => if (s.die (n.val / 32)).doze then { x with k5late := setBit x.k5late b true } else x
    (t.k5wrap = true → ∃ u, exec (.k5CountWrap n) s = .next u ∧ u = { s with regs := u.regs, timers := u.timers } ∧
      u.timer n = late 1 { t with k5wrap := false } ∧ (∀ k, k ≠ n.val → u.timer k = s.timer k) ∧
      regGet u .k5Sts n = regGet s .k5Sts n ||| 2) ∧
    (t.k5match = true → ∃ u, exec (.k5CompareMatch n) s = .next u ∧ u = { s with regs := u.regs, timers := u.timers } ∧
      u.timer n = late 0 { t with k5match := false, k5out := if ctl.getLsbD 5 then !t.k5out else true } ∧
      (∀ k, k ≠ n.val → u.timer k = s.timer k) ∧ regGet u .k5Sts n = regGet s .k5Sts n ||| 1) ∧
    (t.k5wrap = false → t.k5match = false → t.k5cap = true → (s.die (n.val / 32)).doze = false →
      ∃ u, exec (.k5Capture n) s = .next u ∧ u = { s with regs := u.regs, timers := u.timers } ∧
        u.timer n = { t with k5cap := false } ∧ (∀ k, k ≠ n.val → u.timer k = s.timer k) ∧
        regGet u .k5Cap n = t.k5cnt.setWidth 64 ∧
        regGet u .k5Sts n = regGet s .k5Sts n ||| (if (regGet s .k5Sts n).getLsbD 2 then 0xC else 4)) ∧
    (t.k5wrap = false → t.k5match = false → t.k5cap = false → exec (.k5Capture n) s = .next s)

/-- The trace is off. -/
abbrev quiet (s : State) : Prop := (regGet s .dbgTrctl 0).getLsbD 0 = false

/-- Training of a VGL port (R488, Table 19.2): the steps from DOWN to UP, the rate of an attempt with the fall-back after three
failures, the wait of a failed attempt, and its end. -/
def portTrainsStepByStep : Prop :=
  ∀ (p : Fin 8) (s : State), s.live → quiet s → (s.die (p / 4)).doze = false →
    let x := s.port p
    let cfg := regGet s .vglCfg p
    (cfg.getLsbD 0 = false → ∀ ok, exec (.portTrainingStep p ok) s = .next s) ∧
    (cfg.getLsbD 0 = true →
      (x.ls = .down → x.hold = false → exec (.portTrainingStep p true) s = .next (s.setPort p
        { x with ls := .eq, slow := cfg.getLsbD 1 || (cfg.getLsbD 2 && decide (3 ≤ x.fails)) })) ∧
      (x.ls = .eq → ∃ k odd, exec (.portTrainingStep p true) s = .next (s.setPort p { x with
        ls := .align, starts := x.starts + 1, cw := 2 * k % 1024, odd, fill := [], code := [], rxAt := 0, rxLost := false })) ∧
      (x.ls = .align → exec (.portTrainingStep p true) s = .next (s.setPort p { x with
        ls := .config, txq := tset [] x.txq 2 (tget [] x.txq 2 ++ [{ vc := 2, som := true, eom := true, payload := advertMsg, mgmt := true }]) })) ∧
      (x.ls = .config → x.advIn = true → x.advOk = true → exec (.portTrainingStep p true) s = .next (s.setPort p
        { x with txq := tset [] x.txq 2 ((tget [] x.txq 2).filter (fun f => !f.mgmt)), ls := .up, fails := 0, cred := x.adv, heard := s.tick, moved := s.tick, beat := s.tick })) ∧
      (x.ls = .config → x.advIn = false ∨ x.advOk = false → exec (.portTrainingStep p true) s = .next (s.setPort p
        { x with txq := tset [] x.txq 2 (tget [] x.txq 2 ++ [{ vc := 2, som := true, eom := true, payload := advertMsg, mgmt := true }]) })) ∧
      (x.ls = .up → ∀ ok, exec (.portTrainingStep p ok) s = .next s) ∧
      (x.ls = .eq ∨ x.ls = .align ∨ x.ls = .config → x.rx = [] → s.egresses = [] → ∃ t, exec (.portTrainingStep p false) s = .next t ∧
        t = { s with regs := t.regs, ports := t.ports } ∧ t.port p =
          { ls := .down, slow := x.slow, fails := if x.slow then x.fails else x.fails + 1, hold := true, fark := x.fark, starts := x.starts })) ∧
    (x.ls = .down → x.hold = true → exec (.portRetrainRetry p) s = .next (s.setPort p { x with hold := false })) ∧
    (x.ls ≠ .down ∨ x.hold = false → exec (.portRetrainRetry p) s = .next s)

/-- An UP port returns to DOWN (R489): buffers, credits and the delay are gone, VGL_p_TRNCNT gains 1, and LDOWN is set unless
EN = 0 causes it; 10 µs without an undamaged flit is one cause.  Here with no message being received and no frame held. -/
def portReturnsToDown : Prop :=
  ∀ (p : Fin 8) (s : State), s.live → quiet s → (s.die (p / 4)).doze = false → (s.port p).ls = .up → (s.port p).rx = [] → s.egresses = [] →
    let x := s.port p
    let fell (t : State) : Prop := t = { s with regs := t.regs, reports := t.reports, ports := t.ports } ∧
      regGet t .vglTrncnt p = w64 (min ((regGet s .vglTrncnt p).toNat + 1) 0xFFFFFFFF) ∧ regGet t .vglDelay p = 0
    let off : Port := { ls := .down, slow := x.slow, fails := x.fails, hold := true, fark := x.fark, starts := x.starts }
    (∀ cause ∈ [DownCause.replays, .markerLost, .retrain], ∃ t, exec (.portDown p cause) s = .next t ∧ fell t ∧ t.port p = off ∧
      (regGet t .vglEvt 0).getLsbD p = true) ∧
    (s.serves .vglCfg p → (regGet s .vglCfg p).getLsbD 0 = true → ∃ t, exec (.portDown p .disabled) s = .next t ∧ fell t ∧
      t.port p = { off with fails := 0, hold := false } ∧ regGet t .vglEvt 0 = regGet s .vglEvt 0 ∧
      (regGet t .vglCfg p).getLsbD 0 = false) ∧
    (x.heard + 5000 ≤ s.tick → ∃ t, exec (.linkSilenceTimeout p) s = .next t ∧ fell t ∧ t.port p = off ∧
      (regGet t .vglEvt 0).getLsbD p = true) ∧
    (s.tick < x.heard + 5000 → exec (.linkSilenceTimeout p) s = .next s)

/-- A flit at an UP port (R487, R491, R494, Table 19.4): a codeword is decoded ahead of the first and of the third flit of a
pair, and is counted when it is corrected or lost; a damaged flit, of a lost codeword or with a wrong CRC, is counted and asks for
a replay; a DATA flit with the sequence number expected is accepted, with the instant of its first symbol (R509), and sends the port
DOWN where its end is not that of its message by LEN (R500); one ahead of it asks for a replay; one behind it is discarded. -/
def flitIsReceived : Prop :=
  ∀ (p : Fin 8) (sub : BitVec 17) (corrected lost : Bool) (b : List Byte) (s : State), s.live → (s.die (p / 4)).doze = false → (s.port p).ls = .up →
    let x := s.port p
    let h := headOf b
    let decodes : Bool := x.rxAt == 0 || x.rxAt == 2
    let took := { x with rxAt := (x.rxAt + 1) % 5, rxLost := if decodes then lost else x.rxLost }
    let damaged := (decodes && lost) || (x.rxAt != 0 && x.rxLost)
    let y := { took with heard := s.tick }
    let d := (h.sq + 4096 - x.expect) % 4096
    let one : RxMsg := { bytes := (b.drop 8).take h.plen, whole := h.eom, rpl := h.rpl, arrived := (s.die (p / 4)).ax0 + sub.setWidth 64, at_ := s.tick
                         flits := [(0, ((b.drop 8).take h.plen).length)] }
    let more := fun (r : RegName) (b : Bool) => if b then w64 (min ((regGet s r p).toNat + 1) 0xFFFFFFFF) else regGet s r p
    ∃ t, exec (.flitReceive { port := p, sub } corrected lost b) s = .next t ∧
      ((damaged = true ∨ crcGood b = false) → t = { s with regs := t.regs, ports := t.ports } ∧
        t.port p = (if x.nakked then took else { took with nak := true, nakked := true }) ∧
        regGet t .vglCrccnt p = more .vglCrccnt true ∧
        regGet t .vglUecnt p = more .vglUecnt (decodes && lost) ∧
        regGet t .vglCecnt p = more .vglCecnt (decodes && !lost && corrected)) ∧
      (damaged = false → crcGood b = true → headBad h = false → h.kind = 1 → h.ackv = false → h.ccnt = 0 →
        let framed : Bool := if one.bytes.length < 16 then !h.eom else if h.eom then one.bytes.length == 16 + mLen one.bytes
          else decide (one.bytes.length < 16 + mLen one.bytes)
        (d = 0 → h.som = true → tget [] x.rx h.vc = [] → framed = true → t = { s with regs := t.regs, ports := t.ports } ∧ t.port p =
          { y with expect := (x.expect + 1) % 4096, any := true, nakked := false, rx := tset [] x.rx h.vc [one] }) ∧
        (d = 0 → h.som = true → tget [] x.rx h.vc = [] → framed = false → (t.port p).ls = .down ∧
          (regGet t .vglEvt 0).getLsbD (8 + p) = true) ∧
        (0 < d → t = { s with regs := t.regs, ports := t.ports } ∧
          t.port p = (if 2048 ≤ d ∨ x.nakked = true then y else { y with nak := true, nakked := true })))

/-- Acknowledgements and credits that an undamaged flit brings, whatever its kind (R493, R494, R498): here an IDLE flit.  An ACK of a
releases every held flit up to and including a, and none where no held flit has that number; CCNT credits are added to those of
CVC, and more than the far end advertised are a protocol error, which takes the port DOWN. -/
def acksAndCreditsArrive : Prop :=
  ∀ (p : Fin 8) (sub : BitVec 17) (b : List Byte) (s : State), s.live → (s.die (p / 4)).doze = false → (s.port p).ls = .up →
    let x := s.port p
    let h := headOf b
    let c := tget 0 x.cred h.cvc + h.ccnt
    ((x.rxAt = 0 ∨ x.rxLost = false) → crcGood b = true → headBad h = false → h.kind = 0 →
      (h.ccnt ≠ 0 → tget 0 x.adv h.cvc < c → ∃ t, exec (.flitReceive { port := p, sub } false false b) s = .next t ∧
        (t.port p).ls = .down ∧ (regGet t .vglEvt 0).getLsbD (8 + p) = true ∧ (regGet t .vglEvt 0).getLsbD p = true) ∧
      (h.ccnt = 0 ∨ c ≤ tget 0 x.adv h.cvc → ∃ t, exec (.flitReceive { port := p, sub } false false b) s = .next t ∧
        t = { s with ports := t.ports } ∧ (∀ q, q ≠ p.val → t.port q = s.port q) ∧ (t.port p).heard = s.tick ∧ (t.port p).ls = .up ∧
        (t.port p).rx = x.rx ∧ (t.port p).txq = x.txq ∧ (t.port p).expect = x.expect ∧
        (∀ v, tget 0 (t.port p).cred v = if h.ccnt ≠ 0 ∧ v = h.cvc then c else tget 0 x.cred v) ∧
        (h.ackv = false ∨ (∀ q ∈ x.held, q.sq ≠ h.ack) → (t.port p).held = x.held ∧ (t.port p).replay = x.replay ∧ (t.port p).moved = x.moved) ∧
        (∀ i, i < x.held.length → h.ackv = true → (∀ q ∈ x.held.take i, q.sq ≠ h.ack) → ((x.held.drop i).map (·.sq)).head? = some h.ack →
          (t.port p).held = x.held.drop (i + 1) ∧ (t.port p).moved = s.tick ∧
          (t.port p).replay = x.replay.filter (fun q => !((x.held.take (i + 1)).map (·.sq)).contains q))))

/-- Five flits, 10,240 bits, make a pair of codewords of 544 symbols (R486): one marker is 0x2AA and the other 0x155, the
counters follow one another, and the message symbols hold the bits of the flits, ten to a symbol; a flit that fills no pair
waits. -/
def flitsMakeCodewords : Prop :=
  ∀ (x : Port) (flit : List Byte), flit.length = 256 → x.fill.length ≤ 1024 →
    let y := x.emit flit
    let q := x.fill ++ flit
    y.sent = flit ∧ (x.fill.length < 1024 → y = { x with sent := flit, fill := q }) ∧
    (x.fill.length = 1024 → y.fill = [] ∧ y.cw = (x.cw + 2) % 1024 ∧ ∃ u v, y.code = [u, v] ∧
      u.length = 544 ∧ v.length = 544 ∧ u.getD 0 0 = (if x.odd then 0x155 else 0x2AA) ∧
      v.getD 0 0 = (if x.odd then 0x2AA else 0x155) ∧ u.getD 1 0 = BitVec.ofNat 10 x.cw ∧ v.getD 1 0 = BitVec.ofNat 10 (x.cw + 1) ∧
      ∀ k : Fin 512, ∀ i : Fin 10,
        (u.getD (2 + k) 0).getLsbD i = (q.getD ((10 * k.val + i) / 8) 0).getLsbD ((10 * k.val + i) % 8) ∧
        (v.getD (2 + k) 0).getLsbD i = (q.getD (640 + (10 * k.val + i) / 8) 0).getLsbD ((10 * k.val + i) % 8))

/-- Replay (R493, R495, R496): a NAK releases what it acknowledges and has every flit still held sent again, as 4 µs without an
acknowledgement do; after 16 replays of one flit the port goes DOWN. -/
def replayOfHeldFlits : Prop :=
  ∀ (p : Fin 8) (s : State), s.live → (s.die (p / 4)).doze = false → (s.port p).ls = .up →
    let x := s.port p
    ((∀ h ∈ x.held, h.replays < 16) → exec (.nak p none) s = .next (s.setPort p { x with replay := x.held.map (·.sq), moved := s.tick })) ∧
    (∀ h r, x.held = h :: r → (∀ k ∈ r, k.replays < 16) → ∃ t, exec (.nak p (some ⟨h.sq % 4096, Nat.mod_lt _ (by decide)⟩)) s = .next t ∧
      (h.sq < 4096 → t = { s with ports := t.ports } ∧ (t.port p).held = r ∧ (t.port p).replay = r.map (·.sq) ∧ (t.port p).moved = s.tick)) ∧
    (x.held ≠ [] → x.moved + 2000 ≤ s.tick → (∀ h ∈ x.held, h.replays < 16) → exec (.replayTimeout p) s = .next
      (s.setPort p { x with replay := x.held.map (·.sq), moved := s.tick })) ∧
    (x.moved + 2000 ≤ s.tick → (∃ h ∈ x.held, 16 ≤ h.replays) → ∃ t, exec (.replayTimeout p) s = .next t ∧ (t.port p).ls = .down ∧
      (t.port p).held = []) ∧
    (x.held = [] ∨ s.tick < x.moved + 2000 → exec (.replayTimeout p) s = .next s)

/-- What a flit slot carries, whatever its instant (R499): a NAK that is owed, else a replay, else a new flit of VC 3, 2, 0 or 1 in that order that has
a credit, which is held until it is acknowledged, else an IDLE flit. -/
def flitSlotPriorities : Prop :=
  ∀ (w : FlitSlot) (s : State), s.live → (s.die (w.port / 4)).doze = false → (s.port w.port).ls = .up →
    let p := w.port
    let x := s.port p
    (x.nak = true → exec (.flitSend w) s = .next (s.setPort p
      (({ x.took with nak := false } : Port).emit (flitBytes (x.head { kind := 2 }) [])))) ∧
    (∀ h q r, x.nak = false → x.replay = q :: r → x.held = [h] → h.sq = q →
      let hd : FlitHead := { kind := 1, vc := h.flit.vc, som := h.flit.som, eom := h.flit.eom, plen := h.flit.payload.length, sq := q, rpl := true }
      exec (.flitSend w) s = .next ((regCount s .vglRplcnt p 1).setPort p
        (({ x.took with replay := r, held := [{ h with replays := h.replays + 1 }] } : Port).emit
          (flitBytes (x.head hd) h.flit.payload)))) ∧
    (∀ v f r, x.nak = false → x.replay = [] → x.held.length < 128 → v ∈ [3, 2, 0, 1] →
      (∀ u ∈ [3, 2, 0, 1].takeWhile (· ≠ v), tget [] x.txq u = [] ∨ tget 0 x.cred u = 0 ∧ ∀ g ∈ tget [] x.txq u, g.mgmt = false) →
      tget [] x.txq v = f :: r → f.mgmt = false → f.sync = none → tget 0 x.cred v ≠ 0 →
      let hd : FlitHead := { kind := 1, vc := f.vc, som := f.som, eom := f.eom, plen := f.payload.length, sq := x.sq }
      exec (.flitSend w) s = .next (s.setPort p
        (({ x.took with
            txq := tset [] x.txq v r
            cred := tset 0 x.cred v (tget 0 x.cred v - 1)
            sq := (x.sq + 1) % 4096
            held := x.held ++ [{ sq := x.sq, flit := f }]
            moved := if x.held.isEmpty then s.tick else x.moved } : Port).emit (flitBytes (x.head hd) f.payload)))) ∧
    (x.nak = false → x.replay = [] → (∀ v ∈ [3, 2, 0, 1], tget [] x.txq v = []) → exec (.flitSend w) s = .next (s.setPort p
      (x.took.emit (flitBytes (x.head {}) []))))

/-- Messages of the link itself (R501, R511, R513): a HEARTBEAT counts and restarts the watch; a frame no channel matches is
counted in VGL_p_UNMCNT and discarded; the PONG of the last PING gives the one-way delay; the watch, when it runs out, sets HBLOST and
starts again; a HEARTBEAT and a PING are queued at their intervals. -/
def linkMessages : Prop :=
  ∀ (p : Fin 8) (m : RxMsg) (r : List RxMsg) (s : State), s.live → (s.die (p / 4)).doze = false →
    let x := s.port p
    (tget [] x.rx 2 = m :: r → m.fate = .open → m.whole = true → m.bytes.length = 16 → msgBad m.bytes 2 = false → mType m.bytes = 6 →
      mLen m.bytes = 0 → exec (.messageReceive p 2) s = .next ((regPut s .vglHbcnt p ((regGet s .vglHbcnt p + 1) &&& 0xFFFFFFFF)).setPort p
        { x with rx := tset [] x.rx 2 r, freed := tset 0 x.freed 2 (tget 0 x.freed 2 + m.flits.length), beat := s.tick })) ∧
    (∀ vc : Fin 4, tget [] x.rx vc = m :: r → 16 ≤ m.bytes.length → m.fate = .open → m.whole = true → isFrame m.bytes = true →
      inMatch s p vc m.bytes = none → exec (.messageReceive p vc) s = .next ((regCount s .vglUnmcnt p 1).setPort p
        { x with rx := tset [] x.rx vc r, freed := tset 0 x.freed vc (tget 0 x.freed vc + m.flits.length) })) ∧
    (tget [] x.rx 3 = m :: r → m.fate = .open → m.whole = true → m.bytes.length = 64 → mLen m.bytes = 48 → msgBad m.bytes 3 = false →
      mType m.bytes = 4 → m.bytes.getD 16 0 = 2 → m.rpl = false → x.ping = some (bodyWord m.bytes 24) →
      let d := ((m.arrived - bodyWord m.bytes 24) - (bodyWord m.bytes 40 - bodyWord m.bytes 32)).toInt / 2
      0 ≤ d → ∃ t, exec (.messageReceive p 3) s = .next t ∧ t = { s with regs := t.regs, ports := t.ports } ∧
        (t.port p).delay = some (BitVec.ofInt 64 d) ∧ regGet t .vglDelay p = BitVec.ofInt 64 d) ∧
    (x.ls = .up →
      (fld (regGet s .vglHbint p) 0 16 ≠ 0 → exec (.heartbeatSend p) s = .next (s.setPort p (x.put 2
        [{ vc := 2, som := true, eom := true, payload := msgHeader 6 0 0 0 (s.die (p / 4)).ax0 }]))) ∧
      (fld (regGet s .vglTsint p) 0 16 ≠ 0 → (∀ j < 4, (regGet s .vglTscfg p).getLsbD (6 * j + 5) = false) →
        exec (.timeSyncInterval p) s = .next (s.setPort p (x.put 3
          [{ vc := 3, som := true, eom := true, payload := syncMsg 1, sync := some 0 }]))) ∧
      (let rtmo := fld (regGet s .vglHbint p) 16 16
       (rtmo ≠ 0 → x.beat + 500 * rtmo ≤ s.tick → ∃ t, exec (.heartbeatTimeout p) s = .next t ∧
         t = { s with regs := t.regs, reports := t.reports, ports := t.ports } ∧ t.port p = { x with beat := s.tick } ∧
         regGet t .vglEvt 0 = regGet s .vglEvt 0 ||| w64 (2 ^ (16 + p.val))) ∧
       (rtmo = 0 ∨ s.tick < x.beat + 500 * rtmo → exec (.heartbeatTimeout p) s = .next s)))

/-- TIME_SYNC and LINK_MGMT messages (R510 to R513): the VALUE of an axis that is in RUN, with the delay known and no replay, reaches every remote
axis of the port and source 16 ticks after its arrival, moved on by its rate over the delay and those 16 ticks; any other sets FRMERR
on each.  A PING is answered by a PONG.  The ADVERT of a port that is not UP gives the credits; of an UP port it is a protocol
error; RETRAIN takes the port DOWN.  A LINK_MGMT message takes no credit and frees none (R498). -/
def timeSyncAndManagement : Prop :=
  ∀ (p : Fin 8) (m : RxMsg) (r : List RxMsg) (s : State), s.live → quiet s → (s.die (p / 4)).doze = false →
    let x := s.port p
    let byte := fun (k : Nat) => m.bytes.getD (16 + k) 0
    let word := fun (k : Nat) => w64 (leNat ((m.bytes.drop (16 + k)).take 8))
    let freed := { x with rx := tset [] x.rx 3 r, freed := tset 0 x.freed 3 (tget 0 x.freed 3 + m.flits.length) }
    m.fate = .open → m.whole = true →
    (tget [] x.rx 3 = m :: r → m.bytes.length = 64 → mLen m.bytes = 48 → msgBad m.bytes 3 = false → mType m.bytes = 4 →
      let src := (byte 1).toNat % 32
      let meant := fun (n : Nat) => n < 32 ∧ axEn s n = true ∧ axMode s n = 7 ∧ n / 16 = p.val / 4 ∧ axPort s n = p.val % 4 ∧ axRaxis s n = src
      let inUse := m.rpl = false ∧ (byte 1).toNat / 32 = 1
      (byte 0 = 0 → inUse → ∀ d, x.delay = some d →
        let adv := ((word 16).toInt * (d.toInt + 0x200000)).fdiv (2 ^ 33)
        ∃ t, exec (.messageReceive p 3) s = .next t ∧ t = { s with ports := t.ports, axes := t.axes } ∧ t.port p = freed ∧
          ∀ n ∈ List.range 32, t.axis n = if meant n then { s.axis n with frames := (s.axis n).frames ++
            [(s.tick + 10 - min 10 (s.tick - m.at_), word 8 + BitVec.ofInt 64 adv)] } else s.axis n) ∧
      (byte 0 = 0 → (¬ inUse ∨ x.delay = none) → ∃ t, exec (.messageReceive p 3) s = .next t ∧ t.port p = freed ∧ t.mem = s.mem ∧
        ∀ n ∈ List.range 32, (t.axis n).frames = (s.axis n).frames ∧ (meant n → (regGet t .axStat n).getLsbD 10 = true ∧
          regGet t .axErrcnt n = w64 (min ((regGet s .axErrcnt n).toNat + 1) 0xFFFFFFFF)) ∧
          (¬ meant n → regGet t .axErrcnt n = regGet s .axErrcnt n)) ∧
      (byte 0 = 1 → m.rpl = false → exec (.messageReceive p 3) s = .next (s.setPort p (freed.put 3
        [{ vc := 3, som := true, eom := true, payload := pongMsg (word 24) m.arrived, sync := some 0 }])))) ∧
    (tget [] x.rx 2 = m :: r → m.bytes.length = 32 → mLen m.bytes = 16 → msgBad m.bytes 2 = false → mType m.bytes = 5 →
      (∀ k ∈ [2, 3, 12, 13, 14, 15], byte k = 0) →
      (byte 0 = 1 → x.ls ≠ .up → ∃ t, exec (.messageReceive p 2) s = .next t ∧ t = { s with ports := t.ports } ∧
        (t.port p).rx = tset [] x.rx 2 r ∧ (t.port p).freed = x.freed ∧ (t.port p).advIn = true ∧ (t.port p).ls = x.ls ∧
        ∀ v ∈ [0, 1, 2, 3], tget 0 (t.port p).adv v = leNat ((m.bytes.drop (20 + 2 * v)).take 2)) ∧
      (byte 0 = 1 → x.ls = .up → ∃ t, exec (.messageReceive p 2) s = .next t ∧ (t.port p).ls = .down ∧
        (regGet t .vglEvt 0).getLsbD (8 + p) = true ∧ (regGet t .vglEvt 0).getLsbD p = true) ∧
      (byte 0 = 2 → (∀ k ∈ [4, 5, 6, 7, 8, 9, 10, 11], byte k = 0) → ∃ t, exec (.messageReceive p 2) s = .next t ∧
        (t.port p).ls = .down ∧ (regGet t .vglEvt 0).getLsbD (8 + p) = (regGet s .vglEvt 0).getLsbD (8 + p) ∧ t.mem = s.mem))

/-- Ingest (R502, R503): the slot of a frame follows from its stamp; its body goes to the slot, its header after it where the
channel writes headers; a stamp out of range is counted and its message discarded.  Buffer space that is free is returned as
credits one by one (R498). -/
def ingestPlacesByStamp : Prop :=
  ∀ (c : Fin 256) (chk : Check) (m : RxMsg) (r : List RxMsg) (s : State), s.live → bridgeDown s = false →
    let p := inPort s c
    let vc := inVc s c
    let x := s.port p
    let i := (mStamp m.bytes - regGet s .vglInOrigin c).toInt.fdiv (regGet s .vglInPitch c).toInt
    let slot := (regGet s .vglInBase c).toNat + i.toNat * (regGet s .vglInSlotsz c).toNat
    let ag : Agent := { master := 10 + c.val / 128, level := 0 }
    let g : Ingest := tget {} s.ingests c
    g.owed = [] →
    (tget [] x.rx vc = m :: r → m.fate = .open → m.whole = true → m.placed = 0 → m.bytes.length = 16 + mLen m.bytes → isFrame m.bytes = true →
      msgBad m.bytes vc = false → inMatch s p vc m.bytes = some c.val →
      (0 ≤ i → i < (regGet s .vglInNslot c).toNat → mLen m.bytes ≤ (regGet s .vglInSlotsz c).toNat →
        (regGet s .vglInCfg c).getLsbD 5 = false → g.last ≠ some i →
        let at' := { s with ingests := tset {} s.ingests c { g with last := some i } }
        ∃ t, exec (.ingestPlacement ⟨c, none, chk⟩) s = .next t ∧ t.mem = (writeSpan at' ag slot (m.bytes.drop 16) chk).1.mem ∧
          tget [] (t.port p).rx vc = r ∧ tget 0 (t.port p).freed vc = tget 0 x.freed vc + m.flits.length ∧
          t.ingests = at'.ingests ∧ regGet t .vglInFrmcnt c = (regGet s .vglInFrmcnt c + 1) &&& 0xFFFFFFFF) ∧
      (i < 0 ∨ (regGet s .vglInNslot c).toNat ≤ i → (regGet s .vglInCfg c).getLsbD 6 = false →
        ∃ t, exec (.ingestPlacement ⟨c, none, chk⟩) s = .next t ∧
        t.mem = s.mem ∧ (regGet t .vglInStat c).getLsbD 8 = true ∧ tget [] (t.port p).rx vc = r ∧
        regGet t .vglInErrcnt c = w64 (min ((regGet s .vglInErrcnt c).toNat + 1) 0xFFFFFFFF))) ∧
    (∀ a, tget [] x.rx vc = m :: r → 16 ≤ m.bytes.length → m.fate = .place c a 16 → m.whole = true → m.placed = mLen m.bytes →
      ∃ t, exec (.ingestHeaderWrite { chan := c, chk }) s = .next t ∧ t.mem = (writeSpan s ag a (m.bytes.take 16) chk).1.mem ∧
        tget [] (t.port p).rx vc = r) ∧
    ∀ (q : Fin 8) (v : Fin 4), (s.die (q / 4)).doze = false →
      (0 < tget 0 (s.port q).freed v → exec (.creditReturn q v) s = .next (s.setPort q { s.port q with
        freed := tset 0 (s.port q).freed v (tget 0 (s.port q).freed v - 1), ccnt := tset 0 (s.port q).ccnt v (tget 0 (s.port q).ccnt v + 1) })) ∧
      (tget 0 (s.port q).freed v = 0 → exec (.creditReturn q v) s = .next s)

/-- Egress (R505 to R508): a trigger of an enabled channel whose buffer is free starts the reads of its frame, under the window
words in force; one that finds it taken, or a port that is not UP, is dropped
and counted (R507). -/
def egressSendsAFrame : Prop :=
  ∀ (n : Fin 2048) (a : Action) (s : State), s.live → dueActions s n .egress (fun a => fld a.word 16 8) = [a] →
    let c := fld a.word 16 8
    let cfg := regGet s .vglEgCfg c
    let p := fld cfg 0 3
    let e := s.egress c
    let rest := { s with actions := s.actions.erase a }
    ((regGet s .vglEgStat c).getLsbD 0 = false → exec (.egressTrigger n) s = .next rest) ∧
    ((regGet s .vglEgStat c).getLsbD 0 = true → (s.port p).ls = .up → e.state = .free →
      exec (.egressTrigger n) s = .next (rest.setEgress c { state := .reading, stamp := a.stamp, port := p, vc := fld cfg 3 2
                                                            sid := fld cfg 8 8, len := (regGet s .vglEgLen c).toNat
                                                            src := (regGet s .vglEgSrc c).toNat })) ∧
    ((regGet s .vglEgStat c).getLsbD 0 = true → e.state ≠ .free ∨ (s.port p).ls ≠ .up → ∃ t, exec (.egressTrigger n) s = .next t ∧ t.egresses = s.egresses ∧
      t.mem = s.mem ∧ regGet t .vglEgDropcnt c = w64 (min ((regGet s .vglEgDropcnt c).toNat + 1) 0xFFFFFFFF) ∧
      (regGet t .vglEgStat c).getLsbD 9 = true)

/-- The frame of an egress channel after its trigger (R505, R506): when its reads have returned it is queued with the stamp of
its trigger, void and marked where a read failed; when its last flit has been sent the buffer is free and VGL_EGc_FRMCNT gains
1. -/
def egressFrameIsQueuedAndSent : Prop :=
  ∀ (c : Fin 256) (most : Option Nat) (chk : Check) (s : State), s.live → bridgeDown s = false →
    let e := s.egress c
    e.owed = [] →
    (∀ s' err bs, e.state = .reading → e.got = [] → e.bad = false → e.lost = false →
      readSpan s { master := 12 + c.val / 128, level := 0 } e.src e.len chk = (s', err, bs) → bs.length = e.len →
      (s'.port e.port).ls = .up →
      let queued := fun (u : State) (flags : Nat) (body : List Byte) => (u.setPort e.port ((u.port e.port).put e.vc
        (msgFlits e.vc (some c) false none (msgHeader 3 e.sid flags e.len e.stamp ++ body)))).setEgress c
          { e with state := .sending, got := bs, bad := decide (flags = 1) }
      (err = none → exec (.egressReadsDone c none chk) s = .next (queued s' 0 bs)) ∧
      (err.isSome = true → exec (.egressReadsDone c none chk) s =
        .next (queued (regSetBits (regSetBits s' .vglEgStat c 0x100) .vglEvt 0 0x2000000) 1 (List.replicate e.len 0)))) ∧
    (e.state = .sending → (∀ q ∈ (s.port e.port).txq, ∀ f ∈ q.2, f.chan ≠ some c.val) → exec (.egressFrameSent c) s = .next
      (regPut (s.setEgress c {}) .vglEgFrmcnt c ((regGet s .vglEgFrmcnt c + 1) &&& 0xFFFFFFFF))) ∧
    (e.state ≠ .sending → exec (.egressFrameSent c) s = .next s) ∧
    (e.state ≠ .reading → exec (.egressReadsDone c most chk) s = .next s)

/-- Channels (R518): ENABLE of a valid channel sets EN, and of an invalid one CFGERR alone; DISABLE clears EN, and cuts short a message in
mid-placement, or whose header has come and which would be placed, which sets TRUNC and counts. -/
def channelsEnableAndDisable : Prop :=
  ∀ (c : Fin 256) (s : State), s.live → s.otp.lcs < 3 → (tget {} s.ingests c : Ingest).owed = [] →
    let base := (regGet s .vglInBase c).toNat
    let nslot := (regGet s .vglInNslot c).toNat
    let sz := (regGet s .vglInSlotsz c).toNat
    let inOk : Prop := inPort s c / 4 = c.val / 128 ∧ inVc s c ≠ 3 ∧ 1 ≤ nslot ∧ nslot ≤ 2 ^ 24 ∧ base % 64 = 0 ∧
      1 ≤ (regGet s .vglInPitch c).toInt ∧ sz % 64 = 0 ∧ 64 ≤ sz ∧ sz ≤ 2 ^ 22 ∧ base + nslot * sz ≤ 0x10000000 ∧
      ∀ d < 256, d ≠ c.val → (regGet s .vglInStat d).getLsbD 0 = true → inPort s d = inPort s c → inSid s d = inSid s c → inVc s d ≠ inVc s c
    let len := (regGet s .vglEgLen c).toNat
    let src := (regGet s .vglEgSrc c).toNat
    let egOk : Prop := fld (regGet s .vglEgCfg c) 0 3 / 4 = c.val / 128 ∧
      (fld (regGet s .vglEgCfg c) 3 2 = 0 ∨ fld (regGet s .vglEgCfg c) 3 2 = 2) ∧ len ≤ 16384 ∧ src % 8 = 0 ∧ (len = 0 ∨ src + len ≤ 0x10000000)
    (s.serves .vglInCtrl c →
      (inOk → exec (.channelEnable (.ingest c)) s = .next (regPut s .vglInStat c (setBit (regGet s .vglInStat c) 0 true))) ∧
      (¬ inOk → ∃ t, exec (.channelEnable (.ingest c)) s = .next t ∧ t = { s with regs := t.regs, reports := t.reports } ∧
        regGet t .vglInStat c = regGet s .vglInStat c ||| 0x1000 ∧ regGet t .vglEvt 0 = regGet s .vglEvt 0 ||| 0x1000000) ∧
      (∃ t, exec (.channelDisable (.ingest c)) s = .next t ∧ (regGet t .vglInStat c).getLsbD 0 = false ∧ t.mem = s.mem ∧
        (∀ m, inHand s c = [m] → (m.fate ≠ .open ∨
            let i := (mStamp m.bytes - regGet s .vglInOrigin c).toInt.fdiv (regGet s .vglInPitch c).toInt
            0 ≤ i ∧ i < nslot ∧ mLen m.bytes + (if (regGet s .vglInCfg c).getLsbD 5 then 16 else 0) ≤ sz) →
          (regGet t .vglInStat c).getLsbD 11 = true ∧
          regGet t .vglInErrcnt c = w64 (min ((regGet s .vglInErrcnt c).toNat + 1) 0xFFFFFFFF)) ∧
        (inBusy s c = false → regGet t .vglInErrcnt c = regGet s .vglInErrcnt c))) ∧
    (s.serves .vglEgCtrl c →
      (egOk → exec (.channelEnable (.egress c)) s = .next (regPut s .vglEgStat c (setBit (regGet s .vglEgStat c) 0 true))) ∧
      (¬ egOk → ∃ t, exec (.channelEnable (.egress c)) s = .next t ∧ t = { s with regs := t.regs, reports := t.reports } ∧
        regGet t .vglEgStat c = regGet s .vglEgStat c ||| 0x400 ∧ regGet t .vglEvt 0 = regGet s .vglEvt 0 ||| 0x2000000) ∧
      exec (.channelDisable (.egress c)) s = .next (regPut s .vglEgStat c (setBit (regGet s .vglEgStat c) 0 false)))

/-- A core error (R522, R523): the machine check is reported and counted for its physical slot; below the threshold nothing more
happens to a core without a job; at the threshold the spare of the row takes over where it is free and allowed, and else
the logical slot is out of service; of memory the records of retirement alone change (R575).  A double-bit error of a control store is reported and not counted (R302). -/
def coreErrorsAreCounted : Prop :=
  ∀ (r : Fin 8) (p : Fin 9) (u : CoreUnit) (place l : Nat) (f : StoreFault) (s : State), s.live → (regGet s .dbgTrctl 0).getLsbD 0 = false →
    let k := tget 0 s.slotErrs (9 * r + p) + 1
    let cfg := regGet s .glbRasCfg 0
    let seen : Report := { src := 0x10, code := unitCode u, sev := 2, unit := 9 * r + p, info0 := w64 m64, info1 := w64 place }
    let counted := { s with reports := s.reports ++ [seen], slotErrs := tset 0 s.slotErrs (9 * r + p) k }
    (slotServed s r p = none → exec (.coreError r p u place) s = .next s) ∧
    (slotServed s r p = some l → (s.core (8 * r + l)).job = none →
      (k < max 1 (fld cfg 0 8) → exec (.coreError r p u place) s = .next counted) ∧
      (max 1 (fld cfg 0 8) ≤ k → fld (regGet s .glbRasRow r) 0 4 = 0xF → cfg.getLsbD 8 = true → l < 8 →
        ∃ t e, exec (.coreError r p u place) s = .next t ∧ t.reports = counted.reports ++ [e] ∧ e.code = 7 ∧
          regGet t .glbRasRow r = putFld (regGet s .glbRasRow r) 0 4 l ∧ tget 0xF t.retired r = regGet t .glbRasRow r ∧
          ∀ a, a < 0xF8001000 ∨ 0xF8002000 ≤ a → cellGet t.mem a = cellGet s.mem a) ∧
      (max 1 (fld cfg 0 8) ≤ k → fld (regGet s .glbRasRow r) 0 4 ≠ 0xF → l < 8 →
        ∃ t e, exec (.coreError r p u place) s = .next t ∧ t.reports = counted.reports ++ [e] ∧ e.code = 8 ∧
          (regGet t .glbRasRow r).getLsbD (4 + l) = true ∧ (regGet t .glbRasStat 0).getLsbD 16 = true)) ∧
    ((s.core f.core).job = none → exec (.controlStoreError f) s = .next { s with reports := s.reports ++
      [{ src := 0x10, code := 5, sev := 2, unit := 9 * (f.core.val / 8) + physSlot s f.core, info0 := w64 m64, info1 := w64 f.word }] })

/-- The re-run decision (R525 to R528, Table 20.3): a job whose core has an error stops; it is run again where nothing forbids
it, and else fails with the first reason that holds; a re-run starts its ranks afresh. -/
def reRunDecision : Prop :=
  ∀ (f : StoreFault) (j : Nat) (ring : Fin 8192) (q : W32) (s : State), s.live → (regGet s .dbgTrctl 0).getLsbD 0 = false →
    let n := f.core
    let x := s.job j
    let outside := x.outside || (x.cores ++ x.partners).any (outsideQueued s j)
    let d := x.bytes
    let y := s.job (jobId ring q)
    ((s.core n).job = some j → (s.core n).ended = false → n.val ∈ x.cores → d ≠ [] → x.running = true → x.err = none → x.abort = none → x.fail = none →
      x.rerun = none → x.again = false → ∃ t, exec (.controlStoreError f) s = .next t ∧ (t.core n).ended = true ∧ t.mem = s.mem ∧
      (jRestart d = false ∨ (regGet s .glbRasCfg 0).getLsbD 9 = false → (t.job j).fail = some 1 ∧ (t.job j).rerun = none) ∧
      (jRestart d = true → (regGet s .glbRasCfg 0).getLsbD 9 = true → inputsIntact s x = false → (t.job j).fail = some 2) ∧
      (jRestart d = true → (regGet s .glbRasCfg 0).getLsbD 9 = true → inputsIntact s x = true → outside = true → (t.job j).fail = some 3) ∧
      (jRestart d = true → (regGet s .glbRasCfg 0).getLsbD 9 = true → inputsIntact s x = true → outside = false →
        jobUnservable s d = false → (t.job j).fail = none ∧ (t.job j).rerun = some (2 + 16 * (n.val / 8)))) ∧
    (y.rerun.isSome = true → y.again = false → y.err = none → y.abort = none → y.fail = none → jobOver s (jobId ring q) y = true →
      exec (.jobRerun ring q) s = .next (s.setJob (jobId ring q) { y with
        again := true, running := false, ranks := [], pranks := [], outside := false, shadow := [], stamped := jPblk y.bytes == 0 })) ∧
    (y.rerun = none ∨ y.again = true → exec (.jobRerun ring q) s = .next s)

/-- Errors of a row, of the device and of the die bridge (R529 to R531): a row that passes its test is reset and goes on; a device
error is logged and degrades the device, and where records are impossible the Racking Engine makes none any more; a retraining of the bridge that succeeds starts its direction again, and after one that
failed the direction stays stopped whatever comes (R530). -/
def rowDeviceAndBridgeErrors : Prop :=
  ∀ (r : Fin 8) (u : DeviceUnit) (s : State), s.live →
    ((regGet s .glbRasCfg 0).getLsbD 10 = true → s.jobs = [] → ∃ t, exec (.rowError r true) s = .next t ∧
      t.reports = s.reports ++ [{ src := 0x12, code := 1, sev := 2, unit := r, info0 := w64 r, info1 := 0 }] ∧ t.mem = s.mem ∧
      (∀ n, n / 8 = r.val → t.core n = { reserved := (s.core n).reserved, off := (s.core n).off, freeAt := s.tick } ∧
        regGet t .rowIpend n = 0 ∧ regGet t .rowIen n = 0) ∧ ∀ n, n < 64 → n / 8 ≠ r.val → t.core n = s.core n) ∧
    (s.jobs = [] → s.rings = [] → s.sec.op ≠ some .update → exec (.deviceError u true) s = .next { regPut s .glbRasStat 0 0x10000 with
      reports := s.reports ++ [{ src := 0x15, code := 1, sev := 3, info0 := w64 (deviceUnitCode u) }] }) ∧
    (s.jobs = [] → s.sec.op ≠ some .update → exec (.deviceError u false) s = .next { regPut s .glbRasStat 0 0x10000 with
      power := { s.power with rkDead := true }
      reports := s.reports ++ [{ src := 0x15, code := 1, sev := 3, info0 := w64 (deviceUnitCode u) }] }) ∧
    (∀ ok, (s.bridge 0).stopped = false → (s.bridge 1).stopped = false → exec (.bridgeRetrainDone ok) s = .next s) ∧
    ((s.bridge 0).stopped = true → (s.bridge 1).stopped = false → (s.bridge 0).failed = false → s.raises = [] → s.objLate = [] →
      ∃ t, exec (.bridgeRetrainDone true) s = .next t ∧ t.bridge 0 = { s.bridge 0 with stopped := false, fails := 0 } ∧
      t.bridge 1 = s.bridge 1 ∧ t = { s with reports := t.reports, bridges := t.bridges } ∧
      t.reports = s.reports ++ [{ src := 0x14, code := 1, sev := 1, info0 := 0, info1 := w64 (s.bridge 0).fails }]) ∧
    ((s.bridge 0).stopped = true → (s.bridge 1).stopped = false → (s.bridge 0).failed = false → ∃ t,
      exec (.bridgeRetrainDone false) s = .next t ∧ t.bridge 0 = { s.bridge 0 with failed := true } ∧ t.bridge 1 = s.bridge 1 ∧
      (regGet t .glbRasStat 0).getLsbD 16 = true ∧ t.mem = s.mem) ∧
    (∀ ok, (s.bridge 0).stopped = true → (s.bridge 0).failed = true → exec (.bridgeRetrainDone ok) s = .next s)

/-- The event log (R532 to R534, Table 20.4): the oldest report becomes a 32-byte entry at its place in MRAM, with the time and its
number, and GLB_RAS_LOGNEXT gains 1; no report, no entry. -/
def eventLogTakesReports : Prop :=
  ∀ (x : Report) (rest : List Report) (s : State), s.live →
    let e := (regGet s .glbRasLognext 0).toNat
    let irq := regGet s .glbRasIrq 0
    (s.reports = [] → exec .eventLogEntry s = .next s) ∧
    (s.reports = x :: rest → e < 2 ^ 32 → ∃ t, exec .eventLogEntry s = .next t ∧ t.reports = rest ∧
      t.mem = bytesPut s.mem (0xF8100000 + 32 * (e % 32768)) (leBytes (s.die 0).ax0.toNat 8 ++ leBytes e 4 ++ leBytes x.src 1 ++
        leBytes x.code 1 ++ leBytes x.sev 1 ++ leBytes x.unit 1 ++ leBytes x.info0.toNat 8 ++ leBytes x.info1.toNat 8) ∧
      regGet t .glbRasLognext 0 = w64 ((e + 1) % 2 ^ 32) ∧
      t.msixReq = (if irq.getLsbD 11 = true ∧ fld irq 12 2 ≤ x.sev then s.msixReq ++ [s.msixMsg (fld irq 0 11)] else s.msixReq))

/-- Loading user microcode (R295 to R298): with no core serving a job the image is read and checked; a failed read, a bad header, a
bad CRC and a bad word end the load with their code, leaving the user area as it was; a good image replaces all of it; an image behind a
stopped bridge waits (R530, log entry 126).  A CLEAR leaves the empty fill. -/
def microcodeLoadsAndClears : Prop :=
  ∀ (ce ue : List Nat) (s : State), s.live → s.serves .glbMcUctrl 0 → (regGet s .glbMcUstat 0).getLsbD 0 = false → coresIdle s = true →
    let a := (regGet s .glbMcUaddr 0).toNat
    let s1 := mcStart s 0
    let chk : Check := { ce, ue }
    let failed (code at_ : Nat) : Prop := ∃ t, exec (.microcodeLoad ce ue) s = .next t ∧ t.ustore = s.ustore ∧ regGet t .glbMcUctrl 0 = 0 ∧
      regGet t .glbMcUstat 0 = w64 (4 + 256 * code) ∧ regGet t .glbMcUerra 0 = w64 at_
    (bridgeHolds s1 mCellarer a 64 = true → exec (.microcodeLoad ce ue) s = .next s1) ∧
    (bridgeDown s = false → ∀ s2 e1 h, readSpan s1 { master := mCellarer, level := 2 } a 64 chk = (s2, e1, h) →
      (e1.isSome = true → failed 3 0) ∧
      (e1 = none → (uHead h).ok = false → failed 1 0) ∧
      (e1 = none → (uHead h).ok = true → ∀ s3 e2 bs, readSpan s2 { master := mCellarer, level := 2 } (a + 64) (20 * (uHead h).nwords) chk = (s3, e2, bs) →
        let ws := wordsOf bs (uHead h).nwords
        (e2.isSome = true → failed 3 0) ∧
        (e2 = none → crc32 bs ≠ w32 (uHead h).crc → failed 2 0) ∧
        (e2 = none → crc32 bs = w32 (uHead h).crc → ∀ at_ code, firstBad (uHead h).first ws = some (at_, code) → failed code at_) ∧
        (e2 = none → crc32 bs = w32 (uHead h).crc → firstBad (uHead h).first ws = none → ∃ t, exec (.microcodeLoad ce ue) s = .next t ∧
          t.ustore = storeWords (uHead h).first ws ∧ regGet t .glbMcUctrl 0 = 0 ∧ regGet t .glbMcUstat 0 = 2 ∧
          fld (regGet t .glbMcVer 0) 0 16 = (uHead h).utag % 65536 ∧ regGet t .glbMcUcrc 0 = w64 (uHead h).crc))) ∧
    (∃ t, exec .microcodeClear s = .next t ∧ t.ustore = [] ∧ (∀ k : Fin 2048, uWord t (0x3800 + k.val) = emptyFill) ∧ regGet t .glbMcUctrl 0 = 0 ∧
      regGet t .glbMcUcrc 0 = 0 ∧ fld (regGet t .glbMcVer 0) 0 16 = 0 ∧ (regGet t .glbMcUstat 0).getLsbD 0 = false)

/-- Both Vaults hold zero (R550). -/
abbrev vaultsWiped (t : State) : Prop := ∀ a, 0xFA000000 ≤ a → a < 0xFA200000 → cellGet t.mem a = 0

/-- Secure boot (R542): for each KIND the valid image with the higher VERSION runs, slot A where they are equal; without a Monitor
none of the others runs; a KIND of which none runs leaves the device in recovery.  Here where no image that runs revokes a key. -/
def secureBootChoosesImages : Prop :=
  ∀ s : State, s.live →
    (s.sec.booted = true ∨ fld (regGet s .pwrBoot 0) 0 3 ≠ 1 ∨ s.otp.lcs = 4 → exec .secureBoot s = .next s) ∧
    (s.sec.booted = false → fld (regGet s .pwrBoot 0) 0 3 = 1 → s.otp.lcs ≠ 4 →
      (∀ k ∈ [1, 2, 3], ∀ b ∈ [0, 1], slotValid s k b = true → Config.revokes (imgBody (slotBytes s k b)) = 0) →
      ∃ t, exec .secureBoot s = .next t ∧ t.sec.booted = true ∧ t.mem = s.mem ∧ t.otp = s.otp ∧
      (∀ k ∈ [1, 2, 3], fld (regGet t .secBootstat 0) (2 * (k - 1)) 2 =
        if slotValid s 1 0 = false ∧ slotValid s 1 1 = false then 3 else
        (match slotValid s k 0, slotValid s k 1 with
         | true, true => if (imgVersion (slotBytes s k 0)).toNat < (imgVersion (slotBytes s k 1)).toNat then 1 else 0
         | true, false => 0
         | false, true => 1
         | false, false => 3)) ∧
      ((regGet t .secBootstat 0).getLsbD 12 = true ↔ ∃ k ∈ [1, 2, 3], slotValid s k 0 = false ∧ slotValid s k 1 = false))

/-- ATTEST and COMMIT (R543, R546, R555, Table 21.3): the report's words hold the identity and state of the device, and the report count
gains 1; COMMIT raises each rollback counter to the SVN that runs and never lowers one.  A scrapped device, and one that runs no
Monitor, refuses both with code 7.  A block that is busy with another command
ignores them. -/
def attestAndCommit : Prop :=
  ∀ s : State, s.live → s.serves .secCmd 0 →
    ((regGet s .secCmdstat 0).getLsbD 0 = true → (∀ c ∈ [Instr.attest, .commit], s.sec.op ≠ some .attest → s.sec.op ≠ some .commit →
      exec c s = .next s)) ∧
    ((regGet s .secCmdstat 0).getLsbD 0 = false → s.otp.lcs = 4 ∨ noMonitor s = true → ∀ c ∈ [Instr.attest, .commit],
      exec c s = .next (regPut { s with sec := { s.sec with op := none } } .secCmdstat 0 0x704)) ∧
    ((regGet s .secCmdstat 0).getLsbD 0 = false → s.otp.lcs ≠ 4 → noMonitor s = false →
      (∃ t, exec .attest s = .next t ∧ t = { s with regs := t.regs, sec := { s.sec with op := none, count := s.sec.count + 1 } } ∧
        regGet t .secCmdstat 0 = 2 ∧ ∀ i < 56, regGet t .secReport i = w64 (leWord (reportBody s) (4 * i) 4)) ∧
      (∃ t, exec .commit s = .next t ∧ t = { s with regs := t.regs, sec := { s.sec with op := none }, otp := t.otp } ∧
        regGet t .secCmdstat 0 = 2 ∧ t.otp = { s.otp with rbc := t.otp.rbc } ∧
        ∀ k ∈ [1, 2, 3], tget 0 t.otp.rbc k = max (tget 0 s.otp.rbc k) (tget 0 s.sec.svn k)))

/-- UPDATE and RECOVER (R544, R545): a failed read is code 1 and a bad image its own code, with nothing written; a good image goes to
the slot that does not run, at once or part by part, and the device switches to it as soon as no core serves a job; RECOVER works in recovery alone, holds
a bay for the image as owner 0xA, and resets the device.  Here an image of no more than SEC_ARGLEN bytes. -/
def updateAndRecover : Prop :=
  ∀ (i : List Byte) (s : State), s.live → s.serves .secCmd 0 → s.otp.lcs ≠ 4 →
    (∀ k c off bs, (regGet s .secCmdstat 0).getLsbD 0 = true → s.sec.switch = none → s.sec.slot = some (k, c, off, bs) →
      s.sec.op = some .update → ∃ t, exec (.update {}) s = .next t ∧ t.mem = bytesPut s.mem (slotAddr k c + off) bs ∧ t.sec.slot = none) ∧
    ((regGet s .secCmdstat 0).getLsbD 0 = false → i.length ≤ (regGet s .secArglen 0).toNat →
    let idle := { s with sec := { s.sec with op := none } }
    let kind := imgKind i
    let ended (e : Nat) := (.next (regPut idle .secCmdstat 0 (w64 (4 + 256 * e))) : Result)
    let b := if fld (regGet s .secBootstat 0) (2 * (kind - 1)) 2 = 0 then 1 else 0
    (s.sec.switch = none → s.sec.slot = none → (regGet s .secBootstat 0).getLsbD 12 = false →
      exec (.update {}) s = ended 1 ∧ exec (.recover (some i)) s = ended 7 ∧
      (∀ e, imgCode s i = some e → exec (.update { image := some i }) s = ended e) ∧
      (∀ k, imgCode s i = none → k < 384 + imgLen i → k < i.length → ∃ t, exec (.update { image := some i, most := some k }) s = .next t ∧
        t.mem = bytesPut s.mem (slotAddr kind b) (i.take k) ∧ regGet t .secCmdstat 0 = 1 ∧
        t.sec.slot = some (kind, b, k, (i.take (384 + imgLen i)).drop k) ∧ t.sec.switch = none) ∧
      (imgCode s i = none → ∃ t, exec (.update { image := some i }) s = .next t ∧ t.mem = bytesPut s.mem (slotAddr kind b) (i.take (384 + imgLen i)) ∧
        t.otp = { s.otp with revoked := t.otp.revoked } ∧
        (coresIdle s = true → regGet t .secCmdstat 0 = 2 ∧ t.sec.switch = none ∧ fld (regGet t .secBootstat 0) (2 * (kind - 1)) 2 = b ∧
          tget 0 t.sec.version kind = imgVersion (slotBytes t kind b) ∧ t.power.paused = mcBusy s) ∧
        (coresIdle s = false → regGet t .secCmdstat 0 = 1 ∧ t.sec.switch = some (kind, b) ∧ t.power.paused = true))) ∧
    ((regGet s .secBootstat 0).getLsbD 12 = true →
      exec (.recover none) s = ended 1 ∧ (s.sec.switch = none → s.sec.slot = none → exec (.update { image := some i }) s = ended 7) ∧
      (∀ e, imgCode s i = some e → ∃ t, exec (.recover (some i)) s = .next t ∧ (∀ a, 2 ^ 28 ≤ a → cellGet t.mem a = cellGet s.mem a) ∧
        t = { idle with regs := t.regs, mem := t.mem, bays := t.bays, poison := t.poison } ∧ regGet t .secCmdstat 0 = w64 (4 + 256 * e) ∧
        ∃ b < 64, (t.bay b).owner = 0xA ∧ ∀ k, k ≠ b → t.bay k = s.bay k) ∧
      (imgCode s i = none → (runningSlot s 1 ≠ 3 ∨ kind = 1) → ∃ t, exec (.recover (some i)) s = .next t ∧
        let c := if slotValid s kind 0 = false then 0 else if slotValid s kind 1 = false then 1 else 0
        (∀ a, 2 ^ 28 ≤ a → cellGet t.mem a =
          if a < hbmBase then cellGet (bytesPut s.mem (slotAddr kind c) (i.take (384 + imgLen i))) a else 0) ∧
        regGet t .pwrBoot 0 = 0x300 ∧ t.otp = s.otp ∧ t.cores = [])))

/-- Life-cycle changes (R547, R548, Table 21.4): a transition the table allows ends the running jobs with DETAIL 0x08, and once no job
is left wipes the Vaults, blows the fuses and resets the device; the return to DEVELOPMENT needs a valid authorisation; any other
request is refused with code 6, and every one with code 7 while no Monitor runs. -/
def lifeCycleTransitions : Prop :=
  ∀ (auth : HostImage) (j : Nat) (s : State), s.live → s.serves .secCmd 0 →
    let a := s.otp.lcs
    let b := fld (regGet s .secArglen 0) 0 3
    let busy := (regGet s .secCmdstat 0).getLsbD 0
    let allowed : Prop := (a, b) ∈ [(0, 1), (0, 2), (1, 2), (1, 4), (2, 3), (2, 4), (3, 4)]
    let granted : Prop := allowed ∨ a = 2 ∧ b = 1 ∧ ∃ x, auth = some x ∧ Config.authorised (x.take 192) = true
    let ended (e : Nat) : Result := .next
      (regPut { s with sec := { s.sec with op := none } } .secCmdstat 0 (w64 (4 + 256 * e)))
    let moved (t : State) (k : Nat) : Prop := t.otp.lcs = k ∧ t.otp.rbc = s.otp.rbc ∧ vaultsWiped t ∧ t.cores = [] ∧ t.rings = [] ∧
      regGet t .pwrBoot 0 = 0x300 ∧ t.sec.move = none
    (busy = false → s.sec.move = none → noMonitor s = false →
      (granted → s.jobs = [] → ∃ t, exec (.lcreq auth) s = .next t ∧ moved t b) ∧
      (granted → j ∈ tkeys s.jobs → (s.job j).running = true → (s.job j).bytes ≠ [] → ∃ t, exec (.lcreq auth) s = .next t ∧
        t.sec.move = some b ∧ t.otp = s.otp ∧ t.mem = s.mem ∧ regGet t .secCmdstat 0 = 1 ∧
        ((s.job j).clear = true → (t.job j).fail = some 8)) ∧
      (¬ allowed → (a ≠ 2 ∨ b ≠ 1) → exec (.lcreq auth) s = ended 6) ∧
      (a = 2 → b = 1 → auth = none → exec (.lcreq auth) s = ended 1) ∧
      (a = 2 → b = 1 → ∀ x, auth = some x → Config.authorised (x.take 192) = false → exec (.lcreq auth) s = ended 6)) ∧
    (busy = false → s.sec.move = none → noMonitor s = true → exec (.lcreq auth) s = ended 7) ∧
    (∀ k, busy = true → s.sec.op = some .lcreq → s.sec.move = some k →
      (s.jobs = [] → ∃ t, exec (.lcreq auth) s = .next t ∧ moved t k) ∧ (s.jobs ≠ [] → exec (.lcreq auth) s = .next s))

/-- Tamper (R551 to R553): a detection wipes the Vaults, is counted, and has the response that RESP names: none, a device error, or
a device error after which the device is held in reset until PORST_N, 100 µs after the event at the latest; TAMPER_N acts only with PINEN.  LOCK holds until a reset by PORST_N; the shield cap takes the
value asked for (R554). -/
def tamperAndShieldCap : Prop :=
  ∀ (src : Fin 4) (q : W16) (tp : BitVec 64) (lv : BitVec 16) (inputs : PadInputs) (s : State),
    let cfg := regGet s .secTampcfg 0
    (s.power.porst = false → src = 0 → cfg.getLsbD 0 = false → exec (.tamperDetect src) s = .next s) ∧
    (s.power.porst = false → (src = 0 → cfg.getLsbD 0 = true) → ∃ t, exec (.tamperDetect src) s = .next t ∧ vaultsWiped t ∧
      (regGet t .secTampstat 0).getLsbD src = true ∧
      regGet t .secTampcnt 0 = w64 (min ((regGet s .secTampcnt 0).toNat + 1) 0xFFFFFFFF) ∧
      (src = 0 → t.sec.held = true) ∧ (fld cfg 1 2 = 0 ∨ inReset s = true → t.reports = s.reports ∧ t.cores = s.cores ∧ t.jobs = s.jobs) ∧
      (inReset s = false → 1 ≤ fld cfg 1 2 → (regGet t .glbRasStat 0).getLsbD 16 = true) ∧
      (inReset s = false → fld cfg 1 2 = 1 → t.sec.holdDue = s.sec.holdDue) ∧
      (inReset s = false → 2 ≤ fld cfg 1 2 → t.sec.holdDue = some (s.sec.holdDue.getD s.tick))) ∧
    (∀ t0, s.live → s.sec.holdDue = some t0 → t0 + 50000 ≤ s.tick → ∃ t, exec (.axclkTick tp lv inputs) s = .next t ∧
      t.sec.hold = true ∧ inReset t = true ∧ t.cores = [] ∧ t.rings = [] ∧ regGet t .pwrBoot 0 = 0x300) ∧
    (s.power.porst = false → exec .tamperNRelease s = .next { s with sec := { s.sec with held := false } }) ∧
    (s.live → s.serves .secTampcfg 0 → exec .tamperLock s = .next (regPut s .secTampcfg 0 (setBit cfg 3 true))) ∧
    (s.live → s.serves .secShcap 0 → exec (.shieldCapRequest q) s = .next (regPut s .secShcap 0 (w64 (q.toNat * 65537))))

/-- Operating points (R560, R561): a request sets REQ; the goal is the lower of REQ and the thermal limit; a change begins unless
one is in progress or the goal is in force, and ends at its own goal, where the next one may begin. -/
def operatingPointChanges : Prop :=
  ∀ (req : Fin 4) (s : State), s.live →
    let opp := regGet s .pwrOpp 0
    let cur := fld opp 4 2
    let busy := opp.getLsbD 7
    let q := if req = 3 then fld opp 0 2 else req.val
    let hot (q c : Nat) : Prop := c < q ∧ (s.power.thermal < q ∨ opp.getLsbD 6 = true ∧ c = cur)
    let value (q c : Nat) (busy : Prop) (v : W64) : Prop := fld v 0 2 = q ∧ fld v 4 2 = c ∧ (v.getLsbD 6 = true ↔ hot q c) ∧
      (v.getLsbD 7 = true ↔ busy) ∧ v &&& ~~~ 0xF3 = 0
    (s.serves .pwrOpp 0 → busy = true → ∃ t, exec (.oppRequest req) s = .next t ∧ t = { s with regs := t.regs } ∧ value q cur True (regGet t .pwrOpp 0)) ∧
    (s.serves .pwrOpp 0 → busy = false → ∃ t, exec (.oppRequest req) s = .next t ∧ t = { s with regs := t.regs, power := t.power } ∧
      value q cur (min q s.power.thermal ≠ cur) (regGet t .pwrOpp 0) ∧
      t.power = { s.power with oppGoal := if min q s.power.thermal = cur then s.power.oppGoal else min q s.power.thermal }) ∧
    (opp.getLsbD 7 = false → exec .oppSwitchDone s = .next s) ∧
    (opp.getLsbD 7 = true → s.power.oppGoal < 3 → ∃ t, exec .oppSwitchDone s = .next t ∧
      t = { s with regs := t.regs, power := t.power } ∧
      value (fld opp 0 2) s.power.oppGoal (min (fld opp 0 2) s.power.thermal ≠ s.power.oppGoal) (regGet t .pwrOpp 0))

/-- Throttling (R562, R592): a sensor at 100 °C lowers the limit by one step and sets the event; below 95 °C it rises by one; THERM_N is
driven in every state of the device. -/
def throttleSteps : Prop :=
  ∀ (temps : Temps) (s : State),
    let hot := hottestOf s temps
    let opp := regGet s .pwrOpp 0
    let base := min s.power.thermal (if opp.getLsbD 7 then s.power.oppGoal else fld opp 4 2)
    (s.power.porst = false → hot.toInt < 100 ∨ base = 0 → exec (.thermalThrottle temps) s = .next s) ∧
    (s.power.porst = false → 100 ≤ hot.toInt → base ≠ 0 → ∃ t, exec (.thermalThrottle temps) s = .next t ∧ t.power.thermal = base - 1 ∧
      regGet t .pwrEvt 0 = regGet s .pwrEvt 0 ||| 4 ∧ t = { s with regs := t.regs, reports := t.reports, power := t.power }) ∧
    (s.power.porst = false → 95 ≤ hot.toInt ∨ 2 ≤ s.power.thermal → exec (.throttleRelease temps) s = .next s) ∧
    (s.power.porst = false → hot.toInt < 95 → s.power.thermal < 2 → ∃ t, exec (.throttleRelease temps) s = .next t ∧ t.power.thermal = s.power.thermal + 1 ∧
      t = { s with regs := t.regs, reports := t.reports, power := t.power }) ∧
    exec .thermNAssert s = .next { s with power := { s.power with thermN := true } } ∧
    exec .thermNRelease s = .next { s with power := { s.power with thermN := false } }

/-- DOZE of one die (R563, R564): refused with its reasons where Table 22.3 names one, and else entered: the cores of the die are OFF,
and AX0 at entry is kept. -/
def dozeIsEnteredOrRefused : Prop :=
  ∀ (d : Fin 2) (s : State), s.live → s.serves .pwrDoze 0 → (s.die d).doze = false →
    ∃ t, exec (.dozeRequest (if d = 0 then 1 else 2)) s = .next t ∧ t.mem = s.mem ∧ t.die (1 - d.val) = s.die (1 - d.val) ∧
      fld (regGet t .pwrDozestat 0) (4 + 8 * d) 5 = dozeBars s d ∧
      (dozeBars s d ≠ 0 → (t.die d) = s.die d ∧ (regGet t .pwrEvt 0).getLsbD 0 = true ∧ t.cores = s.cores) ∧
      (dozeBars s d = 0 → (t.die d).doze = true ∧ (t.die d).entryAx0 = (s.die d).ax0 ∧ (regGet t .pwrDoze 0).getLsbD d = true ∧
        (regGet t .pwrDozestat 0).getLsbD d = true ∧ ∀ n, n / 32 = d.val → (t.core n).off = true)

/-- The end of DOZE (R70, R565, R566): by a wake write, by WAKE_N where PINEN is 1, or when PWR_WAKETIME is not 0 and has passed.  AX0 is
the other die's while that runs, and else the value at entry plus the measured time, with JUMP.  A temperature sample enters the
correction of the time. -/
def dozeEnds : Prop :=
  ∀ (d : Fin 2) (e0 n e1 : Nat) (temps : Temps) (s : State), s.live →
    let hot := hottestOf s temps
    let x := s.die d
    let y := s.die (1 - d.val)
    let ns := dozeNs x e0 n e1
    let wakeTime := (regGet s .pwrWaketime 0).toNat
    (∀ w ∈ [(Instr.dozeWake d e0 n e1, reaches s (regOff .pwrDoze 0)), (.wakePin d e0 n e1, (regGet s .pwrWake 0).getLsbD 0),
        (.wakeTimeExpiry d e0 n e1, decide (wakeTime ≠ 0 ∧ wakeTime ≤ n))], w.2 = true →
      (x.doze = false → exec w.1 s = .next s) ∧
      (x.doze = true → ∃ t, exec w.1 s = .next t ∧ (t.die d).doze = false ∧ t.die (1 - d.val) = y ∧ t.cores = s.cores ∧
        (regGet t .pwrDoze 0).getLsbD d = false ∧ (regGet t .pwrDozestat 0).getLsbD d = false ∧ regGet t .pwrDozetime 0 = w64 ns ∧
        (regGet t .pwrEvt 0).getLsbD 1 = true ∧
        (y.doze = false → (t.die d).ax0 = y.ax0) ∧
        (y.doze = true → (t.die d).ax0 = x.entryAx0 + w64 (ns * 65536) ∧ (t.die d).ax0jump = true))) ∧
    (x.samples ≠ 0 → ns = (((((n : Int) * 30517578125 * (1000000000 - x.corr.tdiv x.samples)).tdiv 1000000000000000 +
      40 * ((e0 : Int) + e1)) % 2 ^ 64).toNat / 2 * 2)) ∧
    (x.doze = true → exec (.dozeTemperatureSample d temps) s = .next (s.setDie d
      { x with samples := x.samples + 1, corr := x.corr + (x.slowtrim + x.tca * (hot.toInt - 25) +
        (x.tcb * (hot.toInt - 25) * (hot.toInt - 25)).tdiv 256) })) ∧
    (x.doze = false → exec (.dozeTemperatureSample d temps) s = .next s)

/-- Power of a core (R558): an idle unreserved core goes OFF after its time where the host allows it, and loses the state that a job start
sets, a pending interrupt among it; a core reserved for a job comes back once its row is in RUN and its die awake. -/
def corePowerGating : Prop :=
  ∀ (n : Fin 64) (s : State), s.live →
    let c := s.core n
    let cfg := regGet s .pwrCorecfg 0
    let idle : Prop := cfg.getLsbD 0 = true ∧ (c.job = none ∨ c.ended = true) ∧ c.reserved = none ∧ c.off = false ∧ c.sb = [] ∧ c.wq = [] ∧
      c.freeAt + 500 * fld cfg 4 12 ≤ s.tick
    (idle → exec (.coreAutoOff n) s =
      .next (regPut (s.setCore n { off := true, freeAt := s.tick, haltPend := c.haltPend }) .rowIpend n 0)) ∧
    (¬ idle → exec (.coreAutoOff n) s = .next s) ∧
    (c.off = true → c.reserved ≠ none → (s.row (n / 8)).power = .run → (s.row (n / 8)).goal = .run →
      (s.die (n / 32)).doze = false → exec (.coreWake n) s = .next (s.setCore n { c with off := false })) ∧
    (c.off = false ∨ (s.die (n / 32)).doze = true ∨ (s.row (n / 8)).power ≠ .run ∨ (s.row (n / 8)).goal ≠ .run → exec (.coreWake n) s = .next s)

/-- Power of a row (R559, Table 22.1): a field of a write asks for RUN, RET or OFF; RET and OFF are refused while a core of the row is
bound, OFF also while a bay of its slice is owned; an accepted request takes the row's cores OFF and its bays to RET; the change ends in
the state asked for, and OFF loses the slice's contents; a job that has reserved a core of a row in RET, or bound there, wakes it, and
meanwhile a change to RET does not end. -/
def rowPowerChanges : Prop :=
  ∀ (r : Fin 8) (v : W16) (s : State), s.live →
    let x := s.row r
    let g := fld v (2 * r) 2
    let bound : Prop := ∃ k < 8, coreBound s (8 * r + k) = true
    let owned : Prop := ∃ k < 8, (s.bay (8 * r + k)).owner ≠ 0xF
    let pw := regGet s .pwrRowpwr 0
    (s.serves .pwrRowpwr 0 → (∀ k < 8, k ≠ r.val → fld v (2 * k) 2 = 3) →
    (g = 3 → exec (.rowPowerRequest v) s = .next s) ∧
    (g = 0 → x.goal ≠ .run → ∃ t, exec (.rowPowerRequest v) s = .next t ∧ t = { s with regs := t.regs, rows := t.rows, bays := t.bays } ∧
      regGet t .pwrRowpwr 0 = putFld pw (2 * r) 2 0 ∧ t.row r = { x with goal := .run } ∧ (x.power ≠ .run → t.bays = s.bays) ∧
      (x.power = .run → ∀ k < 8, (t.bay (8 * r + k)).rowP = .on)) ∧
    (g = 1 ∧ bound ∨ g = 2 ∧ (bound ∨ owned) →
      exec (.rowPowerRequest v) s = .next (regSetBits s .pwrEvt 0 16)) ∧
    (∀ e ∈ [(1, RowPower.ret), (2, RowPower.off)], g = e.1 → x.goal ≠ e.2 → ¬ bound → (e.1 = 2 → ¬ owned) →
      ∃ t, exec (.rowPowerRequest v) s = .next t ∧ t.row r = { x with goal := e.2 } ∧ t.mem = s.mem ∧
        regGet t .pwrRowpwr 0 = putFld pw (2 * r) 2 e.1 ∧
        (∀ k < 8, (t.core (8 * r + k)).off = true ∧ t.bay (8 * r + k) = { s.bay (8 * r + k) with rowP := .ret }) ∧
        (∀ n, n / 8 ≠ r.val → t.core n = s.core n))) ∧
    (x.goal ≠ x.power → ¬ (x.goal = .ret ∧ bound) → ∃ t, exec (.rowPowerTransitionEnd r) s = .next t ∧
      t.row r = { x with power := x.goal } ∧ t.cores = s.cores ∧ t.regs = s.regs ∧
      (∀ k < 8, (t.bay (8 * r + k)).rowP = (if x.goal = .run then .on else if x.goal = .ret then .ret else .off)) ∧
      (∀ a, cellGet t.mem a = if (x.goal = .off ∨ x.power = .off) ∧ r.val * 2 ^ 25 ≤ a ∧ a < (r.val + 1) * 2 ^ 25 then 0 else cellGet s.mem a)) ∧
    (x.goal = x.power ∨ x.goal = .ret ∧ bound → exec (.rowPowerTransitionEnd r) s = .next s) ∧
    (x.power = .ret ∨ x.goal = .ret → (∃ k < 8, (s.core (8 * r + k)).reserved ≠ none) → ∃ t, exec (.rowWake r) s = .next t ∧
      t = { s with rows := t.rows, bays := t.bays } ∧ t.row r = { x with power := .run, goal := .run } ∧ ∀ k < 8, (t.bay (8 * r + k)).rowP = .on)

/-- A warm device reset (R572, Table 22.7): it ends all that runs and clears the registers, and keeps OTP, MRAM, the retirements, the
link and its MSI-X table; LASTRST names its cause.  PERST_N resets by its strapped scope. -/
def warmResetScope : Prop :=
  ∀ s : State, s.live → s.sec.holdDue = none →
    let kept (t : State) (last : Nat) : Prop := t.live ∧ t.otp = s.otp ∧ t.retired = s.retired ∧ t.slotErrs = s.slotErrs ∧
      (∀ a, cellGet t.mem a = if a < hbmBase then cellGet s.mem a else 0) ∧ regGet t .pwrBoot 0 = w64 (256 * last) ∧
      regGet t .pwrStrap 0 = regGet s .pwrStrap 0 ∧ t.cores = [] ∧ t.rings = [] ∧ t.jobs = [] ∧ t.axes = [] ∧ t.alarms = [] ∧
      t.ports = [] ∧ t.reports = [] ∧ t.tick = 0 ∧ t.link.reads = [] ∧ t.pending = s.pending
    let link (t : State) : Prop := t.msix = s.msix ∧ t.pba = s.pba ∧ t.link.rate = s.link.rate ∧ t.link.width = s.link.width ∧
      t.link.flit = s.link.flit ∧ t.link.cfg = s.link.cfg ∧ t.link.mse = s.link.mse ∧ t.link.bme = s.link.bme
    (s.serves .pwrRst 0 → ∃ t, exec (.warmDeviceReset .pwrRst) s = .next t ∧ kept t 1 ∧ link t) ∧
    (∃ t, exec (.warmDeviceReset .monitor) s = .next t ∧ kept t 3 ∧ link t) ∧
    ((regGet s .pwrStrap 0).getLsbD 0 = true → ∃ t, exec (.warmDeviceReset .perst) s = .next t ∧ kept t 2 ∧ t.msix = [] ∧
      t.link.mse = false ∧ t.link.rate = 0 ∧ t.link.width = 0) ∧
    ((regGet s .pwrStrap 0).getLsbD 0 = false → ∃ t, exec (.warmDeviceReset .perst) s = .next t ∧ t.otp = s.otp ∧ t.msix = [] ∧
      t.link.mse = false ∧ t.axes = s.axes)

/-- The reset of a row (R573): its cores lose what they hold and its bit in PWR_ROWRST clears.  Here with no job on the row. -/
def rowResetEnds : Prop :=
  ∀ (r : Fin 8) (s : State), s.live → s.serves .pwrRowrst 0 →
    (∀ e ∈ s.jobs, ∀ n ∈ e.2.cores ++ e.2.partners, n / 8 ≠ r.val) → ∃ t, exec (.rowReset r) s = .next t ∧
      (t.row r).inReset = false ∧ (regGet t .pwrRowrst 0).getLsbD r = false ∧ t.mem = s.mem ∧
      (∀ n, n / 8 ≠ r.val → t.core n = s.core n) ∧
      ((regGet s .pwrRowrst 0).getLsbD r = false → (s.row r).power = .run → ∀ n, n / 8 = r.val →
        t.core n = { reserved := (s.core n).reserved, off := (s.core n).off, freeAt := s.tick })

/-- The stages of boot (R574 to R577): the calibration page, or its defaults where it is not valid; the wait for the verified images;
the retirements; the training of HBM; and the report that boot is over.  Nothing follows stage 5. -/
def bootStages : Prop :=
  ∀ s : State, s.live →
    let k := fld (regGet s .pwrBoot 0) 0 3
    let stage (t : State) (j : Nat) : State := regPut t .pwrBoot 0 (putFld (regGet s .pwrBoot 0) 0 3 j)
    let page := bytesGet s.mem 0xF8000000 4096
    (k = 0 → ∃ t, exec .bootStage s = .next t ∧ t = { s with regs := t.regs, link := t.link } ∧ fld (regGet t .pwrBoot 0) 0 3 = 1 ∧
      t.link = (if fld (regGet s .pwrBoot 0) 8 3 = 0 then { s.link with cfg := { s.link.cfg with subsys := regGet32 t .calPage 2 } } else s.link) ∧
      (regGet t .calStat 0).getLsbD 0 = !calValid page ∧
      ∀ i < 1024, regGet t .calPage i = w64 (leWord (if calValid page = true then page else (List.range 4096).map calDefault) (4 * i) 4)) ∧
    (k = 1 → s.sec.booted = true → s.otp.lcs ≠ 4 → exec .bootStage s = .next (stage s 2)) ∧
    (k = 1 → s.sec.booted = false → exec .bootStage s = .next s) ∧
    (k = 2 → (regGet s .secBootstat 0).getLsbD 12 = true → exec .bootStage s = .next s) ∧
    (k = 2 → (regGet s .secBootstat 0).getLsbD 12 = false → ∃ t, exec .bootStage s = .next t ∧ t = { s with regs := t.regs, retired := retiredAtBoot s } ∧
      fld (regGet t .pwrBoot 0) 0 3 = 3 ∧ ∀ r < 8, regGet t .glbRasRow r = tget 0xF (retiredAtBoot s) r) ∧
    (k = 3 → (regGet s .hbmStat 0).getLsbD 0 = false → fld (regGet s .hbmStat 0) 0 8 ≠ 0 → exec .bootStage s = .next (stage s 4)) ∧
    (k = 4 → (∀ x ∈ s.link.out, x.sent = true) → exec .bootStage s = .next { stage s 5 with reports := s.reports ++
      [{ src := 0x15, code := 2, sev := 0, info0 := (tget (0 : W32) s.sec.version 1).setWidth 64 }] }) ∧
    (5 ≤ k → exec .bootStage s = .next s)

/-- Clocks and calibration (R568, R578): SYSCLK that is lost is a clock tamper and holds the device in reset until it returns, with LASTRST
4; a bad SLOWCLK is a status bit and an event; without the reference clock every port of the link is DOWN; a calibration page is
checked before it is stored, and waits for the Monitor where none runs. -/
def clocksAndCalibration : Prop :=
  ∀ (page : Install) (s : State),
    (s.power.porst = false → s.power.sysLost = false → fld (regGet s .secTampcfg 0) 1 2 = 0 → ∃ t, exec .sysclkLoss s = .next t ∧
      inReset t = true ∧ t.power.sysLost = true ∧ (regGet t .secTampstat 0).getLsbD 2 = true ∧
      ∀ a, 0xFA000000 ≤ a → a < 0xFA200000 → cellGet t.mem a = 0) ∧
    (s.power.porst = false → s.power.sysLost = true → s.sec.hold = false → s.sec.holdDue = none → ∃ t, exec .sysclkReturn s = .next t ∧ t.live ∧
      regGet t .pwrBoot 0 = 0x400 ∧ t.otp = s.otp) ∧
    (s.power.porst = false → s.power.sysLost = false → exec .sysclkReturn s = .next s) ∧
    (s.power.porst = false → exec .slowclkGood s = .next (regPut s .pwrStat 0 (setBit (regGet s .pwrStat 0) 0 false)) ∧
      exec .slowclkBad s = .next (regSetBits (regPut s .pwrStat 0 (setBit (regGet s .pwrStat 0) 0 true)) .pwrEvt 0 8)) ∧
    (s.live → ∃ t, exec .vglRefclkLoss s = .next t ∧ (∀ p < 8, (t.port p).ls = .down) ∧ t.mem = s.mem) ∧
    let runs : Prop := 2 ≤ fld (regGet s .pwrBoot 0) 0 3 ∧ fld (regGet s .secBootstat 0) 0 2 ≠ 3 ∧ (s.die 0).doze = false
    let asked : Prop := s.serves .pwrCalCmd 0 ∨ (regGet s .pwrCalStat 0).getLsbD 0 = true
    (s.live → ¬ runs → s.serves .pwrCalCmd 0 → (regGet s .pwrCalStat 0).getLsbD 0 = false →
      exec (.calibrationWrite page) s = .next (regPut s .pwrCalStat 0 1)) ∧
    (s.live → runs → asked → s.power.calLeft = none → page.image = none → exec (.calibrationWrite page) s = .next (regPut s .pwrCalStat 0 0x104)) ∧
    (s.live → runs → asked → s.power.calLeft = none → ∀ p, page.image = some p → p.length = 4096 →
      (calValid p = false ∨ leWord p 6 2 ≠ 1 → exec (.calibrationWrite page) s = .next (regPut s .pwrCalStat 0 0x204)) ∧
      (calValid p = true → leWord p 6 2 = 1 → page.most = none → ∃ t, exec (.calibrationWrite page) s = .next t ∧
        t.mem = bytesPut s.mem 0xF8000000 p ∧ t.power.calLeft = none ∧ regGet t .pwrCalStat 0 = 2 ∧
        ∀ i < 1024, regGet t .calPage i = w64 (leWord p (4 * i) 4)) ∧
      (∀ k, calValid p = true → leWord p 6 2 = 1 → page.most = some k → k < 4096 → ∃ t, exec (.calibrationWrite page) s = .next t ∧
        t.mem = bytesPut s.mem 0xF8000000 (p.take k) ∧ t.power.calLeft = some (k, p.drop k) ∧ (regGet t .pwrCalStat 0).getLsbD 0 = true))

/-- PORST_N going low (R569, R570): the device is held in reset, with OTP, the retirements and MRAM alone kept; a calibration
page that was being written is left with a CRC that fails (R578; the byte that shows it is the model's choice, log entry 176). -/
def porstNHoldsTheDevice : Prop :=
  ∀ s : State, ∃ t, exec .porstNAssert s = .next t ∧ inReset t = true ∧ t.power.porst = true ∧ t.otp = s.otp ∧ t.retired = s.retired ∧
    t.cores = [] ∧ t.regs = [] ∧
    (∀ a, (s.power.calLeft = none ∨ a ≠ 0xF8000FFC) →
      cellGet t.mem a = if 0xF8000000 ≤ a ∧ a < 0xF9000000 then cellGet s.mem a else 0) ∧
    (s.power.calLeft ≠ none → calValid (bytesGet t.mem 0xF8000000 4096) = false)

/-- Halting (R603, R604): a request reaches a core that serves a job, and waits for the next job of one that serves none; RESUME and
STEP let a halted core run from its pc, with the shield's count as it was held, past a breakpoint that halted it there (log entry 115).
A core that is not halted takes no notice of them. -/
def haltResumeAndStep : Prop :=
  ∀ (n : Fin 64) (s : State), s.live → s.serves .dbgCtrl n → (regGet s .dbgTrctl 0).getLsbD 0 = false →
    let c := s.core n
    let run (step : Bool) : Result := .next (s.setCore n
      { c with
        halted := false, haltCause := 0, ibpHit := 0, stepping := step, ibpSkip := c.haltCause == 4 && c.pc == c.haltAt
        shieldEnd := if c.shieldEnd = 0 then 0 else s.cclk + c.shieldHeld, notBefore := s.cclk, fetchErr := none })
    (c.halted = false → c.job ≠ none → c.ended = false → exec (.haltreq n) s = .next (s.setCore n { c with haltReq := true })) ∧
    (c.halted = false → c.job = none ∨ c.ended = true → exec (.haltreq n) s = .next (s.setCore n { c with haltPend := true })) ∧
    (c.halted = true → exec (.haltreq n) s = .next s ∧ exec (.debugResume n) s = run false ∧ exec (.debugStep n) s = run true) ∧
    (c.halted = false → exec (.debugResume n) s = .next s ∧ exec (.debugStep n) s = .next s)

/-- Registers of a halted core (R606, Table 24.5): the class, number and word of DBG_k_RSEL choose one; a core that runs reads as 0 and
is not written; g0 stays 0. -/
def debugReachesTheRegisters : Prop :=
  ∀ (n : Fin 64) (v : W64) (s : State), s.live → s.serves .dbgRdata n →
    let c := s.core n
    let sel := regGet s .dbgRsel n
    let cls := fld sel 8 3
    let num := fld sel 0 8
    let word := fld sel 12 6
    let rd (v : W64) : Result := .next { endSnap s .dbgRdata n with readData := v }
    let wr (c : Core) : Result := .next (endStage (s.setCore n c) .dbgRdata n)
    let read := exec (.debugRegisterAccess n .host false v) s
    let write := exec (.debugRegisterAccess n .host true v) s
    (c.halted = false → read = rd 0 ∧ write = .next (endStage s .dbgRdata n)) ∧
    (c.halted = true →
      (cls = 0 → num = 0 → read = rd 0 ∧ write = wr c) ∧
      (cls = 0 → 0 < num → num < 32 → read = rd (tget 0 c.g num) ∧ write = wr { c with g := tset 0 c.g num v }) ∧
      (cls = 1 → num < 8 → read = rd (tget 0 c.a num) ∧ write = wr { c with a := tset 0 c.a num v }) ∧
      (cls = 2 → num < 8 → read = rd (tget 0 c.m num) ∧ write = wr { c with m := tset 0 c.m num v }) ∧
      (cls = 3 → read = rd (c.lc.setWidth 64) ∧ write = wr { c with lc := v.setWidth 32 }) ∧
      (cls = 4 → num = 2 → read = rd c.epc ∧ write = wr { c with epc := v }) ∧
      (cls = 5 → num < 16 → word < 4 → read = rd (w64 (fld (tget 0 c.sd num) (64 * word) 64)) ∧
        (0 < word → word < 3 → write = wr { c with sd := tset 0 c.sd num (putFld (tget 0 c.sd num) (64 * word) 64 v.toNat) })) ∧
      (cls = 6 → num < 32 → read = rd (w64 (fld (tget 0 c.casks num) (64 * word) 64)) ∧
        write = wr { c with casks := tset 0 c.casks num (putFld (tget 0 c.casks num) (64 * word) 64 v.toNat) }) ∧
      (cls = 7 → num = 1 → read = rd (c.rpt.setWidth 64) ∧ write = wr { c with rpt := v.setWidth 32 }) ∧
      (cls = 7 → 8 ≤ num → num < 16 → read = rd (tget 0 c.b (num - 8)) ∧ write = wr { c with b := tset 0 c.b (num - 8) v }) ∧
      (cls = 7 → num = 0 → read = rd c.pc ∧ write = wr { c with pc := v }))

/-- The debug port's accesses (R602, Table 24.3): a shift through DBGACC captures the last answer and, with GO, starts one access of the
size it names at its address aligned down; a GO while BUSY, or in a state without a debug port, is ignored; the answer brings the bytes
read, or stores those to be written.  An access across a stopped bridge waits. -/
def debugPortAccess : Prop :=
  ∀ (r : BitVec 116) (chk : Check) (s : State), s.live →
    let p := s.tap
    let lvl := portLevel s
    let size := 2 ^ fld r 112 2
    let capture := p.data.toNat + respCode p.resp * 2 ^ 64 + p.acc.isSome.toNat * 2 ^ 66
    let shift (acc : Option DbgAcc) (w : Nat) : Result := .next { s with
      tap := { p with op := .dbgacc, driven := none, acc := acc }, readBytes := leBytes w 15, readData := w64 (w % 2 ^ 64) }
    (p.trst = true → lvl = none → exec (.dbgacc r) s = shift p.acc 0) ∧
    (p.trst = true → lvl ≠ none → r.getLsbD 115 = false ∨ p.acc ≠ none → exec (.dbgacc r) s = shift p.acc capture) ∧
    (p.trst = true → lvl ≠ none → r.getLsbD 115 = true → p.acc = none → exec (.dbgacc r) s =
      shift (some { addr := fld r 64 48 / size * size, size, wr := r.getLsbD 114, data := r.setWidth 64 }) capture) ∧
    (p.acc = none → exec (.debugAccessResponse chk) s = .next s) ∧
    (∀ x l, p.acc = some x → lvl = some l → bridgeHolds s mDebug x.addr x.size = false →
      let ag : Agent := { master := mDebug, level := l, owned := false }
      (x.wr = true → ∀ s' q, busWrite s ag x.addr (leBytes x.data.toNat x.size) chk = (s', q) →
        exec (.debugAccessResponse chk) s = .next { s' with tap := { s'.tap with acc := none, resp := q } }) ∧
      (x.wr = false → ∀ s' q bs, busRead s ag x.addr x.size chk = (s', q, bs) →
        exec (.debugAccessResponse chk) s = .next { s' with tap := { s'.tap with acc := none, resp := q, data := w64 (leNat bs) } })) ∧
    (∀ x l, p.acc = some x → lvl = some l → bridgeHolds s mDebug x.addr x.size = true → exec (.debugAccessResponse chk) s = .next s) ∧
    (∀ x, p.acc = some x → lvl = none → exec (.debugAccessResponse chk) s = .next { s with tap := { p with acc := none } })

/-- Boundary scan (R600, R601, Tables 24.1 and 24.2): a driving instruction that the life-cycle state allows, or any while PORST_N is low,
drives the balls from the register and then samples them into it; one that is not allowed is BYPASS; SAMPLE drives nothing; IDCODE reads
0x17820B47; while TRST_N is not high the TAP stays in its reset.  That an output cell holds the level and a control cell 1 where the
ball drives is the model's choice (log entry 173). -/
def boundaryScan : Prop :=
  ∀ (x : BitVec 401) (code : Byte) (s : State),
    let p := s.tap
    let allowed : Prop := s.otp.lcs < 2 ∨ s.power.porst = true
    let off := { s with tap := { p with op := .bypass, driven := none } }
    let cell (i : Nat) : Nat := if i % 40 < 32 then 3 * (32 * (i / 40) + i % 40) else 192 + 3 * (8 * (i / 40) + i % 40 - 32)
    (p.trst = false → ∀ i ∈ [Instr.extest x, .extestPulse x, .extestTrain x, .samplePreload true x, .samplePreload false x, .idcode,
      .bypass code], exec i s = .next s) ∧
    exec .testLogicReset s = .next { s with tap := { p with op := .idcode, driven := none } } ∧
    (p.trst = true →
      (∀ e ∈ [(Instr.extest x, TapOp.extest), (.extestPulse x, .pulse), (.extestTrain x, .train)],
        (allowed → ∃ t, exec e.1 s = .next t ∧ t = { s with tap := { p with op := e.2, driven := some p.cells, cells := t.tap.cells } } ∧
          (∀ i ∈ List.range 80, let k := cell i; t.tap.cells.getLsbD (k + 2) = p.cells.getLsbD (k + 2) ∧
            (p.cells.getLsbD (k + 2) = true → t.tap.cells.getLsbD k = p.cells.getLsbD (k + 1) ∧
              t.tap.cells.getLsbD (k + 1) = p.cells.getLsbD (k + 1)) ∧
            (p.cells.getLsbD (k + 2) = false → t.tap.cells.getLsbD k = x.getLsbD k ∧
              t.tap.cells.getLsbD (k + 1) = x.getLsbD (k + 1))) ∧
          t.tap.cells >>> 240 = x >>> 240) ∧
        (¬ allowed → exec e.1 s = .next off)) ∧
      exec (.samplePreload true x) s = .next { s with tap := { p with op := .sample, driven := none, cells := x } } ∧
      (∃ t, exec (.samplePreload false x) s = .next t ∧
        t = { s with tap := { p with op := .sample, driven := none, cells := t.tap.cells }, readBytes := leBytes t.tap.cells.toNat 51 } ∧
        t.tap.cells.getLsbD 396 = !s.power.thermN ∧ (s.power.thermN = true → t.tap.cells.getLsbD 395 = false) ∧
        t.tap.cells.extractLsb' 240 155 = x.extractLsb' 240 155 ∧ t.tap.cells >>> 397 = x >>> 397) ∧
      exec .idcode s = .next { s with tap := { p with op := .idcode, driven := none }, readData := 0x17820B47 } ∧
      (code.toNat ∉ [0, 1, 2, 3, 4, 0x10] → exec (.bypass code) s = .next off))

/-- The invariant of memory: a step keeps the canonical form, in which addresses rise and no byte 0 is listed, so that equal memories are equal data. -/
def memoryStaysCanonical : Prop :=
  ∀ s t : State, Memory.wf s.mem = true → step s = .next t → Memory.wf t.mem = true

/-- A step takes one command off the queue and adds none: no command's effect reaches the commands that wait. -/
def queueAdvances : Prop :=
  ∀ s t : State, step s = .next t → t.pending = s.pending.tail

/-- What one-time-programmable memory holds moves one way (R543, R547): a rollback counter never falls, a key that was destroyed stays destroyed, and the state SCRAPPED is never left, whatever is commanded, reset or tampered with. -/
def fusesOnlyMoveForward : Prop :=
  ∀ s t : State, step s = .next t → (∀ k, k = 1 ∨ k = 2 ∨ k = 3 → tget 0 s.otp.rbc k ≤ tget 0 t.otp.rbc k) ∧
    (s.otp.keyGone = true → t.otp.keyGone = true) ∧ (s.otp.lcs = 4 → t.otp.lcs = 4)

end Sys2Proof.Claims

open Sys2Proof

/-! ## The obligations -/

/-- A step carries out the command at the front of the queue, with the rest of the queue behind it.  The queue is the
model's (notes/assumptions/1.md). -/
def Obligations.StepRunsFrontCommand : Prop :=
  Claims.stepRunsFrontCommand

/-- Every command, in every state, answers a next state; with none waiting the block idles.  That the block idles is the
model's choice (notes/assumptions/1.md). -/
def Obligations.StepsGoOn : Prop :=
  Claims.emptyQueueIdles ∧ Claims.everyStepGoesOn

/-- A register that is written reads back, and registers at other offsets keep their values. -/
def Obligations.RegisterReadsBack : Prop :=
  Claims.registerReadsBack

/-- From the offset of every register of the map the control space finds that register and its number. -/
def Obligations.RegisterMapRoundTrip : Prop :=
  Claims.registerMapRoundTrip

/-- Stored bytes read back, all others keep their values, and the canonical form of memory is kept. -/
def Obligations.MemoryReadsBack : Prop :=
  Claims.memoryReadsBack

/-- The state after reset runs, its queue is empty, and every register holds its reset value.  The zeros that no rule
gives are the model's (notes/assumptions/2.md). -/
def Obligations.ResetState : Prop :=
  Claims.resetState

/-- PORST_N low holds the device in reset; its release leaves the state after reset with OTP, MRAM and retirements kept.
The zeros of memory that no rule gives, and the byte that spoils a page under way, are the model's
(notes/assumptions/2.md, 176.md). -/
def Obligations.PorstPinHoldsAndReleases : Prop :=
  Claims.releaseOfPorstN ∧ Claims.porstNHoldsTheDevice

/-- A device held in reset leaves its state as it is, but for the always-on, pin and boundary-scan commands.  Which
commands still act is read from the reset scopes (notes/assumptions/5.md). -/
def Obligations.HeldInReset : Prop :=
  Claims.heldInReset

/-- Rejected accesses change nothing, half writes commit together, and low-half reads take a snapshot. -/
def Obligations.SetupRegisterAccesses : Prop :=
  Claims.rejectedWriteChangesNothing ∧ Claims.halfWritesCommitTogether ∧ Claims.lowHalfReadTakesSnapshot

/-- A read of a read-and-clear counter returns it and clears it. -/
def Obligations.CounterReadsClear : Prop :=
  Claims.counterReadsReturnAndClear

/-- Every step keeps memory in its canonical form.  The canonical form is the model's (notes/assumptions/2.md). -/
def Obligations.MemoryStaysCanonical : Prop :=
  Claims.memoryStaysCanonical

/-- A step takes one command off the queue and adds none.  The queue is the model's (notes/assumptions/1.md). -/
def Obligations.QueueAdvances : Prop :=
  Claims.queueAdvances

/-- No step lowers a rollback counter, restores a destroyed key or leaves the life-cycle state SCRAPPED. -/
def Obligations.FusesOnlyMoveForward : Prop :=
  Claims.fusesOnlyMoveForward

/-- Quadrature, step and pulse edges move their axis as the decoding rules say, and illegal transitions count nothing.
Where the rules leave a point open, the reading is the model's (notes/assumptions/19.md). -/
def Obligations.AxisEdgesMove : Prop :=
  Claims.quadratureEdgeCounts ∧ Claims.quadratureIllegalTransition ∧ Claims.stepEdgeMoves ∧
  Claims.pulseEdgeMovesByOne

/-- A good TSI frame sets the position and motion of its axis; a bad one is discarded and counted.  Where the rules
leave a point open, the reading is the model's (notes/assumptions/150.md, 151.md). -/
def Obligations.AxisFramesSetPosition : Prop :=
  Claims.badFrameIsDiscarded ∧ Claims.goodFrameSetsPosition

/-- Interpolation never reaches the next count: it holds one LSB short and never moves against the direction of motion.
States R60. -/
def Obligations.InterpolationHoldsShort : Prop :=
  Claims.interpolationHoldsShort

/-- Enabling starts an axis, disabling holds its value, and set-up words keep their source fields while it is enabled.
Where the rules leave a point open, the reading is the model's (notes/assumptions/13.md, 18.md, 165.md, 166.md). -/
def Obligations.AxisEnableAndSetup : Prop :=
  Claims.axisEnableStarts ∧ Claims.axisDisableHolds ∧ Claims.axisSetupWrite

/-- LOAD, REINDEX, ADVANCE, index events and writes of derived axes.  Where the rules leave a point open, the reading is
the model's (notes/assumptions/13.md, 167.md, 168.md). -/
def Obligations.AxisControlWrites : Prop :=
  Claims.axisLoadShifts ∧ Claims.reindexAndAdvance ∧ Claims.indexEventCapturesAndLoads ∧
  Claims.derivedAxisWrites

/-- A derived axis that its base has moved by 2^56 or more is rebased and keeps its value.  Where the rules leave a
point open, the reading is the model's (notes/assumptions/18.md). -/
def Obligations.RebaseKeepsTheValue : Prop :=
  Claims.rebaseKeepsTheValue

/-- Stall and lost timeouts of an axis, and the advance of device time.  Where the rules leave a point open, the reading
is the model's (notes/assumptions/4.md, 16.md). -/
def Obligations.AxisTimeoutsAndTime : Prop :=
  Claims.axisTimeouts ∧ Claims.deviceTimeAdvances

/-- Bundles of every slot have the effect of their syllables, wait, or raise their exception.  Where the rules leave a
point open, the reading is the model's (notes/assumptions/25.md, 26.md, 129.md, 130.md, 172.md). -/
def Obligations.BundlesExecute : Prop :=
  Claims.integerBundleExecutes ∧ Claims.branchBundleExecutes ∧ Claims.memoryBundleExecutes ∧
  Claims.multiplyAndDivideIssue ∧ Claims.controlRegisterBundles ∧ Claims.systemBundles ∧
  Claims.loopAndEventBundles ∧ Claims.vectorBundles

/-- Divides, scalar loads, the store buffer and line fills complete with the values their rules give.  Where the rules
leave a point open, the reading is the model's (notes/assumptions/24.md, 35.md, 132.md). -/
def Obligations.ScalarResultsArrive : Prop :=
  Claims.divideCompletes ∧ Claims.scalarAccessesComplete ∧ Claims.lineFillBringsTheLine

/-- Events are counted and waits end as the event and wait rules say.  Where the rules leave a point open, the reading
is the model's (notes/assumptions/34.md). -/
def Obligations.EventsAndWaits : Prop :=
  Claims.eventsAndWaits

/-- Groups start, stream elements arrive and vector writes are accepted in the press.  Where the rules leave a point
open, the reading is the model's (notes/assumptions/42.md, 43.md, 132.md, 131.md). -/
def Obligations.PressRunsGroups : Prop :=
  Claims.groupStarts ∧ Claims.streamElementArrives ∧ Claims.vectorWriteIsAccepted

/-- Pipe results commit, and microwords count and branch as their sequencer fields say.  Where the rules leave a point
open, the reading is the model's (notes/assumptions/42.md, 53.md). -/
def Obligations.PipesAndMicrowords : Prop :=
  Claims.pipeResultCommits ∧ Claims.microwordCountsAndBranches

/-- Exceptions and interrupts save their state and enter the handler; the shield and software interrupts.  Where the
rules leave a point open, the reading is the model's (notes/assumptions/40.md, 41.md). -/
def Obligations.ExceptionsAndInterrupts : Prop :=
  Claims.exceptionEntrySavesAndGoes ∧ Claims.interruptTakeEntersTheHandler ∧ Claims.shieldAndSoftwareInterrupts

/-- Reads and writes of the Cellar and of the default target answer, store, count and log.  Where the rules leave a
point open, the reading is the model's (notes/assumptions/67.md, 68.md, 70.md, 74.md). -/
def Obligations.CellarAccesses : Prop :=
  Claims.cellarReadAnswers ∧ Claims.cellarReadFindsError ∧ Claims.cellarWriteStores ∧
  Claims.defaultTargetAnswers

/-- Ownership of a bay is compare-and-set; its power changes only without an owner, and OFF loses its contents.  Where
the rules leave a point open, the reading is the model's (notes/assumptions/69.md, 70.md). -/
def Obligations.OwnershipAndBayPower : Prop :=
  Claims.ownershipIsCompareAndSet ∧ Claims.bayOwnerAndPower ∧ Claims.bayPowerOffLosesContents

/-- The scrubber visits the word positions of the bays that are ON and stores nothing.  Where the rules leave a point
open, the reading is the model's (notes/assumptions/124.md). -/
def Obligations.ScrubberVisitsBays : Prop :=
  Claims.scrubberVisits ∧ Claims.scrubberSkipsBaysThatAreNotOn

/-- HBM reads, writes, training, refresh, repair and logs.  Where the rules leave a point open, the reading is the
model's (notes/assumptions/67.md, 71.md, 72.md, 123.md). -/
def Obligations.HbmAccessesAndRepairs : Prop :=
  Claims.hbmReadsAndWrites ∧ Claims.hbmTraining ∧ Claims.hbmCareAndLogs

/-- Token buckets refill within their depth, arbiters grant the highest priority, bridges replay.  Where the rules leave
a point open, the reading is the model's (notes/assumptions/75.md). -/
def Obligations.TrellisGrantsAndReplays : Prop :=
  Claims.bucketsRefill ∧ Claims.requestLeavesItsPort ∧ Claims.grantTakesHighestPriority ∧
  Claims.bridgeReplayAndLogs

/-- The host link trains and goes down, inbound problems and commands, and the management port.  Where the rules leave a
point open, the reading is the model's (notes/assumptions/48.md, 76.md, 77.md, 78.md, 140.md, 159.md, 109.md). -/
def Obligations.LinkTrainsAndGoesDown : Prop :=
  Claims.linkTrainsToCommonRate ∧ Claims.linkDownLosesRequests ∧ Claims.inboundProblemsAndCommand ∧
  Claims.smbusPortAnswers

/-- BAR0 reads return registers, and every other TLP shape is rejected and logged.  Where the rules leave a point open,
the reading is the model's (notes/assumptions/12.md). -/
def Obligations.Bar0ReadsAndRejects : Prop :=
  Claims.bar0Reads ∧ Claims.bar0RejectsOtherTlps

/-- BAR2 reaches the Cellar, and outbound reads are sent, answered and timed out.  Where the rules leave a point open,
the reading is the model's (notes/assumptions/76.md, 80.md, 140.md). -/
def Obligations.Bar2AndOutboundReads : Prop :=
  Claims.bar2ReachesTheCellar ∧ Claims.outboundReadsAreAnswered

/-- MSI-X messages are sent, held by masks and sent at the unmask.  Where the rules leave a point open, the reading is
the model's (notes/assumptions/79.md). -/
def Obligations.MsixSendsAndMasks : Prop :=
  Claims.msixMessage ∧ Claims.msixEntriesAndUnmask

/-- A function-level reset resets the rings and the configuration and nothing else.  Where the rules leave a point open,
the reading is the model's (notes/assumptions/80.md, 83.md). -/
def Obligations.FunctionLevelResetScope : Prop :=
  Claims.functionLevelResetScope

/-- Enabling a ring starts it at CIDX, and its set-up is frozen while it is not disabled.  States R411. -/
def Obligations.RingSetupAndEnable : Prop :=
  Claims.ringEnableStarts ∧ Claims.ringSetupIsFrozen

/-- Polls start, select doorbells by group words, and check each doorbell word.  Where the rules leave a point open, the
reading is the model's (notes/assumptions/54.md, 91.md). -/
def Obligations.DoorbellPolls : Prop :=
  Claims.pollStarts ∧ Claims.groupWordSelectsDoorbells ∧ Claims.doorbellWordIsChecked

/-- Descriptors are fetched and started in order, take tokens and reserve cores.  Where the rules leave a point open,
the reading is the model's (notes/assumptions/81.md, 82.md, 87.md, 147.md, 145.md). -/
def Obligations.DescriptorsFetchAndStart : Prop :=
  Claims.descriptorsAreFetched ∧ Claims.descriptorStart ∧ Claims.launchTokens ∧ Claims.reservationOrder

/-- A job starts its cores, writes its launch stamp and completes.  Where the rules leave a point open, the reading is
the model's (notes/assumptions/87.md, 88.md). -/
def Obligations.JobsRunAndComplete : Prop :=
  Claims.jobStartsItsCores ∧ Claims.launchStampIsWritten ∧ Claims.jobCompletes

/-- MOVE copies, HANDOVER makes its ownership writes, and object descriptors set their windows.  Where the rules leave a
point open, the reading is the model's (notes/assumptions/84.md, 85.md, 86.md, 160.md). -/
def Obligations.DescriptorKindsAct : Prop :=
  Claims.moveCopies ∧ Claims.handoverMakesItsEntries ∧ Claims.objectsAndWaits

/-- Completion records are written in order with moderated interrupts, and the ring commands act.  Where the rules leave
a point open, the reading is the model's (notes/assumptions/83.md, 89.md). -/
def Obligations.RecordsAreWrittenInOrder : Prop :=
  Claims.recordsAndModeration ∧ Claims.moderationTimeout ∧ Claims.ringCommands

/-- Alarms arm, test their axis for a crossing and fire; their set-up is frozen while they are armed.  Where the rules
leave a point open, the reading is the model's (notes/assumptions/92.md, 94.md). -/
def Obligations.AlarmsArmAndFire : Prop :=
  Claims.alarmArmAndDisarm ∧ Claims.alarmSetupIsFrozen ∧ Claims.alarmCrossingTest ∧ Claims.alarmFires

/-- The pin, timer, core, stamp and poll actions of a firing.  Where the rules leave a point open, the reading is the
model's (notes/assumptions/92.md, 93.md, 147.md, 171.md). -/
def Obligations.AlarmActions : Prop :=
  Claims.pinActions ∧ Claims.timerAndCoreActions ∧ Claims.stampAndPollActions

/-- Timer commands and set-up writes of a general timer.  Where the rules leave a point open, the reading is the model's
(notes/assumptions/95.md, 170.md). -/
def Obligations.TimerCommandsAct : Prop :=
  Claims.timerCommands ∧ Claims.timerSetupWrites

/-- Timer ticks, update events, sources and triggers.  Where the rules leave a point open, the reading is the model's
(notes/assumptions/95.md, 142.md, 170.md). -/
def Obligations.TimerCountingAndUpdates : Prop :=
  Claims.timerTickCounts ∧ Claims.timerMatches ∧ Claims.timerUpdateEvent ∧ Claims.timerSourceAndTrigger

/-- Captures publish pairs, and the compatibility timer counts and matches.  Where the rules leave a point open, the
reading is the model's (notes/assumptions/96.md). -/
def Obligations.CapturesAndCompatibility : Prop :=
  Claims.capturesPublishPairs ∧ Claims.compatibilityTimer

/-- A VGL port trains step by step and returns to DOWN.  Where the rules leave a point open, the reading is the model's
(notes/assumptions/97.md, 120.md). -/
def Obligations.PortTrainsAndDrops : Prop :=
  Claims.portTrainsStepByStep ∧ Claims.portReturnsToDown

/-- Flits are received, replayed and placed by their slot priorities.  Where the rules leave a point open, the reading
is the model's (notes/assumptions/143.md, 163.md). -/
def Obligations.FlitsAreReceivedAndReplayed : Prop :=
  Claims.flitIsReceived ∧ Claims.flitsMakeCodewords ∧ Claims.replayOfHeldFlits ∧ Claims.flitSlotPriorities

/-- Link messages carry credits, acknowledgements and time.  Where the rules leave a point open, the reading is the
model's (notes/assumptions/163.md). -/
def Obligations.LinkMessagesCarryCredits : Prop :=
  Claims.linkMessages ∧ Claims.timeSyncAndManagement ∧ Claims.acksAndCreditsArrive

/-- Ingest places samples by stamp, egress queues and sends frames, and channels enable and disable.  Where the rules
leave a point open, the reading is the model's (notes/assumptions/98.md). -/
def Obligations.ChannelsPlaceFrames : Prop :=
  Claims.ingestPlacesByStamp ∧ Claims.egressSendsAFrame ∧ Claims.egressFrameIsQueuedAndSent ∧
  Claims.channelsEnableAndDisable

/-- Errors are counted, jobs are run again or reported, and the event log takes reports.  Where the rules leave a point
open, the reading is the model's (notes/assumptions/22.md, 23.md, 100.md, 101.md, 102.md, 15.md). -/
def Obligations.ErrorsAndReRuns : Prop :=
  Claims.coreErrorsAreCounted ∧ Claims.reRunDecision ∧ Claims.rowDeviceAndBridgeErrors ∧
  Claims.eventLogTakesReports

/-- Microcode images load with their checks, and CLEAR empties the stores.  Where the rules leave a point open, the
reading is the model's (notes/assumptions/64.md, 65.md, 126.md). -/
def Obligations.MicrocodeLoadsAndClears : Prop :=
  Claims.microcodeLoadsAndClears

/-- Boot chooses verified images; attestation, commit, update and recovery.  Where the rules leave a point open, the
reading is the model's (notes/assumptions/66.md, 73.md, 104.md, 105.md, 106.md). -/
def Obligations.SecureBootAndUpdates : Prop :=
  Claims.secureBootChoosesImages ∧ Claims.attestAndCommit ∧ Claims.updateAndRecover

/-- Life-cycle transitions and tamper responses wipe the Vaults; the shield cap.  Where the rules leave a point open,
the reading is the model's (notes/assumptions/105.md, 107.md, 174.md, 177.md). -/
def Obligations.LifeCycleAndTamper : Prop :=
  Claims.lifeCycleTransitions ∧ Claims.tamperAndShieldCap

/-- Operating points, throttling, core power and row power.  Where the rules leave a point open, the reading is the
model's (notes/assumptions/112.md). -/
def Obligations.PowerStatesChange : Prop :=
  Claims.operatingPointChanges ∧ Claims.throttleSteps ∧ Claims.corePowerGating ∧ Claims.rowPowerChanges

/-- DOZE is entered or refused with its reasons, and ends with the time made up.  Where the rules leave a point open,
the reading is the model's (notes/assumptions/110.md, 111.md). -/
def Obligations.DozeEntryAndEnd : Prop :=
  Claims.dozeIsEnteredOrRefused ∧ Claims.dozeEnds

/-- A warm device reset clears what runs and keeps OTP, MRAM, the Cellar, the link and the MSI-X table.  Where the rules
leave a point open, the reading is the model's (notes/assumptions/100.md, 109.md, 113.md). -/
def Obligations.WarmResetScope : Prop :=
  Claims.warmResetScope

/-- Row resets, the stages of boot, clock losses and the calibration page.  Where the rules leave a point open, the
reading is the model's (notes/assumptions/8.md, 161.md, 175.md, 176.md). -/
def Obligations.BootStagesAndClockLosses : Prop :=
  Claims.rowResetEnds ∧ Claims.bootStages ∧ Claims.clocksAndCalibration

/-- Halt, resume and step, the debug port and boundary scan.  Where the rules leave a point open, the reading is the
model's (notes/assumptions/114.md, 115.md, 116.md, 173.md). -/
def Obligations.DebugHaltsAndReads : Prop :=
  Claims.haltResumeAndStep ∧ Claims.debugReachesTheRegisters ∧ Claims.debugPortAccess ∧ Claims.boundaryScan
end

