-- ==== Sys2Proof/Laws/Tables.lean ====
section
/-! SUPPORT. What the sparse tables and the bytes of memory do: an entry that is written reads back, every other entry stays,
and the canonical form is kept. -/
namespace Sys2Proof.Machine

variable {α : Type}

theorem tget_tdel (d : α) (t : Table α) (k j : Nat) : tget d (tdel t k) j = if j = k then d else tget d t j := by
  induction t with
  | nil => simp [tdel, tget]
  | cons e r ih =>
    obtain ⟨i, w⟩ := e
    by_cases hi : i = k
    · subst hi
      simp only [tdel, if_true, ih, tget]
      by_cases hj : j = i
      · simp [hj]
      · simp [hj, Ne.symm hj]
    · simp only [tdel, hi, if_false, tget, ih]
      by_cases hij : i = j
      · subst hij; simp [hi]
      · simp [hij]

theorem tget_tins (d : α) (t : Table α) (k j : Nat) (v : α) (h : tdel t k = t) :
    tget d (tins t k v) j = if j = k then v else tget d t j := by
  induction t with
  | nil => by_cases hj : k = j <;> simp [tins, tget, hj]; intro h; exact absurd h.symm hj
  | cons e r ih =>
    obtain ⟨i, w⟩ := e
    have hi : i ≠ k := by
      intro hi
      have : (tdel r k).length ≤ r.length := by
        clear h ih
        induction r with
        | nil => simp [tdel]
        | cons x l ih2 => obtain ⟨y, z⟩ := x; simp only [tdel]; split <;> simp <;> omega
      simp only [tdel, hi, if_true] at h
      rw [h] at this
      simp at this
    simp only [tdel, hi, if_false, List.cons.injEq, true_and] at h
    by_cases hlt : k < i
    · simp only [tins, hlt, if_true, tget]
      by_cases hj : j = k
      · simp [hj]
      · simp [hj, Ne.symm hj]
    · simp only [tins, hlt, if_false, tget, ih h]
      by_cases hij : i = j
      · subst hij; simp [hi]
      · simp [hij]

theorem tdel_tdel (t : Table α) (k : Nat) : tdel (tdel t k) k = tdel t k := by
  induction t with
  | nil => rfl
  | cons e r ih =>
    obtain ⟨i, w⟩ := e
    by_cases hi : i = k
    · simp only [tdel, hi, if_true, ih]
    · simp only [tdel, hi, if_false, ih]
theorem tdel_tins (t : Table α) (k : Nat) (v : α) : tdel (tins t k v) k = tdel t k := by
  induction t with
  | nil => simp [tins, tdel]
  | cons e r ih =>
    obtain ⟨i, w⟩ := e
    by_cases hlt : k < i
    · simp [tins, hlt, tdel]
    · by_cases hi : i = k
      · subst hi
        simp only [tins, Nat.lt_irrefl, if_false, tdel, if_true, ih]
      · simp only [tins, hlt, if_false, tdel, hi, ih]

theorem tget_tset [DecidableEq α] (d : α) (t : Table α) (k j : Nat) (v : α) :
    tget d (tset d t k v) j = if j = k then v else tget d t j := by
  unfold tset
  split
  · rename_i hv; rw [tget_tdel, hv]
  · rw [tget_tins _ _ _ _ _ (tdel_tdel t k), tget_tdel]
    by_cases hj : j = k <;> simp [hj]

@[simp] theorem tget_tset_self [DecidableEq α] (d : α) (t : Table α) (k : Nat) (v : α) :
    tget d (tset d t k v) k = v := by simp [tget_tset]

@[simp] theorem tget_tset_ne [DecidableEq α] (d : α) (t : Table α) {k j : Nat} (v : α) (h : j ≠ k) :
    tget d (tset d t k v) j = tget d t j := by simp [tget_tset, h]

theorem tdel_tset [DecidableEq α] (d : α) (t : Table α) (k : Nat) (v : α) : tdel (tset d t k v) k = tdel t k := by
  unfold tset
  split
  · exact tdel_tdel t k
  · rw [tdel_tins, tdel_tdel]
/-- The second of two writes of one entry is what remains. -/
@[simp] theorem tset_tset [DecidableEq α] (d : α) (t : Table α) (k : Nat) (v w : α) :
    tset d (tset d t k v) k w = tset d t k w := by
  have h := tdel_tset d t k v
  by_cases hw : w = d
  · unfold tset at h ⊢; simp only [hw, if_true]; exact h
  · simp only [tset, hw, if_false] at h ⊢; rw [h]

theorem tableFrom_mono [DecidableEq α] (d : α) {lo hi : Nat} (h : lo ≤ hi) :
    (t : Table α) → tableFrom d hi t = true → tableFrom d lo t = true
  | [], _ => rfl
  | (j, w) :: r, ht => by
    simp only [tableFrom, Bool.and_eq_true, decide_eq_true_eq] at ht ⊢
    exact ⟨⟨Nat.le_trans h ht.1.1, ht.1.2⟩, ht.2⟩

theorem tdel_from [DecidableEq α] (d : α) (k : Nat) :
    (t : Table α) → (lo : Nat) → tableFrom d lo t = true → tableFrom d lo (tdel t k) = true
  | [], _, _ => rfl
  | (j, w) :: r, lo, ht => by
    simp only [tableFrom, Bool.and_eq_true, decide_eq_true_eq] at ht
    have h2 := tdel_from d k r (j + 1) ht.2
    by_cases hj : j = k
    · simp only [tdel, hj, if_true]; subst hj; exact tableFrom_mono d (by omega) _ h2
    · simp only [tdel, hj, if_false, tableFrom, Bool.and_eq_true, decide_eq_true_eq]; exact ⟨ht.1, h2⟩

theorem tins_from [DecidableEq α] (d : α) (k : Nat) (v : α) (hv : v ≠ d) :
    (t : Table α) → (lo : Nat) → lo ≤ k → tget d t k = d → tableFrom d lo t = true → tableFrom d lo (tins t k v) = true
  | [], lo, hk, _, _ => by simp [tins, tableFrom, hv, hk]
  | (j, w) :: r, lo, hk, hg, ht => by
    simp only [tableFrom, Bool.and_eq_true, decide_eq_true_eq] at ht
    obtain ⟨⟨h1, h2⟩, h3⟩ := ht
    by_cases hlt : k < j
    · simp only [tins, hlt, if_true, tableFrom, Bool.and_eq_true, decide_eq_true_eq]
      exact ⟨⟨hk, hv⟩, ⟨⟨hlt, h2⟩, h3⟩⟩
    · have hj : j ≠ k := by
        intro hj; simp [tget, hj] at hg; exact h2 hg
      simp only [tget, hj, if_false] at hg
      simp only [tins, hlt, if_false, tableFrom, Bool.and_eq_true, decide_eq_true_eq]
      exact ⟨⟨h1, h2⟩, tins_from d k v hv r (j + 1) (by omega) hg h3⟩

theorem tset_from [DecidableEq α] (d : α) (v : α) (t : Table α) (lo k : Nat) (hk : lo ≤ k)
    (ht : tableFrom d lo t = true) : tableFrom d lo (tset d t k v) = true := by
  unfold tset
  split
  · exact tdel_from d k t lo ht
  · rename_i hv
    exact tins_from d k v hv _ lo hk (by simp [tget_tdel]) (tdel_from d k t lo ht)

/-- Writing an entry keeps a table canonical. -/
theorem tset_wf [DecidableEq α] (d : α) (t : Table α) (k : Nat) (v : α) (h : Table.wf d t = true) :
    Table.wf d (tset d t k v) = true := tset_from d v t 0 k (Nat.zero_le k) h

/-! Memory is the table of bytes whose unlisted entry is 0. -/

theorem cellGet_eq_tget : (m : List Host.Cell) → (a : Nat) → cellGet m a = tget 0 m a
  | [], _ => rfl
  | (j, v) :: r, a => by simp only [cellGet, tget]; rw [cellGet_eq_tget r a]
theorem cellPut_eq_tset (m : List Host.Cell) (a : Nat) (v : Byte) : cellPut m a v = tset 0 m a v := rfl
theorem memory_wf_eq (m : List Host.Cell) : Memory.wf m = Table.wf (0 : Byte) m := by
  have : (m : List Host.Cell) → (lo : Nat) → cellsFrom lo m = tableFrom (0 : Byte) lo m := by
    intro m
    induction m with
    | nil => intro lo; rfl
    | cons e r ih => intro lo; obtain ⟨j, w⟩ := e; simp only [cellsFrom, tableFrom]; rw [ih]
  exact this m 0

theorem cellGet_cellPut (m : List Host.Cell) (a b : Nat) (v : Byte) :
    cellGet (cellPut m a v) b = if b = a then v else cellGet m b := by
  simp only [cellGet_eq_tget, cellPut_eq_tset, tget_tset]
theorem cellPut_wf (m : List Host.Cell) (a : Nat) (v : Byte) (h : Memory.wf m = true) : Memory.wf (cellPut m a v) = true := by
  rw [memory_wf_eq] at *; rw [cellPut_eq_tset]; exact tset_wf 0 m a v h

/-- A byte outside those that are stored reads as before. -/
theorem cellGet_bytesPut_ne : (bs : List Byte) → (m : List Host.Cell) → (a b : Nat) → (b < a ∨ a + bs.length ≤ b) →
    cellGet (bytesPut m a bs) b = cellGet m b
  | [], _, _, _, _ => rfl
  | x :: r, m, a, b, h => by
    simp only [List.length_cons] at h
    simp only [bytesPut]
    rw [cellGet_bytesPut_ne r _ _ _ (by omega), cellGet_cellPut]
    simp [show b ≠ a by omega]

/-- A byte that is stored reads back. -/
theorem cellGet_bytesPut : (bs : List Byte) → (m : List Host.Cell) → (a i : Nat) → (h : i < bs.length) →
    cellGet (bytesPut m a bs) (a + i) = bs[i]
  | x :: r, m, a, 0, _ => by
    simp only [bytesPut, Nat.add_zero, List.getElem_cons_zero]
    rw [cellGet_bytesPut_ne r _ _ _ (by omega), cellGet_cellPut]
    simp
  | x :: r, m, a, i + 1, h => by
    simp only [bytesPut, List.getElem_cons_succ]
    have := cellGet_bytesPut r (cellPut m a x) (a + 1) i (by simpa using h)
    rw [← this]; congr 1; omega

theorem bytesPut_wf : (bs : List Byte) → (m : List Host.Cell) → (a : Nat) → Memory.wf m = true →
    Memory.wf (bytesPut m a bs) = true
  | [], _, _, h => h
  | x :: r, m, a, h => bytesPut_wf r (cellPut m a x) (a + 1) (cellPut_wf m a x h)

/-- Dropping entries keeps a table canonical. -/
theorem tableFrom_filter [DecidableEq α] (d : α) (p : Nat × α → Bool) :
    (t : Table α) → (lo : Nat) → tableFrom d lo t = true → tableFrom d lo (t.filter p) = true
  | [], _, _ => rfl
  | (j, w) :: r, lo, h => by
    simp only [tableFrom, Bool.and_eq_true, decide_eq_true_eq] at h
    have h2 := tableFrom_filter d p r (j + 1) h.2
    by_cases hp : p (j, w) = true
    · simp only [List.filter_cons, hp, if_true, tableFrom, Bool.and_eq_true, decide_eq_true_eq]
      exact ⟨h.1, h2⟩
    · simp only [List.filter_cons, hp]
      exact tableFrom_mono d (by omega) _ h2
theorem filter_mem_wf (m : List Host.Cell) (p : Host.Cell → Bool) (h : Memory.wf m = true) :
    Memory.wf (m.filter p) = true := by
  rw [memory_wf_eq] at *; exact tableFrom_filter 0 p m 0 h
theorem bytesClear_wf (m : List Host.Cell) (lo hi : Nat) (h : Memory.wf m = true) : Memory.wf (bytesClear m lo hi) = true :=
  filter_mem_wf m _ h
/-- The memory after reset is canonical. -/
theorem reset_mem_wf : Memory.wf State.reset.mem = true := rfl

end Sys2Proof.Machine
end

