-- ==== Sys2Proof/Laws/State.lean ====
section
/-! SUPPORT. What each update of State leaves unchanged, field by field, and that an entry that is written reads back. -/
namespace Sys2Proof.Machine

section
variable (s : State) (k : Nat)

@[simp] theorem State.setDie_regs (x : Die) : (s.setDie k x).regs = s.regs := rfl
@[simp] theorem State.setDie_stage (x : Die) : (s.setDie k x).stage = s.stage := rfl
@[simp] theorem State.setDie_snap (x : Die) : (s.setDie k x).snap = s.snap := rfl
@[simp] theorem State.setDie_readData (x : Die) : (s.setDie k x).readData = s.readData := rfl
@[simp] theorem State.setDie_resp (x : Die) : (s.setDie k x).resp = s.resp := rfl
@[simp] theorem State.setDie_readBytes (x : Die) : (s.setDie k x).readBytes = s.readBytes := rfl
@[simp] theorem State.setDie_tick (x : Die) : (s.setDie k x).tick = s.tick := rfl
@[simp] theorem State.setDie_cclk (x : Die) : (s.setDie k x).cclk = s.cclk := rfl
@[simp] theorem State.setDie_axes (x : Die) : (s.setDie k x).axes = s.axes := rfl
@[simp] theorem State.setDie_bus (x : Die) : (s.setDie k x).bus = s.bus := rfl
@[simp] theorem State.setDie_busLine (x : Die) : (s.setDie k x).busLine = s.busLine := rfl
@[simp] theorem State.setDie_pinHist (x : Die) : (s.setDie k x).pinHist = s.pinHist := rfl
@[simp] theorem State.setDie_lvOpen (x : Die) : (s.setDie k x).lvOpen = s.lvOpen := rfl
@[simp] theorem State.setDie_openHist (x : Die) : (s.setDie k x).openHist = s.openHist := rfl
@[simp] theorem State.setDie_latch (x : Die) : (s.setDie k x).latch = s.latch := rfl
@[simp] theorem State.setDie_pulses (x : Die) : (s.setDie k x).pulses = s.pulses := rfl
@[simp] theorem State.setDie_alarms (x : Die) : (s.setDie k x).alarms = s.alarms := rfl
@[simp] theorem State.setDie_actions (x : Die) : (s.setDie k x).actions = s.actions := rfl
@[simp] theorem State.setDie_stampAns (x : Die) : (s.setDie k x).stampAns = s.stampAns := rfl
@[simp] theorem State.setDie_timers (x : Die) : (s.setDie k x).timers = s.timers := rfl
@[simp] theorem State.setDie_ocLine (x : Die) : (s.setDie k x).ocLine = s.ocLine := rfl
@[simp] theorem State.setDie_cores (x : Die) : (s.setDie k x).cores = s.cores := rfl
@[simp] theorem State.setDie_events (x : Die) : (s.setDie k x).events = s.events := rfl
@[simp] theorem State.setDie_raises (x : Die) : (s.setDie k x).raises = s.raises := rfl
@[simp] theorem State.setDie_ustore (x : Die) : (s.setDie k x).ustore = s.ustore := rfl
@[simp] theorem State.setDie_mcImage (x : Die) : (s.setDie k x).mcImage = s.mcImage := rfl
@[simp] theorem State.setDie_patches (x : Die) : (s.setDie k x).patches = s.patches := rfl
@[simp] theorem State.setDie_mem (x : Die) : (s.setDie k x).mem = s.mem := rfl
@[simp] theorem State.setDie_poison (x : Die) : (s.setDie k x).poison = s.poison := rfl
@[simp] theorem State.setDie_bays (x : Die) : (s.setDie k x).bays = s.bays := rfl
@[simp] theorem State.setDie_hbmRows (x : Die) : (s.setDie k x).hbmRows = s.hbmRows := rfl
@[simp] theorem State.setDie_hbmSoft (x : Die) : (s.setDie k x).hbmSoft = s.hbmSoft := rfl
@[simp] theorem State.setDie_hbmHard (x : Die) : (s.setDie k x).hbmHard = s.hbmHard := rfl
@[simp] theorem State.setDie_refresh (x : Die) : (s.setDie k x).refresh = s.refresh := rfl
@[simp] theorem State.setDie_scrubPos (x : Die) : (s.setDie k x).scrubPos = s.scrubPos := rfl
@[simp] theorem State.setDie_arbiters (x : Die) : (s.setDie k x).arbiters = s.arbiters := rfl
@[simp] theorem State.setDie_trPorts (x : Die) : (s.setDie k x).trPorts = s.trPorts := rfl
@[simp] theorem State.setDie_buckets (x : Die) : (s.setDie k x).buckets = s.buckets := rfl
@[simp] theorem State.setDie_bridges (x : Die) : (s.setDie k x).bridges = s.bridges := rfl
@[simp] theorem State.setDie_link (x : Die) : (s.setDie k x).link = s.link := rfl
@[simp] theorem State.setDie_msix (x : Die) : (s.setDie k x).msix = s.msix := rfl
@[simp] theorem State.setDie_pba (x : Die) : (s.setDie k x).pba = s.pba := rfl
@[simp] theorem State.setDie_msixReq (x : Die) : (s.setDie k x).msixReq = s.msixReq := rfl
@[simp] theorem State.setDie_rings (x : Die) : (s.setDie k x).rings = s.rings := rfl
@[simp] theorem State.setDie_engines (x : Die) : (s.setDie k x).engines = s.engines := rfl
@[simp] theorem State.setDie_poll (x : Die) : (s.setDie k x).poll = s.poll := rfl
@[simp] theorem State.setDie_groupSeen (x : Die) : (s.setDie k x).groupSeen = s.groupSeen := rfl
@[simp] theorem State.setDie_marks (x : Die) : (s.setDie k x).marks = s.marks := rfl
@[simp] theorem State.setDie_jobs (x : Die) : (s.setDie k x).jobs = s.jobs := rfl
@[simp] theorem State.setDie_objLate (x : Die) : (s.setDie k x).objLate = s.objLate := rfl
@[simp] theorem State.setDie_ports (x : Die) : (s.setDie k x).ports = s.ports := rfl
@[simp] theorem State.setDie_ingests (x : Die) : (s.setDie k x).ingests = s.ingests := rfl
@[simp] theorem State.setDie_egresses (x : Die) : (s.setDie k x).egresses = s.egresses := rfl
@[simp] theorem State.setDie_rows (x : Die) : (s.setDie k x).rows = s.rows := rfl
@[simp] theorem State.setDie_slotErrs (x : Die) : (s.setDie k x).slotErrs = s.slotErrs := rfl
@[simp] theorem State.setDie_retired (x : Die) : (s.setDie k x).retired = s.retired := rfl
@[simp] theorem State.setDie_reports (x : Die) : (s.setDie k x).reports = s.reports := rfl
@[simp] theorem State.setDie_otp (x : Die) : (s.setDie k x).otp = s.otp := rfl
@[simp] theorem State.setDie_sec (x : Die) : (s.setDie k x).sec = s.sec := rfl
@[simp] theorem State.setDie_power (x : Die) : (s.setDie k x).power = s.power := rfl
@[simp] theorem State.setDie_tap (x : Die) : (s.setDie k x).tap = s.tap := rfl
@[simp] theorem State.setDie_traced (x : Die) : (s.setDie k x).traced = s.traced := rfl
@[simp] theorem State.setDie_evtClr (x : Die) : (s.setDie k x).evtClr = s.evtClr := rfl
@[simp] theorem State.setDie_traceCnt (x : Die) : (s.setDie k x).traceCnt = s.traceCnt := rfl
@[simp] theorem State.setDie_pending (x : Die) : (s.setDie k x).pending = s.pending := rfl
theorem State.die_read (x : Die) (j : Nat) : (s.setDie k x).die j = if j = k then x else s.die j := tget_tset _ _ _ _ _
@[simp] theorem State.die_self (x : Die) : (s.setDie k x).die k = x := tget_tset_self _ _ _ _
@[simp] theorem State.setDie_setDie (x y : Die) : (s.setDie k x).setDie k y = s.setDie k y := by unfold State.setDie; simp
@[simp] theorem State.setDie_axis (x : Die) (j : Nat) : (s.setDie k x).axis j = s.axis j := rfl
@[simp] theorem State.setDie_alarm (x : Die) (j : Nat) : (s.setDie k x).alarm j = s.alarm j := rfl
@[simp] theorem State.setDie_timer (x : Die) (j : Nat) : (s.setDie k x).timer j = s.timer j := rfl
@[simp] theorem State.setDie_core (x : Die) (j : Nat) : (s.setDie k x).core j = s.core j := rfl
@[simp] theorem State.setDie_job (x : Die) (j : Nat) : (s.setDie k x).job j = s.job j := rfl
@[simp] theorem State.setDie_ring (x : Die) (j : Nat) : (s.setDie k x).ring j = s.ring j := rfl
@[simp] theorem State.setDie_engine (x : Die) (j : Nat) : (s.setDie k x).engine j = s.engine j := rfl
@[simp] theorem State.setDie_port (x : Die) (j : Nat) : (s.setDie k x).port j = s.port j := rfl
@[simp] theorem State.setDie_row (x : Die) (j : Nat) : (s.setDie k x).row j = s.row j := rfl
@[simp] theorem State.setDie_bay (x : Die) (j : Nat) : (s.setDie k x).bay j = s.bay j := rfl
@[simp] theorem State.setDie_entry (x : Die) (j : Nat) : (s.setDie k x).entry j = s.entry j := rfl
@[simp] theorem State.setDie_arbiter (x : Die) (j : Nat) : (s.setDie k x).arbiter j = s.arbiter j := rfl
@[simp] theorem State.setDie_bridge (x : Die) (j : Nat) : (s.setDie k x).bridge j = s.bridge j := rfl
@[simp] theorem State.setDie_trPort (x : Die) (j : Nat) : (s.setDie k x).trPort j = s.trPort j := rfl
@[simp] theorem State.setDie_egress (x : Die) (j : Nat) : (s.setDie k x).egress j = s.egress j := rfl
@[simp] theorem State.setDie_regGet (x : Die) (r : RegName) (i : Nat) : regGet (s.setDie k x) r i = regGet s r i := rfl

@[simp] theorem State.setAxis_regs (x : Axis) : (s.setAxis k x).regs = s.regs := rfl
@[simp] theorem State.setAxis_stage (x : Axis) : (s.setAxis k x).stage = s.stage := rfl
@[simp] theorem State.setAxis_snap (x : Axis) : (s.setAxis k x).snap = s.snap := rfl
@[simp] theorem State.setAxis_readData (x : Axis) : (s.setAxis k x).readData = s.readData := rfl
@[simp] theorem State.setAxis_resp (x : Axis) : (s.setAxis k x).resp = s.resp := rfl
@[simp] theorem State.setAxis_readBytes (x : Axis) : (s.setAxis k x).readBytes = s.readBytes := rfl
@[simp] theorem State.setAxis_tick (x : Axis) : (s.setAxis k x).tick = s.tick := rfl
@[simp] theorem State.setAxis_cclk (x : Axis) : (s.setAxis k x).cclk = s.cclk := rfl
@[simp] theorem State.setAxis_dies (x : Axis) : (s.setAxis k x).dies = s.dies := rfl
@[simp] theorem State.setAxis_bus (x : Axis) : (s.setAxis k x).bus = s.bus := rfl
@[simp] theorem State.setAxis_busLine (x : Axis) : (s.setAxis k x).busLine = s.busLine := rfl
@[simp] theorem State.setAxis_pinHist (x : Axis) : (s.setAxis k x).pinHist = s.pinHist := rfl
@[simp] theorem State.setAxis_lvOpen (x : Axis) : (s.setAxis k x).lvOpen = s.lvOpen := rfl
@[simp] theorem State.setAxis_openHist (x : Axis) : (s.setAxis k x).openHist = s.openHist := rfl
@[simp] theorem State.setAxis_latch (x : Axis) : (s.setAxis k x).latch = s.latch := rfl
@[simp] theorem State.setAxis_pulses (x : Axis) : (s.setAxis k x).pulses = s.pulses := rfl
@[simp] theorem State.setAxis_alarms (x : Axis) : (s.setAxis k x).alarms = s.alarms := rfl
@[simp] theorem State.setAxis_actions (x : Axis) : (s.setAxis k x).actions = s.actions := rfl
@[simp] theorem State.setAxis_stampAns (x : Axis) : (s.setAxis k x).stampAns = s.stampAns := rfl
@[simp] theorem State.setAxis_timers (x : Axis) : (s.setAxis k x).timers = s.timers := rfl
@[simp] theorem State.setAxis_ocLine (x : Axis) : (s.setAxis k x).ocLine = s.ocLine := rfl
@[simp] theorem State.setAxis_cores (x : Axis) : (s.setAxis k x).cores = s.cores := rfl
@[simp] theorem State.setAxis_events (x : Axis) : (s.setAxis k x).events = s.events := rfl
@[simp] theorem State.setAxis_raises (x : Axis) : (s.setAxis k x).raises = s.raises := rfl
@[simp] theorem State.setAxis_ustore (x : Axis) : (s.setAxis k x).ustore = s.ustore := rfl
@[simp] theorem State.setAxis_mcImage (x : Axis) : (s.setAxis k x).mcImage = s.mcImage := rfl
@[simp] theorem State.setAxis_patches (x : Axis) : (s.setAxis k x).patches = s.patches := rfl
@[simp] theorem State.setAxis_mem (x : Axis) : (s.setAxis k x).mem = s.mem := rfl
@[simp] theorem State.setAxis_poison (x : Axis) : (s.setAxis k x).poison = s.poison := rfl
@[simp] theorem State.setAxis_bays (x : Axis) : (s.setAxis k x).bays = s.bays := rfl
@[simp] theorem State.setAxis_hbmRows (x : Axis) : (s.setAxis k x).hbmRows = s.hbmRows := rfl
@[simp] theorem State.setAxis_hbmSoft (x : Axis) : (s.setAxis k x).hbmSoft = s.hbmSoft := rfl
@[simp] theorem State.setAxis_hbmHard (x : Axis) : (s.setAxis k x).hbmHard = s.hbmHard := rfl
@[simp] theorem State.setAxis_refresh (x : Axis) : (s.setAxis k x).refresh = s.refresh := rfl
@[simp] theorem State.setAxis_scrubPos (x : Axis) : (s.setAxis k x).scrubPos = s.scrubPos := rfl
@[simp] theorem State.setAxis_arbiters (x : Axis) : (s.setAxis k x).arbiters = s.arbiters := rfl
@[simp] theorem State.setAxis_trPorts (x : Axis) : (s.setAxis k x).trPorts = s.trPorts := rfl
@[simp] theorem State.setAxis_buckets (x : Axis) : (s.setAxis k x).buckets = s.buckets := rfl
@[simp] theorem State.setAxis_bridges (x : Axis) : (s.setAxis k x).bridges = s.bridges := rfl
@[simp] theorem State.setAxis_link (x : Axis) : (s.setAxis k x).link = s.link := rfl
@[simp] theorem State.setAxis_msix (x : Axis) : (s.setAxis k x).msix = s.msix := rfl
@[simp] theorem State.setAxis_pba (x : Axis) : (s.setAxis k x).pba = s.pba := rfl
@[simp] theorem State.setAxis_msixReq (x : Axis) : (s.setAxis k x).msixReq = s.msixReq := rfl
@[simp] theorem State.setAxis_rings (x : Axis) : (s.setAxis k x).rings = s.rings := rfl
@[simp] theorem State.setAxis_engines (x : Axis) : (s.setAxis k x).engines = s.engines := rfl
@[simp] theorem State.setAxis_poll (x : Axis) : (s.setAxis k x).poll = s.poll := rfl
@[simp] theorem State.setAxis_groupSeen (x : Axis) : (s.setAxis k x).groupSeen = s.groupSeen := rfl
@[simp] theorem State.setAxis_marks (x : Axis) : (s.setAxis k x).marks = s.marks := rfl
@[simp] theorem State.setAxis_jobs (x : Axis) : (s.setAxis k x).jobs = s.jobs := rfl
@[simp] theorem State.setAxis_objLate (x : Axis) : (s.setAxis k x).objLate = s.objLate := rfl
@[simp] theorem State.setAxis_ports (x : Axis) : (s.setAxis k x).ports = s.ports := rfl
@[simp] theorem State.setAxis_ingests (x : Axis) : (s.setAxis k x).ingests = s.ingests := rfl
@[simp] theorem State.setAxis_egresses (x : Axis) : (s.setAxis k x).egresses = s.egresses := rfl
@[simp] theorem State.setAxis_rows (x : Axis) : (s.setAxis k x).rows = s.rows := rfl
@[simp] theorem State.setAxis_slotErrs (x : Axis) : (s.setAxis k x).slotErrs = s.slotErrs := rfl
@[simp] theorem State.setAxis_retired (x : Axis) : (s.setAxis k x).retired = s.retired := rfl
@[simp] theorem State.setAxis_reports (x : Axis) : (s.setAxis k x).reports = s.reports := rfl
@[simp] theorem State.setAxis_otp (x : Axis) : (s.setAxis k x).otp = s.otp := rfl
@[simp] theorem State.setAxis_sec (x : Axis) : (s.setAxis k x).sec = s.sec := rfl
@[simp] theorem State.setAxis_power (x : Axis) : (s.setAxis k x).power = s.power := rfl
@[simp] theorem State.setAxis_tap (x : Axis) : (s.setAxis k x).tap = s.tap := rfl
@[simp] theorem State.setAxis_traced (x : Axis) : (s.setAxis k x).traced = s.traced := rfl
@[simp] theorem State.setAxis_evtClr (x : Axis) : (s.setAxis k x).evtClr = s.evtClr := rfl
@[simp] theorem State.setAxis_traceCnt (x : Axis) : (s.setAxis k x).traceCnt = s.traceCnt := rfl
@[simp] theorem State.setAxis_pending (x : Axis) : (s.setAxis k x).pending = s.pending := rfl
theorem State.axis_read (x : Axis) (j : Nat) : (s.setAxis k x).axis j = if j = k then x else s.axis j := tget_tset _ _ _ _ _
@[simp] theorem State.axis_self (x : Axis) : (s.setAxis k x).axis k = x := tget_tset_self _ _ _ _
@[simp] theorem State.setAxis_setAxis (x y : Axis) : (s.setAxis k x).setAxis k y = s.setAxis k y := by unfold State.setAxis; simp
@[simp] theorem State.setAxis_die (x : Axis) (j : Nat) : (s.setAxis k x).die j = s.die j := rfl
@[simp] theorem State.setAxis_alarm (x : Axis) (j : Nat) : (s.setAxis k x).alarm j = s.alarm j := rfl
@[simp] theorem State.setAxis_timer (x : Axis) (j : Nat) : (s.setAxis k x).timer j = s.timer j := rfl
@[simp] theorem State.setAxis_core (x : Axis) (j : Nat) : (s.setAxis k x).core j = s.core j := rfl
@[simp] theorem State.setAxis_job (x : Axis) (j : Nat) : (s.setAxis k x).job j = s.job j := rfl
@[simp] theorem State.setAxis_ring (x : Axis) (j : Nat) : (s.setAxis k x).ring j = s.ring j := rfl
@[simp] theorem State.setAxis_engine (x : Axis) (j : Nat) : (s.setAxis k x).engine j = s.engine j := rfl
@[simp] theorem State.setAxis_port (x : Axis) (j : Nat) : (s.setAxis k x).port j = s.port j := rfl
@[simp] theorem State.setAxis_row (x : Axis) (j : Nat) : (s.setAxis k x).row j = s.row j := rfl
@[simp] theorem State.setAxis_bay (x : Axis) (j : Nat) : (s.setAxis k x).bay j = s.bay j := rfl
@[simp] theorem State.setAxis_entry (x : Axis) (j : Nat) : (s.setAxis k x).entry j = s.entry j := rfl
@[simp] theorem State.setAxis_arbiter (x : Axis) (j : Nat) : (s.setAxis k x).arbiter j = s.arbiter j := rfl
@[simp] theorem State.setAxis_bridge (x : Axis) (j : Nat) : (s.setAxis k x).bridge j = s.bridge j := rfl
@[simp] theorem State.setAxis_trPort (x : Axis) (j : Nat) : (s.setAxis k x).trPort j = s.trPort j := rfl
@[simp] theorem State.setAxis_egress (x : Axis) (j : Nat) : (s.setAxis k x).egress j = s.egress j := rfl
@[simp] theorem State.setAxis_regGet (x : Axis) (r : RegName) (i : Nat) : regGet (s.setAxis k x) r i = regGet s r i := rfl

@[simp] theorem State.setAlarm_regs (x : Alarm) : (s.setAlarm k x).regs = s.regs := rfl
@[simp] theorem State.setAlarm_stage (x : Alarm) : (s.setAlarm k x).stage = s.stage := rfl
@[simp] theorem State.setAlarm_snap (x : Alarm) : (s.setAlarm k x).snap = s.snap := rfl
@[simp] theorem State.setAlarm_readData (x : Alarm) : (s.setAlarm k x).readData = s.readData := rfl
@[simp] theorem State.setAlarm_resp (x : Alarm) : (s.setAlarm k x).resp = s.resp := rfl
@[simp] theorem State.setAlarm_readBytes (x : Alarm) : (s.setAlarm k x).readBytes = s.readBytes := rfl
@[simp] theorem State.setAlarm_tick (x : Alarm) : (s.setAlarm k x).tick = s.tick := rfl
@[simp] theorem State.setAlarm_cclk (x : Alarm) : (s.setAlarm k x).cclk = s.cclk := rfl
@[simp] theorem State.setAlarm_dies (x : Alarm) : (s.setAlarm k x).dies = s.dies := rfl
@[simp] theorem State.setAlarm_axes (x : Alarm) : (s.setAlarm k x).axes = s.axes := rfl
@[simp] theorem State.setAlarm_bus (x : Alarm) : (s.setAlarm k x).bus = s.bus := rfl
@[simp] theorem State.setAlarm_busLine (x : Alarm) : (s.setAlarm k x).busLine = s.busLine := rfl
@[simp] theorem State.setAlarm_pinHist (x : Alarm) : (s.setAlarm k x).pinHist = s.pinHist := rfl
@[simp] theorem State.setAlarm_lvOpen (x : Alarm) : (s.setAlarm k x).lvOpen = s.lvOpen := rfl
@[simp] theorem State.setAlarm_openHist (x : Alarm) : (s.setAlarm k x).openHist = s.openHist := rfl
@[simp] theorem State.setAlarm_latch (x : Alarm) : (s.setAlarm k x).latch = s.latch := rfl
@[simp] theorem State.setAlarm_pulses (x : Alarm) : (s.setAlarm k x).pulses = s.pulses := rfl
@[simp] theorem State.setAlarm_actions (x : Alarm) : (s.setAlarm k x).actions = s.actions := rfl
@[simp] theorem State.setAlarm_stampAns (x : Alarm) : (s.setAlarm k x).stampAns = s.stampAns := rfl
@[simp] theorem State.setAlarm_timers (x : Alarm) : (s.setAlarm k x).timers = s.timers := rfl
@[simp] theorem State.setAlarm_ocLine (x : Alarm) : (s.setAlarm k x).ocLine = s.ocLine := rfl
@[simp] theorem State.setAlarm_cores (x : Alarm) : (s.setAlarm k x).cores = s.cores := rfl
@[simp] theorem State.setAlarm_events (x : Alarm) : (s.setAlarm k x).events = s.events := rfl
@[simp] theorem State.setAlarm_raises (x : Alarm) : (s.setAlarm k x).raises = s.raises := rfl
@[simp] theorem State.setAlarm_ustore (x : Alarm) : (s.setAlarm k x).ustore = s.ustore := rfl
@[simp] theorem State.setAlarm_mcImage (x : Alarm) : (s.setAlarm k x).mcImage = s.mcImage := rfl
@[simp] theorem State.setAlarm_patches (x : Alarm) : (s.setAlarm k x).patches = s.patches := rfl
@[simp] theorem State.setAlarm_mem (x : Alarm) : (s.setAlarm k x).mem = s.mem := rfl
@[simp] theorem State.setAlarm_poison (x : Alarm) : (s.setAlarm k x).poison = s.poison := rfl
@[simp] theorem State.setAlarm_bays (x : Alarm) : (s.setAlarm k x).bays = s.bays := rfl
@[simp] theorem State.setAlarm_hbmRows (x : Alarm) : (s.setAlarm k x).hbmRows = s.hbmRows := rfl
@[simp] theorem State.setAlarm_hbmSoft (x : Alarm) : (s.setAlarm k x).hbmSoft = s.hbmSoft := rfl
@[simp] theorem State.setAlarm_hbmHard (x : Alarm) : (s.setAlarm k x).hbmHard = s.hbmHard := rfl
@[simp] theorem State.setAlarm_refresh (x : Alarm) : (s.setAlarm k x).refresh = s.refresh := rfl
@[simp] theorem State.setAlarm_scrubPos (x : Alarm) : (s.setAlarm k x).scrubPos = s.scrubPos := rfl
@[simp] theorem State.setAlarm_arbiters (x : Alarm) : (s.setAlarm k x).arbiters = s.arbiters := rfl
@[simp] theorem State.setAlarm_trPorts (x : Alarm) : (s.setAlarm k x).trPorts = s.trPorts := rfl
@[simp] theorem State.setAlarm_buckets (x : Alarm) : (s.setAlarm k x).buckets = s.buckets := rfl
@[simp] theorem State.setAlarm_bridges (x : Alarm) : (s.setAlarm k x).bridges = s.bridges := rfl
@[simp] theorem State.setAlarm_link (x : Alarm) : (s.setAlarm k x).link = s.link := rfl
@[simp] theorem State.setAlarm_msix (x : Alarm) : (s.setAlarm k x).msix = s.msix := rfl
@[simp] theorem State.setAlarm_pba (x : Alarm) : (s.setAlarm k x).pba = s.pba := rfl
@[simp] theorem State.setAlarm_msixReq (x : Alarm) : (s.setAlarm k x).msixReq = s.msixReq := rfl
@[simp] theorem State.setAlarm_rings (x : Alarm) : (s.setAlarm k x).rings = s.rings := rfl
@[simp] theorem State.setAlarm_engines (x : Alarm) : (s.setAlarm k x).engines = s.engines := rfl
@[simp] theorem State.setAlarm_poll (x : Alarm) : (s.setAlarm k x).poll = s.poll := rfl
@[simp] theorem State.setAlarm_groupSeen (x : Alarm) : (s.setAlarm k x).groupSeen = s.groupSeen := rfl
@[simp] theorem State.setAlarm_marks (x : Alarm) : (s.setAlarm k x).marks = s.marks := rfl
@[simp] theorem State.setAlarm_jobs (x : Alarm) : (s.setAlarm k x).jobs = s.jobs := rfl
@[simp] theorem State.setAlarm_objLate (x : Alarm) : (s.setAlarm k x).objLate = s.objLate := rfl
@[simp] theorem State.setAlarm_ports (x : Alarm) : (s.setAlarm k x).ports = s.ports := rfl
@[simp] theorem State.setAlarm_ingests (x : Alarm) : (s.setAlarm k x).ingests = s.ingests := rfl
@[simp] theorem State.setAlarm_egresses (x : Alarm) : (s.setAlarm k x).egresses = s.egresses := rfl
@[simp] theorem State.setAlarm_rows (x : Alarm) : (s.setAlarm k x).rows = s.rows := rfl
@[simp] theorem State.setAlarm_slotErrs (x : Alarm) : (s.setAlarm k x).slotErrs = s.slotErrs := rfl
@[simp] theorem State.setAlarm_retired (x : Alarm) : (s.setAlarm k x).retired = s.retired := rfl
@[simp] theorem State.setAlarm_reports (x : Alarm) : (s.setAlarm k x).reports = s.reports := rfl
@[simp] theorem State.setAlarm_otp (x : Alarm) : (s.setAlarm k x).otp = s.otp := rfl
@[simp] theorem State.setAlarm_sec (x : Alarm) : (s.setAlarm k x).sec = s.sec := rfl
@[simp] theorem State.setAlarm_power (x : Alarm) : (s.setAlarm k x).power = s.power := rfl
@[simp] theorem State.setAlarm_tap (x : Alarm) : (s.setAlarm k x).tap = s.tap := rfl
@[simp] theorem State.setAlarm_traced (x : Alarm) : (s.setAlarm k x).traced = s.traced := rfl
@[simp] theorem State.setAlarm_evtClr (x : Alarm) : (s.setAlarm k x).evtClr = s.evtClr := rfl
@[simp] theorem State.setAlarm_traceCnt (x : Alarm) : (s.setAlarm k x).traceCnt = s.traceCnt := rfl
@[simp] theorem State.setAlarm_pending (x : Alarm) : (s.setAlarm k x).pending = s.pending := rfl
theorem State.alarm_read (x : Alarm) (j : Nat) : (s.setAlarm k x).alarm j = if j = k then x else s.alarm j := tget_tset _ _ _ _ _
@[simp] theorem State.alarm_self (x : Alarm) : (s.setAlarm k x).alarm k = x := tget_tset_self _ _ _ _
@[simp] theorem State.setAlarm_setAlarm (x y : Alarm) : (s.setAlarm k x).setAlarm k y = s.setAlarm k y := by unfold State.setAlarm; simp
@[simp] theorem State.setAlarm_die (x : Alarm) (j : Nat) : (s.setAlarm k x).die j = s.die j := rfl
@[simp] theorem State.setAlarm_axis (x : Alarm) (j : Nat) : (s.setAlarm k x).axis j = s.axis j := rfl
@[simp] theorem State.setAlarm_timer (x : Alarm) (j : Nat) : (s.setAlarm k x).timer j = s.timer j := rfl
@[simp] theorem State.setAlarm_core (x : Alarm) (j : Nat) : (s.setAlarm k x).core j = s.core j := rfl
@[simp] theorem State.setAlarm_job (x : Alarm) (j : Nat) : (s.setAlarm k x).job j = s.job j := rfl
@[simp] theorem State.setAlarm_ring (x : Alarm) (j : Nat) : (s.setAlarm k x).ring j = s.ring j := rfl
@[simp] theorem State.setAlarm_engine (x : Alarm) (j : Nat) : (s.setAlarm k x).engine j = s.engine j := rfl
@[simp] theorem State.setAlarm_port (x : Alarm) (j : Nat) : (s.setAlarm k x).port j = s.port j := rfl
@[simp] theorem State.setAlarm_row (x : Alarm) (j : Nat) : (s.setAlarm k x).row j = s.row j := rfl
@[simp] theorem State.setAlarm_bay (x : Alarm) (j : Nat) : (s.setAlarm k x).bay j = s.bay j := rfl
@[simp] theorem State.setAlarm_entry (x : Alarm) (j : Nat) : (s.setAlarm k x).entry j = s.entry j := rfl
@[simp] theorem State.setAlarm_arbiter (x : Alarm) (j : Nat) : (s.setAlarm k x).arbiter j = s.arbiter j := rfl
@[simp] theorem State.setAlarm_bridge (x : Alarm) (j : Nat) : (s.setAlarm k x).bridge j = s.bridge j := rfl
@[simp] theorem State.setAlarm_trPort (x : Alarm) (j : Nat) : (s.setAlarm k x).trPort j = s.trPort j := rfl
@[simp] theorem State.setAlarm_egress (x : Alarm) (j : Nat) : (s.setAlarm k x).egress j = s.egress j := rfl
@[simp] theorem State.setAlarm_regGet (x : Alarm) (r : RegName) (i : Nat) : regGet (s.setAlarm k x) r i = regGet s r i := rfl

@[simp] theorem State.setTimer_regs (x : Timer) : (s.setTimer k x).regs = s.regs := rfl
@[simp] theorem State.setTimer_stage (x : Timer) : (s.setTimer k x).stage = s.stage := rfl
@[simp] theorem State.setTimer_snap (x : Timer) : (s.setTimer k x).snap = s.snap := rfl
@[simp] theorem State.setTimer_readData (x : Timer) : (s.setTimer k x).readData = s.readData := rfl
@[simp] theorem State.setTimer_resp (x : Timer) : (s.setTimer k x).resp = s.resp := rfl
@[simp] theorem State.setTimer_readBytes (x : Timer) : (s.setTimer k x).readBytes = s.readBytes := rfl
@[simp] theorem State.setTimer_tick (x : Timer) : (s.setTimer k x).tick = s.tick := rfl
@[simp] theorem State.setTimer_cclk (x : Timer) : (s.setTimer k x).cclk = s.cclk := rfl
@[simp] theorem State.setTimer_dies (x : Timer) : (s.setTimer k x).dies = s.dies := rfl
@[simp] theorem State.setTimer_axes (x : Timer) : (s.setTimer k x).axes = s.axes := rfl
@[simp] theorem State.setTimer_bus (x : Timer) : (s.setTimer k x).bus = s.bus := rfl
@[simp] theorem State.setTimer_busLine (x : Timer) : (s.setTimer k x).busLine = s.busLine := rfl
@[simp] theorem State.setTimer_pinHist (x : Timer) : (s.setTimer k x).pinHist = s.pinHist := rfl
@[simp] theorem State.setTimer_lvOpen (x : Timer) : (s.setTimer k x).lvOpen = s.lvOpen := rfl
@[simp] theorem State.setTimer_openHist (x : Timer) : (s.setTimer k x).openHist = s.openHist := rfl
@[simp] theorem State.setTimer_latch (x : Timer) : (s.setTimer k x).latch = s.latch := rfl
@[simp] theorem State.setTimer_pulses (x : Timer) : (s.setTimer k x).pulses = s.pulses := rfl
@[simp] theorem State.setTimer_alarms (x : Timer) : (s.setTimer k x).alarms = s.alarms := rfl
@[simp] theorem State.setTimer_actions (x : Timer) : (s.setTimer k x).actions = s.actions := rfl
@[simp] theorem State.setTimer_stampAns (x : Timer) : (s.setTimer k x).stampAns = s.stampAns := rfl
@[simp] theorem State.setTimer_ocLine (x : Timer) : (s.setTimer k x).ocLine = s.ocLine := rfl
@[simp] theorem State.setTimer_cores (x : Timer) : (s.setTimer k x).cores = s.cores := rfl
@[simp] theorem State.setTimer_events (x : Timer) : (s.setTimer k x).events = s.events := rfl
@[simp] theorem State.setTimer_raises (x : Timer) : (s.setTimer k x).raises = s.raises := rfl
@[simp] theorem State.setTimer_ustore (x : Timer) : (s.setTimer k x).ustore = s.ustore := rfl
@[simp] theorem State.setTimer_mcImage (x : Timer) : (s.setTimer k x).mcImage = s.mcImage := rfl
@[simp] theorem State.setTimer_patches (x : Timer) : (s.setTimer k x).patches = s.patches := rfl
@[simp] theorem State.setTimer_mem (x : Timer) : (s.setTimer k x).mem = s.mem := rfl
@[simp] theorem State.setTimer_poison (x : Timer) : (s.setTimer k x).poison = s.poison := rfl
@[simp] theorem State.setTimer_bays (x : Timer) : (s.setTimer k x).bays = s.bays := rfl
@[simp] theorem State.setTimer_hbmRows (x : Timer) : (s.setTimer k x).hbmRows = s.hbmRows := rfl
@[simp] theorem State.setTimer_hbmSoft (x : Timer) : (s.setTimer k x).hbmSoft = s.hbmSoft := rfl
@[simp] theorem State.setTimer_hbmHard (x : Timer) : (s.setTimer k x).hbmHard = s.hbmHard := rfl
@[simp] theorem State.setTimer_refresh (x : Timer) : (s.setTimer k x).refresh = s.refresh := rfl
@[simp] theorem State.setTimer_scrubPos (x : Timer) : (s.setTimer k x).scrubPos = s.scrubPos := rfl
@[simp] theorem State.setTimer_arbiters (x : Timer) : (s.setTimer k x).arbiters = s.arbiters := rfl
@[simp] theorem State.setTimer_trPorts (x : Timer) : (s.setTimer k x).trPorts = s.trPorts := rfl
@[simp] theorem State.setTimer_buckets (x : Timer) : (s.setTimer k x).buckets = s.buckets := rfl
@[simp] theorem State.setTimer_bridges (x : Timer) : (s.setTimer k x).bridges = s.bridges := rfl
@[simp] theorem State.setTimer_link (x : Timer) : (s.setTimer k x).link = s.link := rfl
@[simp] theorem State.setTimer_msix (x : Timer) : (s.setTimer k x).msix = s.msix := rfl
@[simp] theorem State.setTimer_pba (x : Timer) : (s.setTimer k x).pba = s.pba := rfl
@[simp] theorem State.setTimer_msixReq (x : Timer) : (s.setTimer k x).msixReq = s.msixReq := rfl
@[simp] theorem State.setTimer_rings (x : Timer) : (s.setTimer k x).rings = s.rings := rfl
@[simp] theorem State.setTimer_engines (x : Timer) : (s.setTimer k x).engines = s.engines := rfl
@[simp] theorem State.setTimer_poll (x : Timer) : (s.setTimer k x).poll = s.poll := rfl
@[simp] theorem State.setTimer_groupSeen (x : Timer) : (s.setTimer k x).groupSeen = s.groupSeen := rfl
@[simp] theorem State.setTimer_marks (x : Timer) : (s.setTimer k x).marks = s.marks := rfl
@[simp] theorem State.setTimer_jobs (x : Timer) : (s.setTimer k x).jobs = s.jobs := rfl
@[simp] theorem State.setTimer_objLate (x : Timer) : (s.setTimer k x).objLate = s.objLate := rfl
@[simp] theorem State.setTimer_ports (x : Timer) : (s.setTimer k x).ports = s.ports := rfl
@[simp] theorem State.setTimer_ingests (x : Timer) : (s.setTimer k x).ingests = s.ingests := rfl
@[simp] theorem State.setTimer_egresses (x : Timer) : (s.setTimer k x).egresses = s.egresses := rfl
@[simp] theorem State.setTimer_rows (x : Timer) : (s.setTimer k x).rows = s.rows := rfl
@[simp] theorem State.setTimer_slotErrs (x : Timer) : (s.setTimer k x).slotErrs = s.slotErrs := rfl
@[simp] theorem State.setTimer_retired (x : Timer) : (s.setTimer k x).retired = s.retired := rfl
@[simp] theorem State.setTimer_reports (x : Timer) : (s.setTimer k x).reports = s.reports := rfl
@[simp] theorem State.setTimer_otp (x : Timer) : (s.setTimer k x).otp = s.otp := rfl
@[simp] theorem State.setTimer_sec (x : Timer) : (s.setTimer k x).sec = s.sec := rfl
@[simp] theorem State.setTimer_power (x : Timer) : (s.setTimer k x).power = s.power := rfl
@[simp] theorem State.setTimer_tap (x : Timer) : (s.setTimer k x).tap = s.tap := rfl
@[simp] theorem State.setTimer_traced (x : Timer) : (s.setTimer k x).traced = s.traced := rfl
@[simp] theorem State.setTimer_evtClr (x : Timer) : (s.setTimer k x).evtClr = s.evtClr := rfl
@[simp] theorem State.setTimer_traceCnt (x : Timer) : (s.setTimer k x).traceCnt = s.traceCnt := rfl
@[simp] theorem State.setTimer_pending (x : Timer) : (s.setTimer k x).pending = s.pending := rfl
theorem State.timer_read (x : Timer) (j : Nat) : (s.setTimer k x).timer j = if j = k then x else s.timer j := tget_tset _ _ _ _ _
@[simp] theorem State.timer_self (x : Timer) : (s.setTimer k x).timer k = x := tget_tset_self _ _ _ _
@[simp] theorem State.setTimer_setTimer (x y : Timer) : (s.setTimer k x).setTimer k y = s.setTimer k y := by unfold State.setTimer; simp
@[simp] theorem State.setTimer_die (x : Timer) (j : Nat) : (s.setTimer k x).die j = s.die j := rfl
@[simp] theorem State.setTimer_axis (x : Timer) (j : Nat) : (s.setTimer k x).axis j = s.axis j := rfl
@[simp] theorem State.setTimer_alarm (x : Timer) (j : Nat) : (s.setTimer k x).alarm j = s.alarm j := rfl
@[simp] theorem State.setTimer_core (x : Timer) (j : Nat) : (s.setTimer k x).core j = s.core j := rfl
@[simp] theorem State.setTimer_job (x : Timer) (j : Nat) : (s.setTimer k x).job j = s.job j := rfl
@[simp] theorem State.setTimer_ring (x : Timer) (j : Nat) : (s.setTimer k x).ring j = s.ring j := rfl
@[simp] theorem State.setTimer_engine (x : Timer) (j : Nat) : (s.setTimer k x).engine j = s.engine j := rfl
@[simp] theorem State.setTimer_port (x : Timer) (j : Nat) : (s.setTimer k x).port j = s.port j := rfl
@[simp] theorem State.setTimer_row (x : Timer) (j : Nat) : (s.setTimer k x).row j = s.row j := rfl
@[simp] theorem State.setTimer_bay (x : Timer) (j : Nat) : (s.setTimer k x).bay j = s.bay j := rfl
@[simp] theorem State.setTimer_entry (x : Timer) (j : Nat) : (s.setTimer k x).entry j = s.entry j := rfl
@[simp] theorem State.setTimer_arbiter (x : Timer) (j : Nat) : (s.setTimer k x).arbiter j = s.arbiter j := rfl
@[simp] theorem State.setTimer_bridge (x : Timer) (j : Nat) : (s.setTimer k x).bridge j = s.bridge j := rfl
@[simp] theorem State.setTimer_trPort (x : Timer) (j : Nat) : (s.setTimer k x).trPort j = s.trPort j := rfl
@[simp] theorem State.setTimer_egress (x : Timer) (j : Nat) : (s.setTimer k x).egress j = s.egress j := rfl
@[simp] theorem State.setTimer_regGet (x : Timer) (r : RegName) (i : Nat) : regGet (s.setTimer k x) r i = regGet s r i := rfl

@[simp] theorem State.setCore_regs (x : Core) : (s.setCore k x).regs = s.regs := rfl
@[simp] theorem State.setCore_stage (x : Core) : (s.setCore k x).stage = s.stage := rfl
@[simp] theorem State.setCore_snap (x : Core) : (s.setCore k x).snap = s.snap := rfl
@[simp] theorem State.setCore_readData (x : Core) : (s.setCore k x).readData = s.readData := rfl
@[simp] theorem State.setCore_resp (x : Core) : (s.setCore k x).resp = s.resp := rfl
@[simp] theorem State.setCore_readBytes (x : Core) : (s.setCore k x).readBytes = s.readBytes := rfl
@[simp] theorem State.setCore_tick (x : Core) : (s.setCore k x).tick = s.tick := rfl
@[simp] theorem State.setCore_cclk (x : Core) : (s.setCore k x).cclk = s.cclk := rfl
@[simp] theorem State.setCore_dies (x : Core) : (s.setCore k x).dies = s.dies := rfl
@[simp] theorem State.setCore_axes (x : Core) : (s.setCore k x).axes = s.axes := rfl
@[simp] theorem State.setCore_bus (x : Core) : (s.setCore k x).bus = s.bus := rfl
@[simp] theorem State.setCore_busLine (x : Core) : (s.setCore k x).busLine = s.busLine := rfl
@[simp] theorem State.setCore_pinHist (x : Core) : (s.setCore k x).pinHist = s.pinHist := rfl
@[simp] theorem State.setCore_lvOpen (x : Core) : (s.setCore k x).lvOpen = s.lvOpen := rfl
@[simp] theorem State.setCore_openHist (x : Core) : (s.setCore k x).openHist = s.openHist := rfl
@[simp] theorem State.setCore_latch (x : Core) : (s.setCore k x).latch = s.latch := rfl
@[simp] theorem State.setCore_pulses (x : Core) : (s.setCore k x).pulses = s.pulses := rfl
@[simp] theorem State.setCore_alarms (x : Core) : (s.setCore k x).alarms = s.alarms := rfl
@[simp] theorem State.setCore_actions (x : Core) : (s.setCore k x).actions = s.actions := rfl
@[simp] theorem State.setCore_stampAns (x : Core) : (s.setCore k x).stampAns = s.stampAns := rfl
@[simp] theorem State.setCore_timers (x : Core) : (s.setCore k x).timers = s.timers := rfl
@[simp] theorem State.setCore_ocLine (x : Core) : (s.setCore k x).ocLine = s.ocLine := rfl
@[simp] theorem State.setCore_events (x : Core) : (s.setCore k x).events = s.events := rfl
@[simp] theorem State.setCore_raises (x : Core) : (s.setCore k x).raises = s.raises := rfl
@[simp] theorem State.setCore_ustore (x : Core) : (s.setCore k x).ustore = s.ustore := rfl
@[simp] theorem State.setCore_mcImage (x : Core) : (s.setCore k x).mcImage = s.mcImage := rfl
@[simp] theorem State.setCore_patches (x : Core) : (s.setCore k x).patches = s.patches := rfl
@[simp] theorem State.setCore_mem (x : Core) : (s.setCore k x).mem = s.mem := rfl
@[simp] theorem State.setCore_poison (x : Core) : (s.setCore k x).poison = s.poison := rfl
@[simp] theorem State.setCore_bays (x : Core) : (s.setCore k x).bays = s.bays := rfl
@[simp] theorem State.setCore_hbmRows (x : Core) : (s.setCore k x).hbmRows = s.hbmRows := rfl
@[simp] theorem State.setCore_hbmSoft (x : Core) : (s.setCore k x).hbmSoft = s.hbmSoft := rfl
@[simp] theorem State.setCore_hbmHard (x : Core) : (s.setCore k x).hbmHard = s.hbmHard := rfl
@[simp] theorem State.setCore_refresh (x : Core) : (s.setCore k x).refresh = s.refresh := rfl
@[simp] theorem State.setCore_scrubPos (x : Core) : (s.setCore k x).scrubPos = s.scrubPos := rfl
@[simp] theorem State.setCore_arbiters (x : Core) : (s.setCore k x).arbiters = s.arbiters := rfl
@[simp] theorem State.setCore_trPorts (x : Core) : (s.setCore k x).trPorts = s.trPorts := rfl
@[simp] theorem State.setCore_buckets (x : Core) : (s.setCore k x).buckets = s.buckets := rfl
@[simp] theorem State.setCore_bridges (x : Core) : (s.setCore k x).bridges = s.bridges := rfl
@[simp] theorem State.setCore_link (x : Core) : (s.setCore k x).link = s.link := rfl
@[simp] theorem State.setCore_msix (x : Core) : (s.setCore k x).msix = s.msix := rfl
@[simp] theorem State.setCore_pba (x : Core) : (s.setCore k x).pba = s.pba := rfl
@[simp] theorem State.setCore_msixReq (x : Core) : (s.setCore k x).msixReq = s.msixReq := rfl
@[simp] theorem State.setCore_rings (x : Core) : (s.setCore k x).rings = s.rings := rfl
@[simp] theorem State.setCore_engines (x : Core) : (s.setCore k x).engines = s.engines := rfl
@[simp] theorem State.setCore_poll (x : Core) : (s.setCore k x).poll = s.poll := rfl
@[simp] theorem State.setCore_groupSeen (x : Core) : (s.setCore k x).groupSeen = s.groupSeen := rfl
@[simp] theorem State.setCore_marks (x : Core) : (s.setCore k x).marks = s.marks := rfl
@[simp] theorem State.setCore_jobs (x : Core) : (s.setCore k x).jobs = s.jobs := rfl
@[simp] theorem State.setCore_objLate (x : Core) : (s.setCore k x).objLate = s.objLate := rfl
@[simp] theorem State.setCore_ports (x : Core) : (s.setCore k x).ports = s.ports := rfl
@[simp] theorem State.setCore_ingests (x : Core) : (s.setCore k x).ingests = s.ingests := rfl
@[simp] theorem State.setCore_egresses (x : Core) : (s.setCore k x).egresses = s.egresses := rfl
@[simp] theorem State.setCore_rows (x : Core) : (s.setCore k x).rows = s.rows := rfl
@[simp] theorem State.setCore_slotErrs (x : Core) : (s.setCore k x).slotErrs = s.slotErrs := rfl
@[simp] theorem State.setCore_retired (x : Core) : (s.setCore k x).retired = s.retired := rfl
@[simp] theorem State.setCore_reports (x : Core) : (s.setCore k x).reports = s.reports := rfl
@[simp] theorem State.setCore_otp (x : Core) : (s.setCore k x).otp = s.otp := rfl
@[simp] theorem State.setCore_sec (x : Core) : (s.setCore k x).sec = s.sec := rfl
@[simp] theorem State.setCore_power (x : Core) : (s.setCore k x).power = s.power := rfl
@[simp] theorem State.setCore_tap (x : Core) : (s.setCore k x).tap = s.tap := rfl
@[simp] theorem State.setCore_traced (x : Core) : (s.setCore k x).traced = s.traced := rfl
@[simp] theorem State.setCore_evtClr (x : Core) : (s.setCore k x).evtClr = s.evtClr := rfl
@[simp] theorem State.setCore_traceCnt (x : Core) : (s.setCore k x).traceCnt = s.traceCnt := rfl
@[simp] theorem State.setCore_pending (x : Core) : (s.setCore k x).pending = s.pending := rfl
theorem State.core_read (x : Core) (j : Nat) : (s.setCore k x).core j = if j = k then x else s.core j := tget_tset _ _ _ _ _
@[simp] theorem State.core_self (x : Core) : (s.setCore k x).core k = x := tget_tset_self _ _ _ _
@[simp] theorem State.setCore_setCore (x y : Core) : (s.setCore k x).setCore k y = s.setCore k y := by unfold State.setCore; simp
@[simp] theorem State.setCore_die (x : Core) (j : Nat) : (s.setCore k x).die j = s.die j := rfl
@[simp] theorem State.setCore_axis (x : Core) (j : Nat) : (s.setCore k x).axis j = s.axis j := rfl
@[simp] theorem State.setCore_alarm (x : Core) (j : Nat) : (s.setCore k x).alarm j = s.alarm j := rfl
@[simp] theorem State.setCore_timer (x : Core) (j : Nat) : (s.setCore k x).timer j = s.timer j := rfl
@[simp] theorem State.setCore_job (x : Core) (j : Nat) : (s.setCore k x).job j = s.job j := rfl
@[simp] theorem State.setCore_ring (x : Core) (j : Nat) : (s.setCore k x).ring j = s.ring j := rfl
@[simp] theorem State.setCore_engine (x : Core) (j : Nat) : (s.setCore k x).engine j = s.engine j := rfl
@[simp] theorem State.setCore_port (x : Core) (j : Nat) : (s.setCore k x).port j = s.port j := rfl
@[simp] theorem State.setCore_row (x : Core) (j : Nat) : (s.setCore k x).row j = s.row j := rfl
@[simp] theorem State.setCore_bay (x : Core) (j : Nat) : (s.setCore k x).bay j = s.bay j := rfl
@[simp] theorem State.setCore_entry (x : Core) (j : Nat) : (s.setCore k x).entry j = s.entry j := rfl
@[simp] theorem State.setCore_arbiter (x : Core) (j : Nat) : (s.setCore k x).arbiter j = s.arbiter j := rfl
@[simp] theorem State.setCore_bridge (x : Core) (j : Nat) : (s.setCore k x).bridge j = s.bridge j := rfl
@[simp] theorem State.setCore_trPort (x : Core) (j : Nat) : (s.setCore k x).trPort j = s.trPort j := rfl
@[simp] theorem State.setCore_egress (x : Core) (j : Nat) : (s.setCore k x).egress j = s.egress j := rfl
@[simp] theorem State.setCore_regGet (x : Core) (r : RegName) (i : Nat) : regGet (s.setCore k x) r i = regGet s r i := rfl

@[simp] theorem State.setJob_regs (x : Job) : (s.setJob k x).regs = s.regs := rfl
@[simp] theorem State.setJob_stage (x : Job) : (s.setJob k x).stage = s.stage := rfl
@[simp] theorem State.setJob_snap (x : Job) : (s.setJob k x).snap = s.snap := rfl
@[simp] theorem State.setJob_readData (x : Job) : (s.setJob k x).readData = s.readData := rfl
@[simp] theorem State.setJob_resp (x : Job) : (s.setJob k x).resp = s.resp := rfl
@[simp] theorem State.setJob_readBytes (x : Job) : (s.setJob k x).readBytes = s.readBytes := rfl
@[simp] theorem State.setJob_tick (x : Job) : (s.setJob k x).tick = s.tick := rfl
@[simp] theorem State.setJob_cclk (x : Job) : (s.setJob k x).cclk = s.cclk := rfl
@[simp] theorem State.setJob_dies (x : Job) : (s.setJob k x).dies = s.dies := rfl
@[simp] theorem State.setJob_axes (x : Job) : (s.setJob k x).axes = s.axes := rfl
@[simp] theorem State.setJob_bus (x : Job) : (s.setJob k x).bus = s.bus := rfl
@[simp] theorem State.setJob_busLine (x : Job) : (s.setJob k x).busLine = s.busLine := rfl
@[simp] theorem State.setJob_pinHist (x : Job) : (s.setJob k x).pinHist = s.pinHist := rfl
@[simp] theorem State.setJob_lvOpen (x : Job) : (s.setJob k x).lvOpen = s.lvOpen := rfl
@[simp] theorem State.setJob_openHist (x : Job) : (s.setJob k x).openHist = s.openHist := rfl
@[simp] theorem State.setJob_latch (x : Job) : (s.setJob k x).latch = s.latch := rfl
@[simp] theorem State.setJob_pulses (x : Job) : (s.setJob k x).pulses = s.pulses := rfl
@[simp] theorem State.setJob_alarms (x : Job) : (s.setJob k x).alarms = s.alarms := rfl
@[simp] theorem State.setJob_actions (x : Job) : (s.setJob k x).actions = s.actions := rfl
@[simp] theorem State.setJob_stampAns (x : Job) : (s.setJob k x).stampAns = s.stampAns := rfl
@[simp] theorem State.setJob_timers (x : Job) : (s.setJob k x).timers = s.timers := rfl
@[simp] theorem State.setJob_ocLine (x : Job) : (s.setJob k x).ocLine = s.ocLine := rfl
@[simp] theorem State.setJob_cores (x : Job) : (s.setJob k x).cores = s.cores := rfl
@[simp] theorem State.setJob_events (x : Job) : (s.setJob k x).events = s.events := rfl
@[simp] theorem State.setJob_raises (x : Job) : (s.setJob k x).raises = s.raises := rfl
@[simp] theorem State.setJob_ustore (x : Job) : (s.setJob k x).ustore = s.ustore := rfl
@[simp] theorem State.setJob_mcImage (x : Job) : (s.setJob k x).mcImage = s.mcImage := rfl
@[simp] theorem State.setJob_patches (x : Job) : (s.setJob k x).patches = s.patches := rfl
@[simp] theorem State.setJob_mem (x : Job) : (s.setJob k x).mem = s.mem := rfl
@[simp] theorem State.setJob_poison (x : Job) : (s.setJob k x).poison = s.poison := rfl
@[simp] theorem State.setJob_bays (x : Job) : (s.setJob k x).bays = s.bays := rfl
@[simp] theorem State.setJob_hbmRows (x : Job) : (s.setJob k x).hbmRows = s.hbmRows := rfl
@[simp] theorem State.setJob_hbmSoft (x : Job) : (s.setJob k x).hbmSoft = s.hbmSoft := rfl
@[simp] theorem State.setJob_hbmHard (x : Job) : (s.setJob k x).hbmHard = s.hbmHard := rfl
@[simp] theorem State.setJob_refresh (x : Job) : (s.setJob k x).refresh = s.refresh := rfl
@[simp] theorem State.setJob_scrubPos (x : Job) : (s.setJob k x).scrubPos = s.scrubPos := rfl
@[simp] theorem State.setJob_arbiters (x : Job) : (s.setJob k x).arbiters = s.arbiters := rfl
@[simp] theorem State.setJob_trPorts (x : Job) : (s.setJob k x).trPorts = s.trPorts := rfl
@[simp] theorem State.setJob_buckets (x : Job) : (s.setJob k x).buckets = s.buckets := rfl
@[simp] theorem State.setJob_bridges (x : Job) : (s.setJob k x).bridges = s.bridges := rfl
@[simp] theorem State.setJob_link (x : Job) : (s.setJob k x).link = s.link := rfl
@[simp] theorem State.setJob_msix (x : Job) : (s.setJob k x).msix = s.msix := rfl
@[simp] theorem State.setJob_pba (x : Job) : (s.setJob k x).pba = s.pba := rfl
@[simp] theorem State.setJob_msixReq (x : Job) : (s.setJob k x).msixReq = s.msixReq := rfl
@[simp] theorem State.setJob_rings (x : Job) : (s.setJob k x).rings = s.rings := rfl
@[simp] theorem State.setJob_engines (x : Job) : (s.setJob k x).engines = s.engines := rfl
@[simp] theorem State.setJob_poll (x : Job) : (s.setJob k x).poll = s.poll := rfl
@[simp] theorem State.setJob_groupSeen (x : Job) : (s.setJob k x).groupSeen = s.groupSeen := rfl
@[simp] theorem State.setJob_marks (x : Job) : (s.setJob k x).marks = s.marks := rfl
@[simp] theorem State.setJob_objLate (x : Job) : (s.setJob k x).objLate = s.objLate := rfl
@[simp] theorem State.setJob_ports (x : Job) : (s.setJob k x).ports = s.ports := rfl
@[simp] theorem State.setJob_ingests (x : Job) : (s.setJob k x).ingests = s.ingests := rfl
@[simp] theorem State.setJob_egresses (x : Job) : (s.setJob k x).egresses = s.egresses := rfl
@[simp] theorem State.setJob_rows (x : Job) : (s.setJob k x).rows = s.rows := rfl
@[simp] theorem State.setJob_slotErrs (x : Job) : (s.setJob k x).slotErrs = s.slotErrs := rfl
@[simp] theorem State.setJob_retired (x : Job) : (s.setJob k x).retired = s.retired := rfl
@[simp] theorem State.setJob_reports (x : Job) : (s.setJob k x).reports = s.reports := rfl
@[simp] theorem State.setJob_otp (x : Job) : (s.setJob k x).otp = s.otp := rfl
@[simp] theorem State.setJob_sec (x : Job) : (s.setJob k x).sec = s.sec := rfl
@[simp] theorem State.setJob_power (x : Job) : (s.setJob k x).power = s.power := rfl
@[simp] theorem State.setJob_tap (x : Job) : (s.setJob k x).tap = s.tap := rfl
@[simp] theorem State.setJob_traced (x : Job) : (s.setJob k x).traced = s.traced := rfl
@[simp] theorem State.setJob_evtClr (x : Job) : (s.setJob k x).evtClr = s.evtClr := rfl
@[simp] theorem State.setJob_traceCnt (x : Job) : (s.setJob k x).traceCnt = s.traceCnt := rfl
@[simp] theorem State.setJob_pending (x : Job) : (s.setJob k x).pending = s.pending := rfl
theorem State.job_read (x : Job) (j : Nat) : (s.setJob k x).job j = if j = k then x else s.job j := tget_tset _ _ _ _ _
@[simp] theorem State.job_self (x : Job) : (s.setJob k x).job k = x := tget_tset_self _ _ _ _
@[simp] theorem State.setJob_setJob (x y : Job) : (s.setJob k x).setJob k y = s.setJob k y := by unfold State.setJob; simp
@[simp] theorem State.setJob_die (x : Job) (j : Nat) : (s.setJob k x).die j = s.die j := rfl
@[simp] theorem State.setJob_axis (x : Job) (j : Nat) : (s.setJob k x).axis j = s.axis j := rfl
@[simp] theorem State.setJob_alarm (x : Job) (j : Nat) : (s.setJob k x).alarm j = s.alarm j := rfl
@[simp] theorem State.setJob_timer (x : Job) (j : Nat) : (s.setJob k x).timer j = s.timer j := rfl
@[simp] theorem State.setJob_core (x : Job) (j : Nat) : (s.setJob k x).core j = s.core j := rfl
@[simp] theorem State.setJob_ring (x : Job) (j : Nat) : (s.setJob k x).ring j = s.ring j := rfl
@[simp] theorem State.setJob_engine (x : Job) (j : Nat) : (s.setJob k x).engine j = s.engine j := rfl
@[simp] theorem State.setJob_port (x : Job) (j : Nat) : (s.setJob k x).port j = s.port j := rfl
@[simp] theorem State.setJob_row (x : Job) (j : Nat) : (s.setJob k x).row j = s.row j := rfl
@[simp] theorem State.setJob_bay (x : Job) (j : Nat) : (s.setJob k x).bay j = s.bay j := rfl
@[simp] theorem State.setJob_entry (x : Job) (j : Nat) : (s.setJob k x).entry j = s.entry j := rfl
@[simp] theorem State.setJob_arbiter (x : Job) (j : Nat) : (s.setJob k x).arbiter j = s.arbiter j := rfl
@[simp] theorem State.setJob_bridge (x : Job) (j : Nat) : (s.setJob k x).bridge j = s.bridge j := rfl
@[simp] theorem State.setJob_trPort (x : Job) (j : Nat) : (s.setJob k x).trPort j = s.trPort j := rfl
@[simp] theorem State.setJob_egress (x : Job) (j : Nat) : (s.setJob k x).egress j = s.egress j := rfl
@[simp] theorem State.setJob_regGet (x : Job) (r : RegName) (i : Nat) : regGet (s.setJob k x) r i = regGet s r i := rfl

@[simp] theorem State.setRing_regs (x : Ring) : (s.setRing k x).regs = s.regs := rfl
@[simp] theorem State.setRing_stage (x : Ring) : (s.setRing k x).stage = s.stage := rfl
@[simp] theorem State.setRing_snap (x : Ring) : (s.setRing k x).snap = s.snap := rfl
@[simp] theorem State.setRing_readData (x : Ring) : (s.setRing k x).readData = s.readData := rfl
@[simp] theorem State.setRing_resp (x : Ring) : (s.setRing k x).resp = s.resp := rfl
@[simp] theorem State.setRing_readBytes (x : Ring) : (s.setRing k x).readBytes = s.readBytes := rfl
@[simp] theorem State.setRing_tick (x : Ring) : (s.setRing k x).tick = s.tick := rfl
@[simp] theorem State.setRing_cclk (x : Ring) : (s.setRing k x).cclk = s.cclk := rfl
@[simp] theorem State.setRing_dies (x : Ring) : (s.setRing k x).dies = s.dies := rfl
@[simp] theorem State.setRing_axes (x : Ring) : (s.setRing k x).axes = s.axes := rfl
@[simp] theorem State.setRing_bus (x : Ring) : (s.setRing k x).bus = s.bus := rfl
@[simp] theorem State.setRing_busLine (x : Ring) : (s.setRing k x).busLine = s.busLine := rfl
@[simp] theorem State.setRing_pinHist (x : Ring) : (s.setRing k x).pinHist = s.pinHist := rfl
@[simp] theorem State.setRing_lvOpen (x : Ring) : (s.setRing k x).lvOpen = s.lvOpen := rfl
@[simp] theorem State.setRing_openHist (x : Ring) : (s.setRing k x).openHist = s.openHist := rfl
@[simp] theorem State.setRing_latch (x : Ring) : (s.setRing k x).latch = s.latch := rfl
@[simp] theorem State.setRing_pulses (x : Ring) : (s.setRing k x).pulses = s.pulses := rfl
@[simp] theorem State.setRing_alarms (x : Ring) : (s.setRing k x).alarms = s.alarms := rfl
@[simp] theorem State.setRing_actions (x : Ring) : (s.setRing k x).actions = s.actions := rfl
@[simp] theorem State.setRing_stampAns (x : Ring) : (s.setRing k x).stampAns = s.stampAns := rfl
@[simp] theorem State.setRing_timers (x : Ring) : (s.setRing k x).timers = s.timers := rfl
@[simp] theorem State.setRing_ocLine (x : Ring) : (s.setRing k x).ocLine = s.ocLine := rfl
@[simp] theorem State.setRing_cores (x : Ring) : (s.setRing k x).cores = s.cores := rfl
@[simp] theorem State.setRing_events (x : Ring) : (s.setRing k x).events = s.events := rfl
@[simp] theorem State.setRing_raises (x : Ring) : (s.setRing k x).raises = s.raises := rfl
@[simp] theorem State.setRing_ustore (x : Ring) : (s.setRing k x).ustore = s.ustore := rfl
@[simp] theorem State.setRing_mcImage (x : Ring) : (s.setRing k x).mcImage = s.mcImage := rfl
@[simp] theorem State.setRing_patches (x : Ring) : (s.setRing k x).patches = s.patches := rfl
@[simp] theorem State.setRing_mem (x : Ring) : (s.setRing k x).mem = s.mem := rfl
@[simp] theorem State.setRing_poison (x : Ring) : (s.setRing k x).poison = s.poison := rfl
@[simp] theorem State.setRing_bays (x : Ring) : (s.setRing k x).bays = s.bays := rfl
@[simp] theorem State.setRing_hbmRows (x : Ring) : (s.setRing k x).hbmRows = s.hbmRows := rfl
@[simp] theorem State.setRing_hbmSoft (x : Ring) : (s.setRing k x).hbmSoft = s.hbmSoft := rfl
@[simp] theorem State.setRing_hbmHard (x : Ring) : (s.setRing k x).hbmHard = s.hbmHard := rfl
@[simp] theorem State.setRing_refresh (x : Ring) : (s.setRing k x).refresh = s.refresh := rfl
@[simp] theorem State.setRing_scrubPos (x : Ring) : (s.setRing k x).scrubPos = s.scrubPos := rfl
@[simp] theorem State.setRing_arbiters (x : Ring) : (s.setRing k x).arbiters = s.arbiters := rfl
@[simp] theorem State.setRing_trPorts (x : Ring) : (s.setRing k x).trPorts = s.trPorts := rfl
@[simp] theorem State.setRing_buckets (x : Ring) : (s.setRing k x).buckets = s.buckets := rfl
@[simp] theorem State.setRing_bridges (x : Ring) : (s.setRing k x).bridges = s.bridges := rfl
@[simp] theorem State.setRing_link (x : Ring) : (s.setRing k x).link = s.link := rfl
@[simp] theorem State.setRing_msix (x : Ring) : (s.setRing k x).msix = s.msix := rfl
@[simp] theorem State.setRing_pba (x : Ring) : (s.setRing k x).pba = s.pba := rfl
@[simp] theorem State.setRing_msixReq (x : Ring) : (s.setRing k x).msixReq = s.msixReq := rfl
@[simp] theorem State.setRing_engines (x : Ring) : (s.setRing k x).engines = s.engines := rfl
@[simp] theorem State.setRing_poll (x : Ring) : (s.setRing k x).poll = s.poll := rfl
@[simp] theorem State.setRing_groupSeen (x : Ring) : (s.setRing k x).groupSeen = s.groupSeen := rfl
@[simp] theorem State.setRing_marks (x : Ring) : (s.setRing k x).marks = s.marks := rfl
@[simp] theorem State.setRing_jobs (x : Ring) : (s.setRing k x).jobs = s.jobs := rfl
@[simp] theorem State.setRing_objLate (x : Ring) : (s.setRing k x).objLate = s.objLate := rfl
@[simp] theorem State.setRing_ports (x : Ring) : (s.setRing k x).ports = s.ports := rfl
@[simp] theorem State.setRing_ingests (x : Ring) : (s.setRing k x).ingests = s.ingests := rfl
@[simp] theorem State.setRing_egresses (x : Ring) : (s.setRing k x).egresses = s.egresses := rfl
@[simp] theorem State.setRing_rows (x : Ring) : (s.setRing k x).rows = s.rows := rfl
@[simp] theorem State.setRing_slotErrs (x : Ring) : (s.setRing k x).slotErrs = s.slotErrs := rfl
@[simp] theorem State.setRing_retired (x : Ring) : (s.setRing k x).retired = s.retired := rfl
@[simp] theorem State.setRing_reports (x : Ring) : (s.setRing k x).reports = s.reports := rfl
@[simp] theorem State.setRing_otp (x : Ring) : (s.setRing k x).otp = s.otp := rfl
@[simp] theorem State.setRing_sec (x : Ring) : (s.setRing k x).sec = s.sec := rfl
@[simp] theorem State.setRing_power (x : Ring) : (s.setRing k x).power = s.power := rfl
@[simp] theorem State.setRing_tap (x : Ring) : (s.setRing k x).tap = s.tap := rfl
@[simp] theorem State.setRing_traced (x : Ring) : (s.setRing k x).traced = s.traced := rfl
@[simp] theorem State.setRing_evtClr (x : Ring) : (s.setRing k x).evtClr = s.evtClr := rfl
@[simp] theorem State.setRing_traceCnt (x : Ring) : (s.setRing k x).traceCnt = s.traceCnt := rfl
@[simp] theorem State.setRing_pending (x : Ring) : (s.setRing k x).pending = s.pending := rfl
theorem State.ring_read (x : Ring) (j : Nat) : (s.setRing k x).ring j = if j = k then x else s.ring j := tget_tset _ _ _ _ _
@[simp] theorem State.ring_self (x : Ring) : (s.setRing k x).ring k = x := tget_tset_self _ _ _ _
@[simp] theorem State.setRing_setRing (x y : Ring) : (s.setRing k x).setRing k y = s.setRing k y := by unfold State.setRing; simp
@[simp] theorem State.setRing_die (x : Ring) (j : Nat) : (s.setRing k x).die j = s.die j := rfl
@[simp] theorem State.setRing_axis (x : Ring) (j : Nat) : (s.setRing k x).axis j = s.axis j := rfl
@[simp] theorem State.setRing_alarm (x : Ring) (j : Nat) : (s.setRing k x).alarm j = s.alarm j := rfl
@[simp] theorem State.setRing_timer (x : Ring) (j : Nat) : (s.setRing k x).timer j = s.timer j := rfl
@[simp] theorem State.setRing_core (x : Ring) (j : Nat) : (s.setRing k x).core j = s.core j := rfl
@[simp] theorem State.setRing_job (x : Ring) (j : Nat) : (s.setRing k x).job j = s.job j := rfl
@[simp] theorem State.setRing_engine (x : Ring) (j : Nat) : (s.setRing k x).engine j = s.engine j := rfl
@[simp] theorem State.setRing_port (x : Ring) (j : Nat) : (s.setRing k x).port j = s.port j := rfl
@[simp] theorem State.setRing_row (x : Ring) (j : Nat) : (s.setRing k x).row j = s.row j := rfl
@[simp] theorem State.setRing_bay (x : Ring) (j : Nat) : (s.setRing k x).bay j = s.bay j := rfl
@[simp] theorem State.setRing_entry (x : Ring) (j : Nat) : (s.setRing k x).entry j = s.entry j := rfl
@[simp] theorem State.setRing_arbiter (x : Ring) (j : Nat) : (s.setRing k x).arbiter j = s.arbiter j := rfl
@[simp] theorem State.setRing_bridge (x : Ring) (j : Nat) : (s.setRing k x).bridge j = s.bridge j := rfl
@[simp] theorem State.setRing_trPort (x : Ring) (j : Nat) : (s.setRing k x).trPort j = s.trPort j := rfl
@[simp] theorem State.setRing_egress (x : Ring) (j : Nat) : (s.setRing k x).egress j = s.egress j := rfl
@[simp] theorem State.setRing_regGet (x : Ring) (r : RegName) (i : Nat) : regGet (s.setRing k x) r i = regGet s r i := rfl

@[simp] theorem State.setEngine_regs (x : Engine) : (s.setEngine k x).regs = s.regs := rfl
@[simp] theorem State.setEngine_stage (x : Engine) : (s.setEngine k x).stage = s.stage := rfl
@[simp] theorem State.setEngine_snap (x : Engine) : (s.setEngine k x).snap = s.snap := rfl
@[simp] theorem State.setEngine_readData (x : Engine) : (s.setEngine k x).readData = s.readData := rfl
@[simp] theorem State.setEngine_resp (x : Engine) : (s.setEngine k x).resp = s.resp := rfl
@[simp] theorem State.setEngine_readBytes (x : Engine) : (s.setEngine k x).readBytes = s.readBytes := rfl
@[simp] theorem State.setEngine_tick (x : Engine) : (s.setEngine k x).tick = s.tick := rfl
@[simp] theorem State.setEngine_cclk (x : Engine) : (s.setEngine k x).cclk = s.cclk := rfl
@[simp] theorem State.setEngine_dies (x : Engine) : (s.setEngine k x).dies = s.dies := rfl
@[simp] theorem State.setEngine_axes (x : Engine) : (s.setEngine k x).axes = s.axes := rfl
@[simp] theorem State.setEngine_bus (x : Engine) : (s.setEngine k x).bus = s.bus := rfl
@[simp] theorem State.setEngine_busLine (x : Engine) : (s.setEngine k x).busLine = s.busLine := rfl
@[simp] theorem State.setEngine_pinHist (x : Engine) : (s.setEngine k x).pinHist = s.pinHist := rfl
@[simp] theorem State.setEngine_lvOpen (x : Engine) : (s.setEngine k x).lvOpen = s.lvOpen := rfl
@[simp] theorem State.setEngine_openHist (x : Engine) : (s.setEngine k x).openHist = s.openHist := rfl
@[simp] theorem State.setEngine_latch (x : Engine) : (s.setEngine k x).latch = s.latch := rfl
@[simp] theorem State.setEngine_pulses (x : Engine) : (s.setEngine k x).pulses = s.pulses := rfl
@[simp] theorem State.setEngine_alarms (x : Engine) : (s.setEngine k x).alarms = s.alarms := rfl
@[simp] theorem State.setEngine_actions (x : Engine) : (s.setEngine k x).actions = s.actions := rfl
@[simp] theorem State.setEngine_stampAns (x : Engine) : (s.setEngine k x).stampAns = s.stampAns := rfl
@[simp] theorem State.setEngine_timers (x : Engine) : (s.setEngine k x).timers = s.timers := rfl
@[simp] theorem State.setEngine_ocLine (x : Engine) : (s.setEngine k x).ocLine = s.ocLine := rfl
@[simp] theorem State.setEngine_cores (x : Engine) : (s.setEngine k x).cores = s.cores := rfl
@[simp] theorem State.setEngine_events (x : Engine) : (s.setEngine k x).events = s.events := rfl
@[simp] theorem State.setEngine_raises (x : Engine) : (s.setEngine k x).raises = s.raises := rfl
@[simp] theorem State.setEngine_ustore (x : Engine) : (s.setEngine k x).ustore = s.ustore := rfl
@[simp] theorem State.setEngine_mcImage (x : Engine) : (s.setEngine k x).mcImage = s.mcImage := rfl
@[simp] theorem State.setEngine_patches (x : Engine) : (s.setEngine k x).patches = s.patches := rfl
@[simp] theorem State.setEngine_mem (x : Engine) : (s.setEngine k x).mem = s.mem := rfl
@[simp] theorem State.setEngine_poison (x : Engine) : (s.setEngine k x).poison = s.poison := rfl
@[simp] theorem State.setEngine_bays (x : Engine) : (s.setEngine k x).bays = s.bays := rfl
@[simp] theorem State.setEngine_hbmRows (x : Engine) : (s.setEngine k x).hbmRows = s.hbmRows := rfl
@[simp] theorem State.setEngine_hbmSoft (x : Engine) : (s.setEngine k x).hbmSoft = s.hbmSoft := rfl
@[simp] theorem State.setEngine_hbmHard (x : Engine) : (s.setEngine k x).hbmHard = s.hbmHard := rfl
@[simp] theorem State.setEngine_refresh (x : Engine) : (s.setEngine k x).refresh = s.refresh := rfl
@[simp] theorem State.setEngine_scrubPos (x : Engine) : (s.setEngine k x).scrubPos = s.scrubPos := rfl
@[simp] theorem State.setEngine_arbiters (x : Engine) : (s.setEngine k x).arbiters = s.arbiters := rfl
@[simp] theorem State.setEngine_trPorts (x : Engine) : (s.setEngine k x).trPorts = s.trPorts := rfl
@[simp] theorem State.setEngine_buckets (x : Engine) : (s.setEngine k x).buckets = s.buckets := rfl
@[simp] theorem State.setEngine_bridges (x : Engine) : (s.setEngine k x).bridges = s.bridges := rfl
@[simp] theorem State.setEngine_link (x : Engine) : (s.setEngine k x).link = s.link := rfl
@[simp] theorem State.setEngine_msix (x : Engine) : (s.setEngine k x).msix = s.msix := rfl
@[simp] theorem State.setEngine_pba (x : Engine) : (s.setEngine k x).pba = s.pba := rfl
@[simp] theorem State.setEngine_msixReq (x : Engine) : (s.setEngine k x).msixReq = s.msixReq := rfl
@[simp] theorem State.setEngine_rings (x : Engine) : (s.setEngine k x).rings = s.rings := rfl
@[simp] theorem State.setEngine_poll (x : Engine) : (s.setEngine k x).poll = s.poll := rfl
@[simp] theorem State.setEngine_groupSeen (x : Engine) : (s.setEngine k x).groupSeen = s.groupSeen := rfl
@[simp] theorem State.setEngine_marks (x : Engine) : (s.setEngine k x).marks = s.marks := rfl
@[simp] theorem State.setEngine_jobs (x : Engine) : (s.setEngine k x).jobs = s.jobs := rfl
@[simp] theorem State.setEngine_objLate (x : Engine) : (s.setEngine k x).objLate = s.objLate := rfl
@[simp] theorem State.setEngine_ports (x : Engine) : (s.setEngine k x).ports = s.ports := rfl
@[simp] theorem State.setEngine_ingests (x : Engine) : (s.setEngine k x).ingests = s.ingests := rfl
@[simp] theorem State.setEngine_egresses (x : Engine) : (s.setEngine k x).egresses = s.egresses := rfl
@[simp] theorem State.setEngine_rows (x : Engine) : (s.setEngine k x).rows = s.rows := rfl
@[simp] theorem State.setEngine_slotErrs (x : Engine) : (s.setEngine k x).slotErrs = s.slotErrs := rfl
@[simp] theorem State.setEngine_retired (x : Engine) : (s.setEngine k x).retired = s.retired := rfl
@[simp] theorem State.setEngine_reports (x : Engine) : (s.setEngine k x).reports = s.reports := rfl
@[simp] theorem State.setEngine_otp (x : Engine) : (s.setEngine k x).otp = s.otp := rfl
@[simp] theorem State.setEngine_sec (x : Engine) : (s.setEngine k x).sec = s.sec := rfl
@[simp] theorem State.setEngine_power (x : Engine) : (s.setEngine k x).power = s.power := rfl
@[simp] theorem State.setEngine_tap (x : Engine) : (s.setEngine k x).tap = s.tap := rfl
@[simp] theorem State.setEngine_traced (x : Engine) : (s.setEngine k x).traced = s.traced := rfl
@[simp] theorem State.setEngine_evtClr (x : Engine) : (s.setEngine k x).evtClr = s.evtClr := rfl
@[simp] theorem State.setEngine_traceCnt (x : Engine) : (s.setEngine k x).traceCnt = s.traceCnt := rfl
@[simp] theorem State.setEngine_pending (x : Engine) : (s.setEngine k x).pending = s.pending := rfl
theorem State.engine_read (x : Engine) (j : Nat) : (s.setEngine k x).engine j = if j = k then x else s.engine j := tget_tset _ _ _ _ _
@[simp] theorem State.engine_self (x : Engine) : (s.setEngine k x).engine k = x := tget_tset_self _ _ _ _
@[simp] theorem State.setEngine_setEngine (x y : Engine) : (s.setEngine k x).setEngine k y = s.setEngine k y := by unfold State.setEngine; simp
@[simp] theorem State.setEngine_die (x : Engine) (j : Nat) : (s.setEngine k x).die j = s.die j := rfl
@[simp] theorem State.setEngine_axis (x : Engine) (j : Nat) : (s.setEngine k x).axis j = s.axis j := rfl
@[simp] theorem State.setEngine_alarm (x : Engine) (j : Nat) : (s.setEngine k x).alarm j = s.alarm j := rfl
@[simp] theorem State.setEngine_timer (x : Engine) (j : Nat) : (s.setEngine k x).timer j = s.timer j := rfl
@[simp] theorem State.setEngine_core (x : Engine) (j : Nat) : (s.setEngine k x).core j = s.core j := rfl
@[simp] theorem State.setEngine_job (x : Engine) (j : Nat) : (s.setEngine k x).job j = s.job j := rfl
@[simp] theorem State.setEngine_ring (x : Engine) (j : Nat) : (s.setEngine k x).ring j = s.ring j := rfl
@[simp] theorem State.setEngine_port (x : Engine) (j : Nat) : (s.setEngine k x).port j = s.port j := rfl
@[simp] theorem State.setEngine_row (x : Engine) (j : Nat) : (s.setEngine k x).row j = s.row j := rfl
@[simp] theorem State.setEngine_bay (x : Engine) (j : Nat) : (s.setEngine k x).bay j = s.bay j := rfl
@[simp] theorem State.setEngine_entry (x : Engine) (j : Nat) : (s.setEngine k x).entry j = s.entry j := rfl
@[simp] theorem State.setEngine_arbiter (x : Engine) (j : Nat) : (s.setEngine k x).arbiter j = s.arbiter j := rfl
@[simp] theorem State.setEngine_bridge (x : Engine) (j : Nat) : (s.setEngine k x).bridge j = s.bridge j := rfl
@[simp] theorem State.setEngine_trPort (x : Engine) (j : Nat) : (s.setEngine k x).trPort j = s.trPort j := rfl
@[simp] theorem State.setEngine_egress (x : Engine) (j : Nat) : (s.setEngine k x).egress j = s.egress j := rfl
@[simp] theorem State.setEngine_regGet (x : Engine) (r : RegName) (i : Nat) : regGet (s.setEngine k x) r i = regGet s r i := rfl

@[simp] theorem State.setPort_regs (x : Port) : (s.setPort k x).regs = s.regs := rfl
@[simp] theorem State.setPort_stage (x : Port) : (s.setPort k x).stage = s.stage := rfl
@[simp] theorem State.setPort_snap (x : Port) : (s.setPort k x).snap = s.snap := rfl
@[simp] theorem State.setPort_readData (x : Port) : (s.setPort k x).readData = s.readData := rfl
@[simp] theorem State.setPort_resp (x : Port) : (s.setPort k x).resp = s.resp := rfl
@[simp] theorem State.setPort_readBytes (x : Port) : (s.setPort k x).readBytes = s.readBytes := rfl
@[simp] theorem State.setPort_tick (x : Port) : (s.setPort k x).tick = s.tick := rfl
@[simp] theorem State.setPort_cclk (x : Port) : (s.setPort k x).cclk = s.cclk := rfl
@[simp] theorem State.setPort_dies (x : Port) : (s.setPort k x).dies = s.dies := rfl
@[simp] theorem State.setPort_axes (x : Port) : (s.setPort k x).axes = s.axes := rfl
@[simp] theorem State.setPort_bus (x : Port) : (s.setPort k x).bus = s.bus := rfl
@[simp] theorem State.setPort_busLine (x : Port) : (s.setPort k x).busLine = s.busLine := rfl
@[simp] theorem State.setPort_pinHist (x : Port) : (s.setPort k x).pinHist = s.pinHist := rfl
@[simp] theorem State.setPort_lvOpen (x : Port) : (s.setPort k x).lvOpen = s.lvOpen := rfl
@[simp] theorem State.setPort_openHist (x : Port) : (s.setPort k x).openHist = s.openHist := rfl
@[simp] theorem State.setPort_latch (x : Port) : (s.setPort k x).latch = s.latch := rfl
@[simp] theorem State.setPort_pulses (x : Port) : (s.setPort k x).pulses = s.pulses := rfl
@[simp] theorem State.setPort_alarms (x : Port) : (s.setPort k x).alarms = s.alarms := rfl
@[simp] theorem State.setPort_actions (x : Port) : (s.setPort k x).actions = s.actions := rfl
@[simp] theorem State.setPort_stampAns (x : Port) : (s.setPort k x).stampAns = s.stampAns := rfl
@[simp] theorem State.setPort_timers (x : Port) : (s.setPort k x).timers = s.timers := rfl
@[simp] theorem State.setPort_ocLine (x : Port) : (s.setPort k x).ocLine = s.ocLine := rfl
@[simp] theorem State.setPort_cores (x : Port) : (s.setPort k x).cores = s.cores := rfl
@[simp] theorem State.setPort_events (x : Port) : (s.setPort k x).events = s.events := rfl
@[simp] theorem State.setPort_raises (x : Port) : (s.setPort k x).raises = s.raises := rfl
@[simp] theorem State.setPort_ustore (x : Port) : (s.setPort k x).ustore = s.ustore := rfl
@[simp] theorem State.setPort_mcImage (x : Port) : (s.setPort k x).mcImage = s.mcImage := rfl
@[simp] theorem State.setPort_patches (x : Port) : (s.setPort k x).patches = s.patches := rfl
@[simp] theorem State.setPort_mem (x : Port) : (s.setPort k x).mem = s.mem := rfl
@[simp] theorem State.setPort_poison (x : Port) : (s.setPort k x).poison = s.poison := rfl
@[simp] theorem State.setPort_bays (x : Port) : (s.setPort k x).bays = s.bays := rfl
@[simp] theorem State.setPort_hbmRows (x : Port) : (s.setPort k x).hbmRows = s.hbmRows := rfl
@[simp] theorem State.setPort_hbmSoft (x : Port) : (s.setPort k x).hbmSoft = s.hbmSoft := rfl
@[simp] theorem State.setPort_hbmHard (x : Port) : (s.setPort k x).hbmHard = s.hbmHard := rfl
@[simp] theorem State.setPort_refresh (x : Port) : (s.setPort k x).refresh = s.refresh := rfl
@[simp] theorem State.setPort_scrubPos (x : Port) : (s.setPort k x).scrubPos = s.scrubPos := rfl
@[simp] theorem State.setPort_arbiters (x : Port) : (s.setPort k x).arbiters = s.arbiters := rfl
@[simp] theorem State.setPort_trPorts (x : Port) : (s.setPort k x).trPorts = s.trPorts := rfl
@[simp] theorem State.setPort_buckets (x : Port) : (s.setPort k x).buckets = s.buckets := rfl
@[simp] theorem State.setPort_bridges (x : Port) : (s.setPort k x).bridges = s.bridges := rfl
@[simp] theorem State.setPort_link (x : Port) : (s.setPort k x).link = s.link := rfl
@[simp] theorem State.setPort_msix (x : Port) : (s.setPort k x).msix = s.msix := rfl
@[simp] theorem State.setPort_pba (x : Port) : (s.setPort k x).pba = s.pba := rfl
@[simp] theorem State.setPort_msixReq (x : Port) : (s.setPort k x).msixReq = s.msixReq := rfl
@[simp] theorem State.setPort_rings (x : Port) : (s.setPort k x).rings = s.rings := rfl
@[simp] theorem State.setPort_engines (x : Port) : (s.setPort k x).engines = s.engines := rfl
@[simp] theorem State.setPort_poll (x : Port) : (s.setPort k x).poll = s.poll := rfl
@[simp] theorem State.setPort_groupSeen (x : Port) : (s.setPort k x).groupSeen = s.groupSeen := rfl
@[simp] theorem State.setPort_marks (x : Port) : (s.setPort k x).marks = s.marks := rfl
@[simp] theorem State.setPort_jobs (x : Port) : (s.setPort k x).jobs = s.jobs := rfl
@[simp] theorem State.setPort_objLate (x : Port) : (s.setPort k x).objLate = s.objLate := rfl
@[simp] theorem State.setPort_ingests (x : Port) : (s.setPort k x).ingests = s.ingests := rfl
@[simp] theorem State.setPort_egresses (x : Port) : (s.setPort k x).egresses = s.egresses := rfl
@[simp] theorem State.setPort_rows (x : Port) : (s.setPort k x).rows = s.rows := rfl
@[simp] theorem State.setPort_slotErrs (x : Port) : (s.setPort k x).slotErrs = s.slotErrs := rfl
@[simp] theorem State.setPort_retired (x : Port) : (s.setPort k x).retired = s.retired := rfl
@[simp] theorem State.setPort_reports (x : Port) : (s.setPort k x).reports = s.reports := rfl
@[simp] theorem State.setPort_otp (x : Port) : (s.setPort k x).otp = s.otp := rfl
@[simp] theorem State.setPort_sec (x : Port) : (s.setPort k x).sec = s.sec := rfl
@[simp] theorem State.setPort_power (x : Port) : (s.setPort k x).power = s.power := rfl
@[simp] theorem State.setPort_tap (x : Port) : (s.setPort k x).tap = s.tap := rfl
@[simp] theorem State.setPort_traced (x : Port) : (s.setPort k x).traced = s.traced := rfl
@[simp] theorem State.setPort_evtClr (x : Port) : (s.setPort k x).evtClr = s.evtClr := rfl
@[simp] theorem State.setPort_traceCnt (x : Port) : (s.setPort k x).traceCnt = s.traceCnt := rfl
@[simp] theorem State.setPort_pending (x : Port) : (s.setPort k x).pending = s.pending := rfl
theorem State.port_read (x : Port) (j : Nat) : (s.setPort k x).port j = if j = k then x else s.port j := tget_tset _ _ _ _ _
@[simp] theorem State.port_self (x : Port) : (s.setPort k x).port k = x := tget_tset_self _ _ _ _
@[simp] theorem State.setPort_setPort (x y : Port) : (s.setPort k x).setPort k y = s.setPort k y := by unfold State.setPort; simp
@[simp] theorem State.setPort_die (x : Port) (j : Nat) : (s.setPort k x).die j = s.die j := rfl
@[simp] theorem State.setPort_axis (x : Port) (j : Nat) : (s.setPort k x).axis j = s.axis j := rfl
@[simp] theorem State.setPort_alarm (x : Port) (j : Nat) : (s.setPort k x).alarm j = s.alarm j := rfl
@[simp] theorem State.setPort_timer (x : Port) (j : Nat) : (s.setPort k x).timer j = s.timer j := rfl
@[simp] theorem State.setPort_core (x : Port) (j : Nat) : (s.setPort k x).core j = s.core j := rfl
@[simp] theorem State.setPort_job (x : Port) (j : Nat) : (s.setPort k x).job j = s.job j := rfl
@[simp] theorem State.setPort_ring (x : Port) (j : Nat) : (s.setPort k x).ring j = s.ring j := rfl
@[simp] theorem State.setPort_engine (x : Port) (j : Nat) : (s.setPort k x).engine j = s.engine j := rfl
@[simp] theorem State.setPort_row (x : Port) (j : Nat) : (s.setPort k x).row j = s.row j := rfl
@[simp] theorem State.setPort_bay (x : Port) (j : Nat) : (s.setPort k x).bay j = s.bay j := rfl
@[simp] theorem State.setPort_entry (x : Port) (j : Nat) : (s.setPort k x).entry j = s.entry j := rfl
@[simp] theorem State.setPort_arbiter (x : Port) (j : Nat) : (s.setPort k x).arbiter j = s.arbiter j := rfl
@[simp] theorem State.setPort_bridge (x : Port) (j : Nat) : (s.setPort k x).bridge j = s.bridge j := rfl
@[simp] theorem State.setPort_trPort (x : Port) (j : Nat) : (s.setPort k x).trPort j = s.trPort j := rfl
@[simp] theorem State.setPort_egress (x : Port) (j : Nat) : (s.setPort k x).egress j = s.egress j := rfl
@[simp] theorem State.setPort_regGet (x : Port) (r : RegName) (i : Nat) : regGet (s.setPort k x) r i = regGet s r i := rfl

@[simp] theorem State.setRow_regs (x : Row) : (s.setRow k x).regs = s.regs := rfl
@[simp] theorem State.setRow_stage (x : Row) : (s.setRow k x).stage = s.stage := rfl
@[simp] theorem State.setRow_snap (x : Row) : (s.setRow k x).snap = s.snap := rfl
@[simp] theorem State.setRow_readData (x : Row) : (s.setRow k x).readData = s.readData := rfl
@[simp] theorem State.setRow_resp (x : Row) : (s.setRow k x).resp = s.resp := rfl
@[simp] theorem State.setRow_readBytes (x : Row) : (s.setRow k x).readBytes = s.readBytes := rfl
@[simp] theorem State.setRow_tick (x : Row) : (s.setRow k x).tick = s.tick := rfl
@[simp] theorem State.setRow_cclk (x : Row) : (s.setRow k x).cclk = s.cclk := rfl
@[simp] theorem State.setRow_dies (x : Row) : (s.setRow k x).dies = s.dies := rfl
@[simp] theorem State.setRow_axes (x : Row) : (s.setRow k x).axes = s.axes := rfl
@[simp] theorem State.setRow_bus (x : Row) : (s.setRow k x).bus = s.bus := rfl
@[simp] theorem State.setRow_busLine (x : Row) : (s.setRow k x).busLine = s.busLine := rfl
@[simp] theorem State.setRow_pinHist (x : Row) : (s.setRow k x).pinHist = s.pinHist := rfl
@[simp] theorem State.setRow_lvOpen (x : Row) : (s.setRow k x).lvOpen = s.lvOpen := rfl
@[simp] theorem State.setRow_openHist (x : Row) : (s.setRow k x).openHist = s.openHist := rfl
@[simp] theorem State.setRow_latch (x : Row) : (s.setRow k x).latch = s.latch := rfl
@[simp] theorem State.setRow_pulses (x : Row) : (s.setRow k x).pulses = s.pulses := rfl
@[simp] theorem State.setRow_alarms (x : Row) : (s.setRow k x).alarms = s.alarms := rfl
@[simp] theorem State.setRow_actions (x : Row) : (s.setRow k x).actions = s.actions := rfl
@[simp] theorem State.setRow_stampAns (x : Row) : (s.setRow k x).stampAns = s.stampAns := rfl
@[simp] theorem State.setRow_timers (x : Row) : (s.setRow k x).timers = s.timers := rfl
@[simp] theorem State.setRow_ocLine (x : Row) : (s.setRow k x).ocLine = s.ocLine := rfl
@[simp] theorem State.setRow_cores (x : Row) : (s.setRow k x).cores = s.cores := rfl
@[simp] theorem State.setRow_events (x : Row) : (s.setRow k x).events = s.events := rfl
@[simp] theorem State.setRow_raises (x : Row) : (s.setRow k x).raises = s.raises := rfl
@[simp] theorem State.setRow_ustore (x : Row) : (s.setRow k x).ustore = s.ustore := rfl
@[simp] theorem State.setRow_mcImage (x : Row) : (s.setRow k x).mcImage = s.mcImage := rfl
@[simp] theorem State.setRow_patches (x : Row) : (s.setRow k x).patches = s.patches := rfl
@[simp] theorem State.setRow_mem (x : Row) : (s.setRow k x).mem = s.mem := rfl
@[simp] theorem State.setRow_poison (x : Row) : (s.setRow k x).poison = s.poison := rfl
@[simp] theorem State.setRow_bays (x : Row) : (s.setRow k x).bays = s.bays := rfl
@[simp] theorem State.setRow_hbmRows (x : Row) : (s.setRow k x).hbmRows = s.hbmRows := rfl
@[simp] theorem State.setRow_hbmSoft (x : Row) : (s.setRow k x).hbmSoft = s.hbmSoft := rfl
@[simp] theorem State.setRow_hbmHard (x : Row) : (s.setRow k x).hbmHard = s.hbmHard := rfl
@[simp] theorem State.setRow_refresh (x : Row) : (s.setRow k x).refresh = s.refresh := rfl
@[simp] theorem State.setRow_scrubPos (x : Row) : (s.setRow k x).scrubPos = s.scrubPos := rfl
@[simp] theorem State.setRow_arbiters (x : Row) : (s.setRow k x).arbiters = s.arbiters := rfl
@[simp] theorem State.setRow_trPorts (x : Row) : (s.setRow k x).trPorts = s.trPorts := rfl
@[simp] theorem State.setRow_buckets (x : Row) : (s.setRow k x).buckets = s.buckets := rfl
@[simp] theorem State.setRow_bridges (x : Row) : (s.setRow k x).bridges = s.bridges := rfl
@[simp] theorem State.setRow_link (x : Row) : (s.setRow k x).link = s.link := rfl
@[simp] theorem State.setRow_msix (x : Row) : (s.setRow k x).msix = s.msix := rfl
@[simp] theorem State.setRow_pba (x : Row) : (s.setRow k x).pba = s.pba := rfl
@[simp] theorem State.setRow_msixReq (x : Row) : (s.setRow k x).msixReq = s.msixReq := rfl
@[simp] theorem State.setRow_rings (x : Row) : (s.setRow k x).rings = s.rings := rfl
@[simp] theorem State.setRow_engines (x : Row) : (s.setRow k x).engines = s.engines := rfl
@[simp] theorem State.setRow_poll (x : Row) : (s.setRow k x).poll = s.poll := rfl
@[simp] theorem State.setRow_groupSeen (x : Row) : (s.setRow k x).groupSeen = s.groupSeen := rfl
@[simp] theorem State.setRow_marks (x : Row) : (s.setRow k x).marks = s.marks := rfl
@[simp] theorem State.setRow_jobs (x : Row) : (s.setRow k x).jobs = s.jobs := rfl
@[simp] theorem State.setRow_objLate (x : Row) : (s.setRow k x).objLate = s.objLate := rfl
@[simp] theorem State.setRow_ports (x : Row) : (s.setRow k x).ports = s.ports := rfl
@[simp] theorem State.setRow_ingests (x : Row) : (s.setRow k x).ingests = s.ingests := rfl
@[simp] theorem State.setRow_egresses (x : Row) : (s.setRow k x).egresses = s.egresses := rfl
@[simp] theorem State.setRow_slotErrs (x : Row) : (s.setRow k x).slotErrs = s.slotErrs := rfl
@[simp] theorem State.setRow_retired (x : Row) : (s.setRow k x).retired = s.retired := rfl
@[simp] theorem State.setRow_reports (x : Row) : (s.setRow k x).reports = s.reports := rfl
@[simp] theorem State.setRow_otp (x : Row) : (s.setRow k x).otp = s.otp := rfl
@[simp] theorem State.setRow_sec (x : Row) : (s.setRow k x).sec = s.sec := rfl
@[simp] theorem State.setRow_power (x : Row) : (s.setRow k x).power = s.power := rfl
@[simp] theorem State.setRow_tap (x : Row) : (s.setRow k x).tap = s.tap := rfl
@[simp] theorem State.setRow_traced (x : Row) : (s.setRow k x).traced = s.traced := rfl
@[simp] theorem State.setRow_evtClr (x : Row) : (s.setRow k x).evtClr = s.evtClr := rfl
@[simp] theorem State.setRow_traceCnt (x : Row) : (s.setRow k x).traceCnt = s.traceCnt := rfl
@[simp] theorem State.setRow_pending (x : Row) : (s.setRow k x).pending = s.pending := rfl
theorem State.row_read (x : Row) (j : Nat) : (s.setRow k x).row j = if j = k then x else s.row j := tget_tset _ _ _ _ _
@[simp] theorem State.row_self (x : Row) : (s.setRow k x).row k = x := tget_tset_self _ _ _ _
@[simp] theorem State.setRow_setRow (x y : Row) : (s.setRow k x).setRow k y = s.setRow k y := by unfold State.setRow; simp
@[simp] theorem State.setRow_die (x : Row) (j : Nat) : (s.setRow k x).die j = s.die j := rfl
@[simp] theorem State.setRow_axis (x : Row) (j : Nat) : (s.setRow k x).axis j = s.axis j := rfl
@[simp] theorem State.setRow_alarm (x : Row) (j : Nat) : (s.setRow k x).alarm j = s.alarm j := rfl
@[simp] theorem State.setRow_timer (x : Row) (j : Nat) : (s.setRow k x).timer j = s.timer j := rfl
@[simp] theorem State.setRow_core (x : Row) (j : Nat) : (s.setRow k x).core j = s.core j := rfl
@[simp] theorem State.setRow_job (x : Row) (j : Nat) : (s.setRow k x).job j = s.job j := rfl
@[simp] theorem State.setRow_ring (x : Row) (j : Nat) : (s.setRow k x).ring j = s.ring j := rfl
@[simp] theorem State.setRow_engine (x : Row) (j : Nat) : (s.setRow k x).engine j = s.engine j := rfl
@[simp] theorem State.setRow_port (x : Row) (j : Nat) : (s.setRow k x).port j = s.port j := rfl
@[simp] theorem State.setRow_bay (x : Row) (j : Nat) : (s.setRow k x).bay j = s.bay j := rfl
@[simp] theorem State.setRow_entry (x : Row) (j : Nat) : (s.setRow k x).entry j = s.entry j := rfl
@[simp] theorem State.setRow_arbiter (x : Row) (j : Nat) : (s.setRow k x).arbiter j = s.arbiter j := rfl
@[simp] theorem State.setRow_bridge (x : Row) (j : Nat) : (s.setRow k x).bridge j = s.bridge j := rfl
@[simp] theorem State.setRow_trPort (x : Row) (j : Nat) : (s.setRow k x).trPort j = s.trPort j := rfl
@[simp] theorem State.setRow_egress (x : Row) (j : Nat) : (s.setRow k x).egress j = s.egress j := rfl
@[simp] theorem State.setRow_regGet (x : Row) (r : RegName) (i : Nat) : regGet (s.setRow k x) r i = regGet s r i := rfl

@[simp] theorem State.setBay_regs (x : Bay) : (s.setBay k x).regs = s.regs := rfl
@[simp] theorem State.setBay_stage (x : Bay) : (s.setBay k x).stage = s.stage := rfl
@[simp] theorem State.setBay_snap (x : Bay) : (s.setBay k x).snap = s.snap := rfl
@[simp] theorem State.setBay_readData (x : Bay) : (s.setBay k x).readData = s.readData := rfl
@[simp] theorem State.setBay_resp (x : Bay) : (s.setBay k x).resp = s.resp := rfl
@[simp] theorem State.setBay_readBytes (x : Bay) : (s.setBay k x).readBytes = s.readBytes := rfl
@[simp] theorem State.setBay_tick (x : Bay) : (s.setBay k x).tick = s.tick := rfl
@[simp] theorem State.setBay_cclk (x : Bay) : (s.setBay k x).cclk = s.cclk := rfl
@[simp] theorem State.setBay_dies (x : Bay) : (s.setBay k x).dies = s.dies := rfl
@[simp] theorem State.setBay_axes (x : Bay) : (s.setBay k x).axes = s.axes := rfl
@[simp] theorem State.setBay_bus (x : Bay) : (s.setBay k x).bus = s.bus := rfl
@[simp] theorem State.setBay_busLine (x : Bay) : (s.setBay k x).busLine = s.busLine := rfl
@[simp] theorem State.setBay_pinHist (x : Bay) : (s.setBay k x).pinHist = s.pinHist := rfl
@[simp] theorem State.setBay_lvOpen (x : Bay) : (s.setBay k x).lvOpen = s.lvOpen := rfl
@[simp] theorem State.setBay_openHist (x : Bay) : (s.setBay k x).openHist = s.openHist := rfl
@[simp] theorem State.setBay_latch (x : Bay) : (s.setBay k x).latch = s.latch := rfl
@[simp] theorem State.setBay_pulses (x : Bay) : (s.setBay k x).pulses = s.pulses := rfl
@[simp] theorem State.setBay_alarms (x : Bay) : (s.setBay k x).alarms = s.alarms := rfl
@[simp] theorem State.setBay_actions (x : Bay) : (s.setBay k x).actions = s.actions := rfl
@[simp] theorem State.setBay_stampAns (x : Bay) : (s.setBay k x).stampAns = s.stampAns := rfl
@[simp] theorem State.setBay_timers (x : Bay) : (s.setBay k x).timers = s.timers := rfl
@[simp] theorem State.setBay_ocLine (x : Bay) : (s.setBay k x).ocLine = s.ocLine := rfl
@[simp] theorem State.setBay_cores (x : Bay) : (s.setBay k x).cores = s.cores := rfl
@[simp] theorem State.setBay_events (x : Bay) : (s.setBay k x).events = s.events := rfl
@[simp] theorem State.setBay_raises (x : Bay) : (s.setBay k x).raises = s.raises := rfl
@[simp] theorem State.setBay_ustore (x : Bay) : (s.setBay k x).ustore = s.ustore := rfl
@[simp] theorem State.setBay_mcImage (x : Bay) : (s.setBay k x).mcImage = s.mcImage := rfl
@[simp] theorem State.setBay_patches (x : Bay) : (s.setBay k x).patches = s.patches := rfl
@[simp] theorem State.setBay_mem (x : Bay) : (s.setBay k x).mem = s.mem := rfl
@[simp] theorem State.setBay_poison (x : Bay) : (s.setBay k x).poison = s.poison := rfl
@[simp] theorem State.setBay_hbmRows (x : Bay) : (s.setBay k x).hbmRows = s.hbmRows := rfl
@[simp] theorem State.setBay_hbmSoft (x : Bay) : (s.setBay k x).hbmSoft = s.hbmSoft := rfl
@[simp] theorem State.setBay_hbmHard (x : Bay) : (s.setBay k x).hbmHard = s.hbmHard := rfl
@[simp] theorem State.setBay_refresh (x : Bay) : (s.setBay k x).refresh = s.refresh := rfl
@[simp] theorem State.setBay_scrubPos (x : Bay) : (s.setBay k x).scrubPos = s.scrubPos := rfl
@[simp] theorem State.setBay_arbiters (x : Bay) : (s.setBay k x).arbiters = s.arbiters := rfl
@[simp] theorem State.setBay_trPorts (x : Bay) : (s.setBay k x).trPorts = s.trPorts := rfl
@[simp] theorem State.setBay_buckets (x : Bay) : (s.setBay k x).buckets = s.buckets := rfl
@[simp] theorem State.setBay_bridges (x : Bay) : (s.setBay k x).bridges = s.bridges := rfl
@[simp] theorem State.setBay_link (x : Bay) : (s.setBay k x).link = s.link := rfl
@[simp] theorem State.setBay_msix (x : Bay) : (s.setBay k x).msix = s.msix := rfl
@[simp] theorem State.setBay_pba (x : Bay) : (s.setBay k x).pba = s.pba := rfl
@[simp] theorem State.setBay_msixReq (x : Bay) : (s.setBay k x).msixReq = s.msixReq := rfl
@[simp] theorem State.setBay_rings (x : Bay) : (s.setBay k x).rings = s.rings := rfl
@[simp] theorem State.setBay_engines (x : Bay) : (s.setBay k x).engines = s.engines := rfl
@[simp] theorem State.setBay_poll (x : Bay) : (s.setBay k x).poll = s.poll := rfl
@[simp] theorem State.setBay_groupSeen (x : Bay) : (s.setBay k x).groupSeen = s.groupSeen := rfl
@[simp] theorem State.setBay_marks (x : Bay) : (s.setBay k x).marks = s.marks := rfl
@[simp] theorem State.setBay_jobs (x : Bay) : (s.setBay k x).jobs = s.jobs := rfl
@[simp] theorem State.setBay_objLate (x : Bay) : (s.setBay k x).objLate = s.objLate := rfl
@[simp] theorem State.setBay_ports (x : Bay) : (s.setBay k x).ports = s.ports := rfl
@[simp] theorem State.setBay_ingests (x : Bay) : (s.setBay k x).ingests = s.ingests := rfl
@[simp] theorem State.setBay_egresses (x : Bay) : (s.setBay k x).egresses = s.egresses := rfl
@[simp] theorem State.setBay_rows (x : Bay) : (s.setBay k x).rows = s.rows := rfl
@[simp] theorem State.setBay_slotErrs (x : Bay) : (s.setBay k x).slotErrs = s.slotErrs := rfl
@[simp] theorem State.setBay_retired (x : Bay) : (s.setBay k x).retired = s.retired := rfl
@[simp] theorem State.setBay_reports (x : Bay) : (s.setBay k x).reports = s.reports := rfl
@[simp] theorem State.setBay_otp (x : Bay) : (s.setBay k x).otp = s.otp := rfl
@[simp] theorem State.setBay_sec (x : Bay) : (s.setBay k x).sec = s.sec := rfl
@[simp] theorem State.setBay_power (x : Bay) : (s.setBay k x).power = s.power := rfl
@[simp] theorem State.setBay_tap (x : Bay) : (s.setBay k x).tap = s.tap := rfl
@[simp] theorem State.setBay_traced (x : Bay) : (s.setBay k x).traced = s.traced := rfl
@[simp] theorem State.setBay_evtClr (x : Bay) : (s.setBay k x).evtClr = s.evtClr := rfl
@[simp] theorem State.setBay_traceCnt (x : Bay) : (s.setBay k x).traceCnt = s.traceCnt := rfl
@[simp] theorem State.setBay_pending (x : Bay) : (s.setBay k x).pending = s.pending := rfl
theorem State.bay_read (x : Bay) (j : Nat) : (s.setBay k x).bay j = if j = k then x else s.bay j := tget_tset _ _ _ _ _
@[simp] theorem State.bay_self (x : Bay) : (s.setBay k x).bay k = x := tget_tset_self _ _ _ _
@[simp] theorem State.setBay_setBay (x y : Bay) : (s.setBay k x).setBay k y = s.setBay k y := by unfold State.setBay; simp
@[simp] theorem State.setBay_die (x : Bay) (j : Nat) : (s.setBay k x).die j = s.die j := rfl
@[simp] theorem State.setBay_axis (x : Bay) (j : Nat) : (s.setBay k x).axis j = s.axis j := rfl
@[simp] theorem State.setBay_alarm (x : Bay) (j : Nat) : (s.setBay k x).alarm j = s.alarm j := rfl
@[simp] theorem State.setBay_timer (x : Bay) (j : Nat) : (s.setBay k x).timer j = s.timer j := rfl
@[simp] theorem State.setBay_core (x : Bay) (j : Nat) : (s.setBay k x).core j = s.core j := rfl
@[simp] theorem State.setBay_job (x : Bay) (j : Nat) : (s.setBay k x).job j = s.job j := rfl
@[simp] theorem State.setBay_ring (x : Bay) (j : Nat) : (s.setBay k x).ring j = s.ring j := rfl
@[simp] theorem State.setBay_engine (x : Bay) (j : Nat) : (s.setBay k x).engine j = s.engine j := rfl
@[simp] theorem State.setBay_port (x : Bay) (j : Nat) : (s.setBay k x).port j = s.port j := rfl
@[simp] theorem State.setBay_row (x : Bay) (j : Nat) : (s.setBay k x).row j = s.row j := rfl
@[simp] theorem State.setBay_entry (x : Bay) (j : Nat) : (s.setBay k x).entry j = s.entry j := rfl
@[simp] theorem State.setBay_arbiter (x : Bay) (j : Nat) : (s.setBay k x).arbiter j = s.arbiter j := rfl
@[simp] theorem State.setBay_bridge (x : Bay) (j : Nat) : (s.setBay k x).bridge j = s.bridge j := rfl
@[simp] theorem State.setBay_trPort (x : Bay) (j : Nat) : (s.setBay k x).trPort j = s.trPort j := rfl
@[simp] theorem State.setBay_egress (x : Bay) (j : Nat) : (s.setBay k x).egress j = s.egress j := rfl
@[simp] theorem State.setBay_regGet (x : Bay) (r : RegName) (i : Nat) : regGet (s.setBay k x) r i = regGet s r i := rfl

@[simp] theorem State.setEntry_regs (x : MsixEntry) : (s.setEntry k x).regs = s.regs := rfl
@[simp] theorem State.setEntry_stage (x : MsixEntry) : (s.setEntry k x).stage = s.stage := rfl
@[simp] theorem State.setEntry_snap (x : MsixEntry) : (s.setEntry k x).snap = s.snap := rfl
@[simp] theorem State.setEntry_readData (x : MsixEntry) : (s.setEntry k x).readData = s.readData := rfl
@[simp] theorem State.setEntry_resp (x : MsixEntry) : (s.setEntry k x).resp = s.resp := rfl
@[simp] theorem State.setEntry_readBytes (x : MsixEntry) : (s.setEntry k x).readBytes = s.readBytes := rfl
@[simp] theorem State.setEntry_tick (x : MsixEntry) : (s.setEntry k x).tick = s.tick := rfl
@[simp] theorem State.setEntry_cclk (x : MsixEntry) : (s.setEntry k x).cclk = s.cclk := rfl
@[simp] theorem State.setEntry_dies (x : MsixEntry) : (s.setEntry k x).dies = s.dies := rfl
@[simp] theorem State.setEntry_axes (x : MsixEntry) : (s.setEntry k x).axes = s.axes := rfl
@[simp] theorem State.setEntry_bus (x : MsixEntry) : (s.setEntry k x).bus = s.bus := rfl
@[simp] theorem State.setEntry_busLine (x : MsixEntry) : (s.setEntry k x).busLine = s.busLine := rfl
@[simp] theorem State.setEntry_pinHist (x : MsixEntry) : (s.setEntry k x).pinHist = s.pinHist := rfl
@[simp] theorem State.setEntry_lvOpen (x : MsixEntry) : (s.setEntry k x).lvOpen = s.lvOpen := rfl
@[simp] theorem State.setEntry_openHist (x : MsixEntry) : (s.setEntry k x).openHist = s.openHist := rfl
@[simp] theorem State.setEntry_latch (x : MsixEntry) : (s.setEntry k x).latch = s.latch := rfl
@[simp] theorem State.setEntry_pulses (x : MsixEntry) : (s.setEntry k x).pulses = s.pulses := rfl
@[simp] theorem State.setEntry_alarms (x : MsixEntry) : (s.setEntry k x).alarms = s.alarms := rfl
@[simp] theorem State.setEntry_actions (x : MsixEntry) : (s.setEntry k x).actions = s.actions := rfl
@[simp] theorem State.setEntry_stampAns (x : MsixEntry) : (s.setEntry k x).stampAns = s.stampAns := rfl
@[simp] theorem State.setEntry_timers (x : MsixEntry) : (s.setEntry k x).timers = s.timers := rfl
@[simp] theorem State.setEntry_ocLine (x : MsixEntry) : (s.setEntry k x).ocLine = s.ocLine := rfl
@[simp] theorem State.setEntry_cores (x : MsixEntry) : (s.setEntry k x).cores = s.cores := rfl
@[simp] theorem State.setEntry_events (x : MsixEntry) : (s.setEntry k x).events = s.events := rfl
@[simp] theorem State.setEntry_raises (x : MsixEntry) : (s.setEntry k x).raises = s.raises := rfl
@[simp] theorem State.setEntry_ustore (x : MsixEntry) : (s.setEntry k x).ustore = s.ustore := rfl
@[simp] theorem State.setEntry_mcImage (x : MsixEntry) : (s.setEntry k x).mcImage = s.mcImage := rfl
@[simp] theorem State.setEntry_patches (x : MsixEntry) : (s.setEntry k x).patches = s.patches := rfl
@[simp] theorem State.setEntry_mem (x : MsixEntry) : (s.setEntry k x).mem = s.mem := rfl
@[simp] theorem State.setEntry_poison (x : MsixEntry) : (s.setEntry k x).poison = s.poison := rfl
@[simp] theorem State.setEntry_bays (x : MsixEntry) : (s.setEntry k x).bays = s.bays := rfl
@[simp] theorem State.setEntry_hbmRows (x : MsixEntry) : (s.setEntry k x).hbmRows = s.hbmRows := rfl
@[simp] theorem State.setEntry_hbmSoft (x : MsixEntry) : (s.setEntry k x).hbmSoft = s.hbmSoft := rfl
@[simp] theorem State.setEntry_hbmHard (x : MsixEntry) : (s.setEntry k x).hbmHard = s.hbmHard := rfl
@[simp] theorem State.setEntry_refresh (x : MsixEntry) : (s.setEntry k x).refresh = s.refresh := rfl
@[simp] theorem State.setEntry_scrubPos (x : MsixEntry) : (s.setEntry k x).scrubPos = s.scrubPos := rfl
@[simp] theorem State.setEntry_arbiters (x : MsixEntry) : (s.setEntry k x).arbiters = s.arbiters := rfl
@[simp] theorem State.setEntry_trPorts (x : MsixEntry) : (s.setEntry k x).trPorts = s.trPorts := rfl
@[simp] theorem State.setEntry_buckets (x : MsixEntry) : (s.setEntry k x).buckets = s.buckets := rfl
@[simp] theorem State.setEntry_bridges (x : MsixEntry) : (s.setEntry k x).bridges = s.bridges := rfl
@[simp] theorem State.setEntry_link (x : MsixEntry) : (s.setEntry k x).link = s.link := rfl
@[simp] theorem State.setEntry_pba (x : MsixEntry) : (s.setEntry k x).pba = s.pba := rfl
@[simp] theorem State.setEntry_msixReq (x : MsixEntry) : (s.setEntry k x).msixReq = s.msixReq := rfl
@[simp] theorem State.setEntry_rings (x : MsixEntry) : (s.setEntry k x).rings = s.rings := rfl
@[simp] theorem State.setEntry_engines (x : MsixEntry) : (s.setEntry k x).engines = s.engines := rfl
@[simp] theorem State.setEntry_poll (x : MsixEntry) : (s.setEntry k x).poll = s.poll := rfl
@[simp] theorem State.setEntry_groupSeen (x : MsixEntry) : (s.setEntry k x).groupSeen = s.groupSeen := rfl
@[simp] theorem State.setEntry_marks (x : MsixEntry) : (s.setEntry k x).marks = s.marks := rfl
@[simp] theorem State.setEntry_jobs (x : MsixEntry) : (s.setEntry k x).jobs = s.jobs := rfl
@[simp] theorem State.setEntry_objLate (x : MsixEntry) : (s.setEntry k x).objLate = s.objLate := rfl
@[simp] theorem State.setEntry_ports (x : MsixEntry) : (s.setEntry k x).ports = s.ports := rfl
@[simp] theorem State.setEntry_ingests (x : MsixEntry) : (s.setEntry k x).ingests = s.ingests := rfl
@[simp] theorem State.setEntry_egresses (x : MsixEntry) : (s.setEntry k x).egresses = s.egresses := rfl
@[simp] theorem State.setEntry_rows (x : MsixEntry) : (s.setEntry k x).rows = s.rows := rfl
@[simp] theorem State.setEntry_slotErrs (x : MsixEntry) : (s.setEntry k x).slotErrs = s.slotErrs := rfl
@[simp] theorem State.setEntry_retired (x : MsixEntry) : (s.setEntry k x).retired = s.retired := rfl
@[simp] theorem State.setEntry_reports (x : MsixEntry) : (s.setEntry k x).reports = s.reports := rfl
@[simp] theorem State.setEntry_otp (x : MsixEntry) : (s.setEntry k x).otp = s.otp := rfl
@[simp] theorem State.setEntry_sec (x : MsixEntry) : (s.setEntry k x).sec = s.sec := rfl
@[simp] theorem State.setEntry_power (x : MsixEntry) : (s.setEntry k x).power = s.power := rfl
@[simp] theorem State.setEntry_tap (x : MsixEntry) : (s.setEntry k x).tap = s.tap := rfl
@[simp] theorem State.setEntry_traced (x : MsixEntry) : (s.setEntry k x).traced = s.traced := rfl
@[simp] theorem State.setEntry_evtClr (x : MsixEntry) : (s.setEntry k x).evtClr = s.evtClr := rfl
@[simp] theorem State.setEntry_traceCnt (x : MsixEntry) : (s.setEntry k x).traceCnt = s.traceCnt := rfl
@[simp] theorem State.setEntry_pending (x : MsixEntry) : (s.setEntry k x).pending = s.pending := rfl
theorem State.entry_read (x : MsixEntry) (j : Nat) : (s.setEntry k x).entry j = if j = k then x else s.entry j := tget_tset _ _ _ _ _
@[simp] theorem State.entry_self (x : MsixEntry) : (s.setEntry k x).entry k = x := tget_tset_self _ _ _ _
@[simp] theorem State.setEntry_setEntry (x y : MsixEntry) : (s.setEntry k x).setEntry k y = s.setEntry k y := by unfold State.setEntry; simp
@[simp] theorem State.setEntry_die (x : MsixEntry) (j : Nat) : (s.setEntry k x).die j = s.die j := rfl
@[simp] theorem State.setEntry_axis (x : MsixEntry) (j : Nat) : (s.setEntry k x).axis j = s.axis j := rfl
@[simp] theorem State.setEntry_alarm (x : MsixEntry) (j : Nat) : (s.setEntry k x).alarm j = s.alarm j := rfl
@[simp] theorem State.setEntry_timer (x : MsixEntry) (j : Nat) : (s.setEntry k x).timer j = s.timer j := rfl
@[simp] theorem State.setEntry_core (x : MsixEntry) (j : Nat) : (s.setEntry k x).core j = s.core j := rfl
@[simp] theorem State.setEntry_job (x : MsixEntry) (j : Nat) : (s.setEntry k x).job j = s.job j := rfl
@[simp] theorem State.setEntry_ring (x : MsixEntry) (j : Nat) : (s.setEntry k x).ring j = s.ring j := rfl
@[simp] theorem State.setEntry_engine (x : MsixEntry) (j : Nat) : (s.setEntry k x).engine j = s.engine j := rfl
@[simp] theorem State.setEntry_port (x : MsixEntry) (j : Nat) : (s.setEntry k x).port j = s.port j := rfl
@[simp] theorem State.setEntry_row (x : MsixEntry) (j : Nat) : (s.setEntry k x).row j = s.row j := rfl
@[simp] theorem State.setEntry_bay (x : MsixEntry) (j : Nat) : (s.setEntry k x).bay j = s.bay j := rfl
@[simp] theorem State.setEntry_arbiter (x : MsixEntry) (j : Nat) : (s.setEntry k x).arbiter j = s.arbiter j := rfl
@[simp] theorem State.setEntry_bridge (x : MsixEntry) (j : Nat) : (s.setEntry k x).bridge j = s.bridge j := rfl
@[simp] theorem State.setEntry_trPort (x : MsixEntry) (j : Nat) : (s.setEntry k x).trPort j = s.trPort j := rfl
@[simp] theorem State.setEntry_egress (x : MsixEntry) (j : Nat) : (s.setEntry k x).egress j = s.egress j := rfl
@[simp] theorem State.setEntry_regGet (x : MsixEntry) (r : RegName) (i : Nat) : regGet (s.setEntry k x) r i = regGet s r i := rfl

@[simp] theorem State.setArbiter_regs (x : Arbiter) : (s.setArbiter k x).regs = s.regs := rfl
@[simp] theorem State.setArbiter_stage (x : Arbiter) : (s.setArbiter k x).stage = s.stage := rfl
@[simp] theorem State.setArbiter_snap (x : Arbiter) : (s.setArbiter k x).snap = s.snap := rfl
@[simp] theorem State.setArbiter_readData (x : Arbiter) : (s.setArbiter k x).readData = s.readData := rfl
@[simp] theorem State.setArbiter_resp (x : Arbiter) : (s.setArbiter k x).resp = s.resp := rfl
@[simp] theorem State.setArbiter_readBytes (x : Arbiter) : (s.setArbiter k x).readBytes = s.readBytes := rfl
@[simp] theorem State.setArbiter_tick (x : Arbiter) : (s.setArbiter k x).tick = s.tick := rfl
@[simp] theorem State.setArbiter_cclk (x : Arbiter) : (s.setArbiter k x).cclk = s.cclk := rfl
@[simp] theorem State.setArbiter_dies (x : Arbiter) : (s.setArbiter k x).dies = s.dies := rfl
@[simp] theorem State.setArbiter_axes (x : Arbiter) : (s.setArbiter k x).axes = s.axes := rfl
@[simp] theorem State.setArbiter_bus (x : Arbiter) : (s.setArbiter k x).bus = s.bus := rfl
@[simp] theorem State.setArbiter_busLine (x : Arbiter) : (s.setArbiter k x).busLine = s.busLine := rfl
@[simp] theorem State.setArbiter_pinHist (x : Arbiter) : (s.setArbiter k x).pinHist = s.pinHist := rfl
@[simp] theorem State.setArbiter_lvOpen (x : Arbiter) : (s.setArbiter k x).lvOpen = s.lvOpen := rfl
@[simp] theorem State.setArbiter_openHist (x : Arbiter) : (s.setArbiter k x).openHist = s.openHist := rfl
@[simp] theorem State.setArbiter_latch (x : Arbiter) : (s.setArbiter k x).latch = s.latch := rfl
@[simp] theorem State.setArbiter_pulses (x : Arbiter) : (s.setArbiter k x).pulses = s.pulses := rfl
@[simp] theorem State.setArbiter_alarms (x : Arbiter) : (s.setArbiter k x).alarms = s.alarms := rfl
@[simp] theorem State.setArbiter_actions (x : Arbiter) : (s.setArbiter k x).actions = s.actions := rfl
@[simp] theorem State.setArbiter_stampAns (x : Arbiter) : (s.setArbiter k x).stampAns = s.stampAns := rfl
@[simp] theorem State.setArbiter_timers (x : Arbiter) : (s.setArbiter k x).timers = s.timers := rfl
@[simp] theorem State.setArbiter_ocLine (x : Arbiter) : (s.setArbiter k x).ocLine = s.ocLine := rfl
@[simp] theorem State.setArbiter_cores (x : Arbiter) : (s.setArbiter k x).cores = s.cores := rfl
@[simp] theorem State.setArbiter_events (x : Arbiter) : (s.setArbiter k x).events = s.events := rfl
@[simp] theorem State.setArbiter_raises (x : Arbiter) : (s.setArbiter k x).raises = s.raises := rfl
@[simp] theorem State.setArbiter_ustore (x : Arbiter) : (s.setArbiter k x).ustore = s.ustore := rfl
@[simp] theorem State.setArbiter_mcImage (x : Arbiter) : (s.setArbiter k x).mcImage = s.mcImage := rfl
@[simp] theorem State.setArbiter_patches (x : Arbiter) : (s.setArbiter k x).patches = s.patches := rfl
@[simp] theorem State.setArbiter_mem (x : Arbiter) : (s.setArbiter k x).mem = s.mem := rfl
@[simp] theorem State.setArbiter_poison (x : Arbiter) : (s.setArbiter k x).poison = s.poison := rfl
@[simp] theorem State.setArbiter_bays (x : Arbiter) : (s.setArbiter k x).bays = s.bays := rfl
@[simp] theorem State.setArbiter_hbmRows (x : Arbiter) : (s.setArbiter k x).hbmRows = s.hbmRows := rfl
@[simp] theorem State.setArbiter_hbmSoft (x : Arbiter) : (s.setArbiter k x).hbmSoft = s.hbmSoft := rfl
@[simp] theorem State.setArbiter_hbmHard (x : Arbiter) : (s.setArbiter k x).hbmHard = s.hbmHard := rfl
@[simp] theorem State.setArbiter_refresh (x : Arbiter) : (s.setArbiter k x).refresh = s.refresh := rfl
@[simp] theorem State.setArbiter_scrubPos (x : Arbiter) : (s.setArbiter k x).scrubPos = s.scrubPos := rfl
@[simp] theorem State.setArbiter_trPorts (x : Arbiter) : (s.setArbiter k x).trPorts = s.trPorts := rfl
@[simp] theorem State.setArbiter_buckets (x : Arbiter) : (s.setArbiter k x).buckets = s.buckets := rfl
@[simp] theorem State.setArbiter_bridges (x : Arbiter) : (s.setArbiter k x).bridges = s.bridges := rfl
@[simp] theorem State.setArbiter_link (x : Arbiter) : (s.setArbiter k x).link = s.link := rfl
@[simp] theorem State.setArbiter_msix (x : Arbiter) : (s.setArbiter k x).msix = s.msix := rfl
@[simp] theorem State.setArbiter_pba (x : Arbiter) : (s.setArbiter k x).pba = s.pba := rfl
@[simp] theorem State.setArbiter_msixReq (x : Arbiter) : (s.setArbiter k x).msixReq = s.msixReq := rfl
@[simp] theorem State.setArbiter_rings (x : Arbiter) : (s.setArbiter k x).rings = s.rings := rfl
@[simp] theorem State.setArbiter_engines (x : Arbiter) : (s.setArbiter k x).engines = s.engines := rfl
@[simp] theorem State.setArbiter_poll (x : Arbiter) : (s.setArbiter k x).poll = s.poll := rfl
@[simp] theorem State.setArbiter_groupSeen (x : Arbiter) : (s.setArbiter k x).groupSeen = s.groupSeen := rfl
@[simp] theorem State.setArbiter_marks (x : Arbiter) : (s.setArbiter k x).marks = s.marks := rfl
@[simp] theorem State.setArbiter_jobs (x : Arbiter) : (s.setArbiter k x).jobs = s.jobs := rfl
@[simp] theorem State.setArbiter_objLate (x : Arbiter) : (s.setArbiter k x).objLate = s.objLate := rfl
@[simp] theorem State.setArbiter_ports (x : Arbiter) : (s.setArbiter k x).ports = s.ports := rfl
@[simp] theorem State.setArbiter_ingests (x : Arbiter) : (s.setArbiter k x).ingests = s.ingests := rfl
@[simp] theorem State.setArbiter_egresses (x : Arbiter) : (s.setArbiter k x).egresses = s.egresses := rfl
@[simp] theorem State.setArbiter_rows (x : Arbiter) : (s.setArbiter k x).rows = s.rows := rfl
@[simp] theorem State.setArbiter_slotErrs (x : Arbiter) : (s.setArbiter k x).slotErrs = s.slotErrs := rfl
@[simp] theorem State.setArbiter_retired (x : Arbiter) : (s.setArbiter k x).retired = s.retired := rfl
@[simp] theorem State.setArbiter_reports (x : Arbiter) : (s.setArbiter k x).reports = s.reports := rfl
@[simp] theorem State.setArbiter_otp (x : Arbiter) : (s.setArbiter k x).otp = s.otp := rfl
@[simp] theorem State.setArbiter_sec (x : Arbiter) : (s.setArbiter k x).sec = s.sec := rfl
@[simp] theorem State.setArbiter_power (x : Arbiter) : (s.setArbiter k x).power = s.power := rfl
@[simp] theorem State.setArbiter_tap (x : Arbiter) : (s.setArbiter k x).tap = s.tap := rfl
@[simp] theorem State.setArbiter_traced (x : Arbiter) : (s.setArbiter k x).traced = s.traced := rfl
@[simp] theorem State.setArbiter_evtClr (x : Arbiter) : (s.setArbiter k x).evtClr = s.evtClr := rfl
@[simp] theorem State.setArbiter_traceCnt (x : Arbiter) : (s.setArbiter k x).traceCnt = s.traceCnt := rfl
@[simp] theorem State.setArbiter_pending (x : Arbiter) : (s.setArbiter k x).pending = s.pending := rfl
theorem State.arbiter_read (x : Arbiter) (j : Nat) : (s.setArbiter k x).arbiter j = if j = k then x else s.arbiter j := tget_tset _ _ _ _ _
@[simp] theorem State.arbiter_self (x : Arbiter) : (s.setArbiter k x).arbiter k = x := tget_tset_self _ _ _ _
@[simp] theorem State.setArbiter_setArbiter (x y : Arbiter) : (s.setArbiter k x).setArbiter k y = s.setArbiter k y := by unfold State.setArbiter; simp
@[simp] theorem State.setArbiter_die (x : Arbiter) (j : Nat) : (s.setArbiter k x).die j = s.die j := rfl
@[simp] theorem State.setArbiter_axis (x : Arbiter) (j : Nat) : (s.setArbiter k x).axis j = s.axis j := rfl
@[simp] theorem State.setArbiter_alarm (x : Arbiter) (j : Nat) : (s.setArbiter k x).alarm j = s.alarm j := rfl
@[simp] theorem State.setArbiter_timer (x : Arbiter) (j : Nat) : (s.setArbiter k x).timer j = s.timer j := rfl
@[simp] theorem State.setArbiter_core (x : Arbiter) (j : Nat) : (s.setArbiter k x).core j = s.core j := rfl
@[simp] theorem State.setArbiter_job (x : Arbiter) (j : Nat) : (s.setArbiter k x).job j = s.job j := rfl
@[simp] theorem State.setArbiter_ring (x : Arbiter) (j : Nat) : (s.setArbiter k x).ring j = s.ring j := rfl
@[simp] theorem State.setArbiter_engine (x : Arbiter) (j : Nat) : (s.setArbiter k x).engine j = s.engine j := rfl
@[simp] theorem State.setArbiter_port (x : Arbiter) (j : Nat) : (s.setArbiter k x).port j = s.port j := rfl
@[simp] theorem State.setArbiter_row (x : Arbiter) (j : Nat) : (s.setArbiter k x).row j = s.row j := rfl
@[simp] theorem State.setArbiter_bay (x : Arbiter) (j : Nat) : (s.setArbiter k x).bay j = s.bay j := rfl
@[simp] theorem State.setArbiter_entry (x : Arbiter) (j : Nat) : (s.setArbiter k x).entry j = s.entry j := rfl
@[simp] theorem State.setArbiter_bridge (x : Arbiter) (j : Nat) : (s.setArbiter k x).bridge j = s.bridge j := rfl
@[simp] theorem State.setArbiter_trPort (x : Arbiter) (j : Nat) : (s.setArbiter k x).trPort j = s.trPort j := rfl
@[simp] theorem State.setArbiter_egress (x : Arbiter) (j : Nat) : (s.setArbiter k x).egress j = s.egress j := rfl
@[simp] theorem State.setArbiter_regGet (x : Arbiter) (r : RegName) (i : Nat) : regGet (s.setArbiter k x) r i = regGet s r i := rfl

@[simp] theorem State.setBridge_regs (x : Bridge) : (s.setBridge k x).regs = s.regs := rfl
@[simp] theorem State.setBridge_stage (x : Bridge) : (s.setBridge k x).stage = s.stage := rfl
@[simp] theorem State.setBridge_snap (x : Bridge) : (s.setBridge k x).snap = s.snap := rfl
@[simp] theorem State.setBridge_readData (x : Bridge) : (s.setBridge k x).readData = s.readData := rfl
@[simp] theorem State.setBridge_resp (x : Bridge) : (s.setBridge k x).resp = s.resp := rfl
@[simp] theorem State.setBridge_readBytes (x : Bridge) : (s.setBridge k x).readBytes = s.readBytes := rfl
@[simp] theorem State.setBridge_tick (x : Bridge) : (s.setBridge k x).tick = s.tick := rfl
@[simp] theorem State.setBridge_cclk (x : Bridge) : (s.setBridge k x).cclk = s.cclk := rfl
@[simp] theorem State.setBridge_dies (x : Bridge) : (s.setBridge k x).dies = s.dies := rfl
@[simp] theorem State.setBridge_axes (x : Bridge) : (s.setBridge k x).axes = s.axes := rfl
@[simp] theorem State.setBridge_bus (x : Bridge) : (s.setBridge k x).bus = s.bus := rfl
@[simp] theorem State.setBridge_busLine (x : Bridge) : (s.setBridge k x).busLine = s.busLine := rfl
@[simp] theorem State.setBridge_pinHist (x : Bridge) : (s.setBridge k x).pinHist = s.pinHist := rfl
@[simp] theorem State.setBridge_lvOpen (x : Bridge) : (s.setBridge k x).lvOpen = s.lvOpen := rfl
@[simp] theorem State.setBridge_openHist (x : Bridge) : (s.setBridge k x).openHist = s.openHist := rfl
@[simp] theorem State.setBridge_latch (x : Bridge) : (s.setBridge k x).latch = s.latch := rfl
@[simp] theorem State.setBridge_pulses (x : Bridge) : (s.setBridge k x).pulses = s.pulses := rfl
@[simp] theorem State.setBridge_alarms (x : Bridge) : (s.setBridge k x).alarms = s.alarms := rfl
@[simp] theorem State.setBridge_actions (x : Bridge) : (s.setBridge k x).actions = s.actions := rfl
@[simp] theorem State.setBridge_stampAns (x : Bridge) : (s.setBridge k x).stampAns = s.stampAns := rfl
@[simp] theorem State.setBridge_timers (x : Bridge) : (s.setBridge k x).timers = s.timers := rfl
@[simp] theorem State.setBridge_ocLine (x : Bridge) : (s.setBridge k x).ocLine = s.ocLine := rfl
@[simp] theorem State.setBridge_cores (x : Bridge) : (s.setBridge k x).cores = s.cores := rfl
@[simp] theorem State.setBridge_events (x : Bridge) : (s.setBridge k x).events = s.events := rfl
@[simp] theorem State.setBridge_raises (x : Bridge) : (s.setBridge k x).raises = s.raises := rfl
@[simp] theorem State.setBridge_ustore (x : Bridge) : (s.setBridge k x).ustore = s.ustore := rfl
@[simp] theorem State.setBridge_mcImage (x : Bridge) : (s.setBridge k x).mcImage = s.mcImage := rfl
@[simp] theorem State.setBridge_patches (x : Bridge) : (s.setBridge k x).patches = s.patches := rfl
@[simp] theorem State.setBridge_mem (x : Bridge) : (s.setBridge k x).mem = s.mem := rfl
@[simp] theorem State.setBridge_poison (x : Bridge) : (s.setBridge k x).poison = s.poison := rfl
@[simp] theorem State.setBridge_bays (x : Bridge) : (s.setBridge k x).bays = s.bays := rfl
@[simp] theorem State.setBridge_hbmRows (x : Bridge) : (s.setBridge k x).hbmRows = s.hbmRows := rfl
@[simp] theorem State.setBridge_hbmSoft (x : Bridge) : (s.setBridge k x).hbmSoft = s.hbmSoft := rfl
@[simp] theorem State.setBridge_hbmHard (x : Bridge) : (s.setBridge k x).hbmHard = s.hbmHard := rfl
@[simp] theorem State.setBridge_refresh (x : Bridge) : (s.setBridge k x).refresh = s.refresh := rfl
@[simp] theorem State.setBridge_scrubPos (x : Bridge) : (s.setBridge k x).scrubPos = s.scrubPos := rfl
@[simp] theorem State.setBridge_arbiters (x : Bridge) : (s.setBridge k x).arbiters = s.arbiters := rfl
@[simp] theorem State.setBridge_trPorts (x : Bridge) : (s.setBridge k x).trPorts = s.trPorts := rfl
@[simp] theorem State.setBridge_buckets (x : Bridge) : (s.setBridge k x).buckets = s.buckets := rfl
@[simp] theorem State.setBridge_link (x : Bridge) : (s.setBridge k x).link = s.link := rfl
@[simp] theorem State.setBridge_msix (x : Bridge) : (s.setBridge k x).msix = s.msix := rfl
@[simp] theorem State.setBridge_pba (x : Bridge) : (s.setBridge k x).pba = s.pba := rfl
@[simp] theorem State.setBridge_msixReq (x : Bridge) : (s.setBridge k x).msixReq = s.msixReq := rfl
@[simp] theorem State.setBridge_rings (x : Bridge) : (s.setBridge k x).rings = s.rings := rfl
@[simp] theorem State.setBridge_engines (x : Bridge) : (s.setBridge k x).engines = s.engines := rfl
@[simp] theorem State.setBridge_poll (x : Bridge) : (s.setBridge k x).poll = s.poll := rfl
@[simp] theorem State.setBridge_groupSeen (x : Bridge) : (s.setBridge k x).groupSeen = s.groupSeen := rfl
@[simp] theorem State.setBridge_marks (x : Bridge) : (s.setBridge k x).marks = s.marks := rfl
@[simp] theorem State.setBridge_jobs (x : Bridge) : (s.setBridge k x).jobs = s.jobs := rfl
@[simp] theorem State.setBridge_objLate (x : Bridge) : (s.setBridge k x).objLate = s.objLate := rfl
@[simp] theorem State.setBridge_ports (x : Bridge) : (s.setBridge k x).ports = s.ports := rfl
@[simp] theorem State.setBridge_ingests (x : Bridge) : (s.setBridge k x).ingests = s.ingests := rfl
@[simp] theorem State.setBridge_egresses (x : Bridge) : (s.setBridge k x).egresses = s.egresses := rfl
@[simp] theorem State.setBridge_rows (x : Bridge) : (s.setBridge k x).rows = s.rows := rfl
@[simp] theorem State.setBridge_slotErrs (x : Bridge) : (s.setBridge k x).slotErrs = s.slotErrs := rfl
@[simp] theorem State.setBridge_retired (x : Bridge) : (s.setBridge k x).retired = s.retired := rfl
@[simp] theorem State.setBridge_reports (x : Bridge) : (s.setBridge k x).reports = s.reports := rfl
@[simp] theorem State.setBridge_otp (x : Bridge) : (s.setBridge k x).otp = s.otp := rfl
@[simp] theorem State.setBridge_sec (x : Bridge) : (s.setBridge k x).sec = s.sec := rfl
@[simp] theorem State.setBridge_power (x : Bridge) : (s.setBridge k x).power = s.power := rfl
@[simp] theorem State.setBridge_tap (x : Bridge) : (s.setBridge k x).tap = s.tap := rfl
@[simp] theorem State.setBridge_traced (x : Bridge) : (s.setBridge k x).traced = s.traced := rfl
@[simp] theorem State.setBridge_evtClr (x : Bridge) : (s.setBridge k x).evtClr = s.evtClr := rfl
@[simp] theorem State.setBridge_traceCnt (x : Bridge) : (s.setBridge k x).traceCnt = s.traceCnt := rfl
@[simp] theorem State.setBridge_pending (x : Bridge) : (s.setBridge k x).pending = s.pending := rfl
theorem State.bridge_read (x : Bridge) (j : Nat) : (s.setBridge k x).bridge j = if j = k then x else s.bridge j := tget_tset _ _ _ _ _
@[simp] theorem State.bridge_self (x : Bridge) : (s.setBridge k x).bridge k = x := tget_tset_self _ _ _ _
@[simp] theorem State.setBridge_setBridge (x y : Bridge) : (s.setBridge k x).setBridge k y = s.setBridge k y := by unfold State.setBridge; simp
@[simp] theorem State.setBridge_die (x : Bridge) (j : Nat) : (s.setBridge k x).die j = s.die j := rfl
@[simp] theorem State.setBridge_axis (x : Bridge) (j : Nat) : (s.setBridge k x).axis j = s.axis j := rfl
@[simp] theorem State.setBridge_alarm (x : Bridge) (j : Nat) : (s.setBridge k x).alarm j = s.alarm j := rfl
@[simp] theorem State.setBridge_timer (x : Bridge) (j : Nat) : (s.setBridge k x).timer j = s.timer j := rfl
@[simp] theorem State.setBridge_core (x : Bridge) (j : Nat) : (s.setBridge k x).core j = s.core j := rfl
@[simp] theorem State.setBridge_job (x : Bridge) (j : Nat) : (s.setBridge k x).job j = s.job j := rfl
@[simp] theorem State.setBridge_ring (x : Bridge) (j : Nat) : (s.setBridge k x).ring j = s.ring j := rfl
@[simp] theorem State.setBridge_engine (x : Bridge) (j : Nat) : (s.setBridge k x).engine j = s.engine j := rfl
@[simp] theorem State.setBridge_port (x : Bridge) (j : Nat) : (s.setBridge k x).port j = s.port j := rfl
@[simp] theorem State.setBridge_row (x : Bridge) (j : Nat) : (s.setBridge k x).row j = s.row j := rfl
@[simp] theorem State.setBridge_bay (x : Bridge) (j : Nat) : (s.setBridge k x).bay j = s.bay j := rfl
@[simp] theorem State.setBridge_entry (x : Bridge) (j : Nat) : (s.setBridge k x).entry j = s.entry j := rfl
@[simp] theorem State.setBridge_arbiter (x : Bridge) (j : Nat) : (s.setBridge k x).arbiter j = s.arbiter j := rfl
@[simp] theorem State.setBridge_trPort (x : Bridge) (j : Nat) : (s.setBridge k x).trPort j = s.trPort j := rfl
@[simp] theorem State.setBridge_egress (x : Bridge) (j : Nat) : (s.setBridge k x).egress j = s.egress j := rfl
@[simp] theorem State.setBridge_regGet (x : Bridge) (r : RegName) (i : Nat) : regGet (s.setBridge k x) r i = regGet s r i := rfl

@[simp] theorem State.setTrPort_regs (x : TrPort) : (s.setTrPort k x).regs = s.regs := rfl
@[simp] theorem State.setTrPort_stage (x : TrPort) : (s.setTrPort k x).stage = s.stage := rfl
@[simp] theorem State.setTrPort_snap (x : TrPort) : (s.setTrPort k x).snap = s.snap := rfl
@[simp] theorem State.setTrPort_readData (x : TrPort) : (s.setTrPort k x).readData = s.readData := rfl
@[simp] theorem State.setTrPort_resp (x : TrPort) : (s.setTrPort k x).resp = s.resp := rfl
@[simp] theorem State.setTrPort_readBytes (x : TrPort) : (s.setTrPort k x).readBytes = s.readBytes := rfl
@[simp] theorem State.setTrPort_tick (x : TrPort) : (s.setTrPort k x).tick = s.tick := rfl
@[simp] theorem State.setTrPort_cclk (x : TrPort) : (s.setTrPort k x).cclk = s.cclk := rfl
@[simp] theorem State.setTrPort_dies (x : TrPort) : (s.setTrPort k x).dies = s.dies := rfl
@[simp] theorem State.setTrPort_axes (x : TrPort) : (s.setTrPort k x).axes = s.axes := rfl
@[simp] theorem State.setTrPort_bus (x : TrPort) : (s.setTrPort k x).bus = s.bus := rfl
@[simp] theorem State.setTrPort_busLine (x : TrPort) : (s.setTrPort k x).busLine = s.busLine := rfl
@[simp] theorem State.setTrPort_pinHist (x : TrPort) : (s.setTrPort k x).pinHist = s.pinHist := rfl
@[simp] theorem State.setTrPort_lvOpen (x : TrPort) : (s.setTrPort k x).lvOpen = s.lvOpen := rfl
@[simp] theorem State.setTrPort_openHist (x : TrPort) : (s.setTrPort k x).openHist = s.openHist := rfl
@[simp] theorem State.setTrPort_latch (x : TrPort) : (s.setTrPort k x).latch = s.latch := rfl
@[simp] theorem State.setTrPort_pulses (x : TrPort) : (s.setTrPort k x).pulses = s.pulses := rfl
@[simp] theorem State.setTrPort_alarms (x : TrPort) : (s.setTrPort k x).alarms = s.alarms := rfl
@[simp] theorem State.setTrPort_actions (x : TrPort) : (s.setTrPort k x).actions = s.actions := rfl
@[simp] theorem State.setTrPort_stampAns (x : TrPort) : (s.setTrPort k x).stampAns = s.stampAns := rfl
@[simp] theorem State.setTrPort_timers (x : TrPort) : (s.setTrPort k x).timers = s.timers := rfl
@[simp] theorem State.setTrPort_ocLine (x : TrPort) : (s.setTrPort k x).ocLine = s.ocLine := rfl
@[simp] theorem State.setTrPort_cores (x : TrPort) : (s.setTrPort k x).cores = s.cores := rfl
@[simp] theorem State.setTrPort_events (x : TrPort) : (s.setTrPort k x).events = s.events := rfl
@[simp] theorem State.setTrPort_raises (x : TrPort) : (s.setTrPort k x).raises = s.raises := rfl
@[simp] theorem State.setTrPort_ustore (x : TrPort) : (s.setTrPort k x).ustore = s.ustore := rfl
@[simp] theorem State.setTrPort_mcImage (x : TrPort) : (s.setTrPort k x).mcImage = s.mcImage := rfl
@[simp] theorem State.setTrPort_patches (x : TrPort) : (s.setTrPort k x).patches = s.patches := rfl
@[simp] theorem State.setTrPort_mem (x : TrPort) : (s.setTrPort k x).mem = s.mem := rfl
@[simp] theorem State.setTrPort_poison (x : TrPort) : (s.setTrPort k x).poison = s.poison := rfl
@[simp] theorem State.setTrPort_bays (x : TrPort) : (s.setTrPort k x).bays = s.bays := rfl
@[simp] theorem State.setTrPort_hbmRows (x : TrPort) : (s.setTrPort k x).hbmRows = s.hbmRows := rfl
@[simp] theorem State.setTrPort_hbmSoft (x : TrPort) : (s.setTrPort k x).hbmSoft = s.hbmSoft := rfl
@[simp] theorem State.setTrPort_hbmHard (x : TrPort) : (s.setTrPort k x).hbmHard = s.hbmHard := rfl
@[simp] theorem State.setTrPort_refresh (x : TrPort) : (s.setTrPort k x).refresh = s.refresh := rfl
@[simp] theorem State.setTrPort_scrubPos (x : TrPort) : (s.setTrPort k x).scrubPos = s.scrubPos := rfl
@[simp] theorem State.setTrPort_arbiters (x : TrPort) : (s.setTrPort k x).arbiters = s.arbiters := rfl
@[simp] theorem State.setTrPort_buckets (x : TrPort) : (s.setTrPort k x).buckets = s.buckets := rfl
@[simp] theorem State.setTrPort_bridges (x : TrPort) : (s.setTrPort k x).bridges = s.bridges := rfl
@[simp] theorem State.setTrPort_link (x : TrPort) : (s.setTrPort k x).link = s.link := rfl
@[simp] theorem State.setTrPort_msix (x : TrPort) : (s.setTrPort k x).msix = s.msix := rfl
@[simp] theorem State.setTrPort_pba (x : TrPort) : (s.setTrPort k x).pba = s.pba := rfl
@[simp] theorem State.setTrPort_msixReq (x : TrPort) : (s.setTrPort k x).msixReq = s.msixReq := rfl
@[simp] theorem State.setTrPort_rings (x : TrPort) : (s.setTrPort k x).rings = s.rings := rfl
@[simp] theorem State.setTrPort_engines (x : TrPort) : (s.setTrPort k x).engines = s.engines := rfl
@[simp] theorem State.setTrPort_poll (x : TrPort) : (s.setTrPort k x).poll = s.poll := rfl
@[simp] theorem State.setTrPort_groupSeen (x : TrPort) : (s.setTrPort k x).groupSeen = s.groupSeen := rfl
@[simp] theorem State.setTrPort_marks (x : TrPort) : (s.setTrPort k x).marks = s.marks := rfl
@[simp] theorem State.setTrPort_jobs (x : TrPort) : (s.setTrPort k x).jobs = s.jobs := rfl
@[simp] theorem State.setTrPort_objLate (x : TrPort) : (s.setTrPort k x).objLate = s.objLate := rfl
@[simp] theorem State.setTrPort_ports (x : TrPort) : (s.setTrPort k x).ports = s.ports := rfl
@[simp] theorem State.setTrPort_ingests (x : TrPort) : (s.setTrPort k x).ingests = s.ingests := rfl
@[simp] theorem State.setTrPort_egresses (x : TrPort) : (s.setTrPort k x).egresses = s.egresses := rfl
@[simp] theorem State.setTrPort_rows (x : TrPort) : (s.setTrPort k x).rows = s.rows := rfl
@[simp] theorem State.setTrPort_slotErrs (x : TrPort) : (s.setTrPort k x).slotErrs = s.slotErrs := rfl
@[simp] theorem State.setTrPort_retired (x : TrPort) : (s.setTrPort k x).retired = s.retired := rfl
@[simp] theorem State.setTrPort_reports (x : TrPort) : (s.setTrPort k x).reports = s.reports := rfl
@[simp] theorem State.setTrPort_otp (x : TrPort) : (s.setTrPort k x).otp = s.otp := rfl
@[simp] theorem State.setTrPort_sec (x : TrPort) : (s.setTrPort k x).sec = s.sec := rfl
@[simp] theorem State.setTrPort_power (x : TrPort) : (s.setTrPort k x).power = s.power := rfl
@[simp] theorem State.setTrPort_tap (x : TrPort) : (s.setTrPort k x).tap = s.tap := rfl
@[simp] theorem State.setTrPort_traced (x : TrPort) : (s.setTrPort k x).traced = s.traced := rfl
@[simp] theorem State.setTrPort_evtClr (x : TrPort) : (s.setTrPort k x).evtClr = s.evtClr := rfl
@[simp] theorem State.setTrPort_traceCnt (x : TrPort) : (s.setTrPort k x).traceCnt = s.traceCnt := rfl
@[simp] theorem State.setTrPort_pending (x : TrPort) : (s.setTrPort k x).pending = s.pending := rfl
theorem State.trPort_read (x : TrPort) (j : Nat) : (s.setTrPort k x).trPort j = if j = k then x else s.trPort j := tget_tset _ _ _ _ _
@[simp] theorem State.trPort_self (x : TrPort) : (s.setTrPort k x).trPort k = x := tget_tset_self _ _ _ _
@[simp] theorem State.setTrPort_setTrPort (x y : TrPort) : (s.setTrPort k x).setTrPort k y = s.setTrPort k y := by unfold State.setTrPort; simp
@[simp] theorem State.setTrPort_die (x : TrPort) (j : Nat) : (s.setTrPort k x).die j = s.die j := rfl
@[simp] theorem State.setTrPort_axis (x : TrPort) (j : Nat) : (s.setTrPort k x).axis j = s.axis j := rfl
@[simp] theorem State.setTrPort_alarm (x : TrPort) (j : Nat) : (s.setTrPort k x).alarm j = s.alarm j := rfl
@[simp] theorem State.setTrPort_timer (x : TrPort) (j : Nat) : (s.setTrPort k x).timer j = s.timer j := rfl
@[simp] theorem State.setTrPort_core (x : TrPort) (j : Nat) : (s.setTrPort k x).core j = s.core j := rfl
@[simp] theorem State.setTrPort_job (x : TrPort) (j : Nat) : (s.setTrPort k x).job j = s.job j := rfl
@[simp] theorem State.setTrPort_ring (x : TrPort) (j : Nat) : (s.setTrPort k x).ring j = s.ring j := rfl
@[simp] theorem State.setTrPort_engine (x : TrPort) (j : Nat) : (s.setTrPort k x).engine j = s.engine j := rfl
@[simp] theorem State.setTrPort_port (x : TrPort) (j : Nat) : (s.setTrPort k x).port j = s.port j := rfl
@[simp] theorem State.setTrPort_row (x : TrPort) (j : Nat) : (s.setTrPort k x).row j = s.row j := rfl
@[simp] theorem State.setTrPort_bay (x : TrPort) (j : Nat) : (s.setTrPort k x).bay j = s.bay j := rfl
@[simp] theorem State.setTrPort_entry (x : TrPort) (j : Nat) : (s.setTrPort k x).entry j = s.entry j := rfl
@[simp] theorem State.setTrPort_arbiter (x : TrPort) (j : Nat) : (s.setTrPort k x).arbiter j = s.arbiter j := rfl
@[simp] theorem State.setTrPort_bridge (x : TrPort) (j : Nat) : (s.setTrPort k x).bridge j = s.bridge j := rfl
@[simp] theorem State.setTrPort_egress (x : TrPort) (j : Nat) : (s.setTrPort k x).egress j = s.egress j := rfl
@[simp] theorem State.setTrPort_regGet (x : TrPort) (r : RegName) (i : Nat) : regGet (s.setTrPort k x) r i = regGet s r i := rfl

@[simp] theorem State.setEgress_regs (x : Egress) : (s.setEgress k x).regs = s.regs := rfl
@[simp] theorem State.setEgress_stage (x : Egress) : (s.setEgress k x).stage = s.stage := rfl
@[simp] theorem State.setEgress_snap (x : Egress) : (s.setEgress k x).snap = s.snap := rfl
@[simp] theorem State.setEgress_readData (x : Egress) : (s.setEgress k x).readData = s.readData := rfl
@[simp] theorem State.setEgress_resp (x : Egress) : (s.setEgress k x).resp = s.resp := rfl
@[simp] theorem State.setEgress_readBytes (x : Egress) : (s.setEgress k x).readBytes = s.readBytes := rfl
@[simp] theorem State.setEgress_tick (x : Egress) : (s.setEgress k x).tick = s.tick := rfl
@[simp] theorem State.setEgress_cclk (x : Egress) : (s.setEgress k x).cclk = s.cclk := rfl
@[simp] theorem State.setEgress_dies (x : Egress) : (s.setEgress k x).dies = s.dies := rfl
@[simp] theorem State.setEgress_axes (x : Egress) : (s.setEgress k x).axes = s.axes := rfl
@[simp] theorem State.setEgress_bus (x : Egress) : (s.setEgress k x).bus = s.bus := rfl
@[simp] theorem State.setEgress_busLine (x : Egress) : (s.setEgress k x).busLine = s.busLine := rfl
@[simp] theorem State.setEgress_pinHist (x : Egress) : (s.setEgress k x).pinHist = s.pinHist := rfl
@[simp] theorem State.setEgress_lvOpen (x : Egress) : (s.setEgress k x).lvOpen = s.lvOpen := rfl
@[simp] theorem State.setEgress_openHist (x : Egress) : (s.setEgress k x).openHist = s.openHist := rfl
@[simp] theorem State.setEgress_latch (x : Egress) : (s.setEgress k x).latch = s.latch := rfl
@[simp] theorem State.setEgress_pulses (x : Egress) : (s.setEgress k x).pulses = s.pulses := rfl
@[simp] theorem State.setEgress_alarms (x : Egress) : (s.setEgress k x).alarms = s.alarms := rfl
@[simp] theorem State.setEgress_actions (x : Egress) : (s.setEgress k x).actions = s.actions := rfl
@[simp] theorem State.setEgress_stampAns (x : Egress) : (s.setEgress k x).stampAns = s.stampAns := rfl
@[simp] theorem State.setEgress_timers (x : Egress) : (s.setEgress k x).timers = s.timers := rfl
@[simp] theorem State.setEgress_ocLine (x : Egress) : (s.setEgress k x).ocLine = s.ocLine := rfl
@[simp] theorem State.setEgress_cores (x : Egress) : (s.setEgress k x).cores = s.cores := rfl
@[simp] theorem State.setEgress_events (x : Egress) : (s.setEgress k x).events = s.events := rfl
@[simp] theorem State.setEgress_raises (x : Egress) : (s.setEgress k x).raises = s.raises := rfl
@[simp] theorem State.setEgress_ustore (x : Egress) : (s.setEgress k x).ustore = s.ustore := rfl
@[simp] theorem State.setEgress_mcImage (x : Egress) : (s.setEgress k x).mcImage = s.mcImage := rfl
@[simp] theorem State.setEgress_patches (x : Egress) : (s.setEgress k x).patches = s.patches := rfl
@[simp] theorem State.setEgress_mem (x : Egress) : (s.setEgress k x).mem = s.mem := rfl
@[simp] theorem State.setEgress_poison (x : Egress) : (s.setEgress k x).poison = s.poison := rfl
@[simp] theorem State.setEgress_bays (x : Egress) : (s.setEgress k x).bays = s.bays := rfl
@[simp] theorem State.setEgress_hbmRows (x : Egress) : (s.setEgress k x).hbmRows = s.hbmRows := rfl
@[simp] theorem State.setEgress_hbmSoft (x : Egress) : (s.setEgress k x).hbmSoft = s.hbmSoft := rfl
@[simp] theorem State.setEgress_hbmHard (x : Egress) : (s.setEgress k x).hbmHard = s.hbmHard := rfl
@[simp] theorem State.setEgress_refresh (x : Egress) : (s.setEgress k x).refresh = s.refresh := rfl
@[simp] theorem State.setEgress_scrubPos (x : Egress) : (s.setEgress k x).scrubPos = s.scrubPos := rfl
@[simp] theorem State.setEgress_arbiters (x : Egress) : (s.setEgress k x).arbiters = s.arbiters := rfl
@[simp] theorem State.setEgress_trPorts (x : Egress) : (s.setEgress k x).trPorts = s.trPorts := rfl
@[simp] theorem State.setEgress_buckets (x : Egress) : (s.setEgress k x).buckets = s.buckets := rfl
@[simp] theorem State.setEgress_bridges (x : Egress) : (s.setEgress k x).bridges = s.bridges := rfl
@[simp] theorem State.setEgress_link (x : Egress) : (s.setEgress k x).link = s.link := rfl
@[simp] theorem State.setEgress_msix (x : Egress) : (s.setEgress k x).msix = s.msix := rfl
@[simp] theorem State.setEgress_pba (x : Egress) : (s.setEgress k x).pba = s.pba := rfl
@[simp] theorem State.setEgress_msixReq (x : Egress) : (s.setEgress k x).msixReq = s.msixReq := rfl
@[simp] theorem State.setEgress_rings (x : Egress) : (s.setEgress k x).rings = s.rings := rfl
@[simp] theorem State.setEgress_engines (x : Egress) : (s.setEgress k x).engines = s.engines := rfl
@[simp] theorem State.setEgress_poll (x : Egress) : (s.setEgress k x).poll = s.poll := rfl
@[simp] theorem State.setEgress_groupSeen (x : Egress) : (s.setEgress k x).groupSeen = s.groupSeen := rfl
@[simp] theorem State.setEgress_marks (x : Egress) : (s.setEgress k x).marks = s.marks := rfl
@[simp] theorem State.setEgress_jobs (x : Egress) : (s.setEgress k x).jobs = s.jobs := rfl
@[simp] theorem State.setEgress_objLate (x : Egress) : (s.setEgress k x).objLate = s.objLate := rfl
@[simp] theorem State.setEgress_ports (x : Egress) : (s.setEgress k x).ports = s.ports := rfl
@[simp] theorem State.setEgress_ingests (x : Egress) : (s.setEgress k x).ingests = s.ingests := rfl
@[simp] theorem State.setEgress_rows (x : Egress) : (s.setEgress k x).rows = s.rows := rfl
@[simp] theorem State.setEgress_slotErrs (x : Egress) : (s.setEgress k x).slotErrs = s.slotErrs := rfl
@[simp] theorem State.setEgress_retired (x : Egress) : (s.setEgress k x).retired = s.retired := rfl
@[simp] theorem State.setEgress_reports (x : Egress) : (s.setEgress k x).reports = s.reports := rfl
@[simp] theorem State.setEgress_otp (x : Egress) : (s.setEgress k x).otp = s.otp := rfl
@[simp] theorem State.setEgress_sec (x : Egress) : (s.setEgress k x).sec = s.sec := rfl
@[simp] theorem State.setEgress_power (x : Egress) : (s.setEgress k x).power = s.power := rfl
@[simp] theorem State.setEgress_tap (x : Egress) : (s.setEgress k x).tap = s.tap := rfl
@[simp] theorem State.setEgress_traced (x : Egress) : (s.setEgress k x).traced = s.traced := rfl
@[simp] theorem State.setEgress_evtClr (x : Egress) : (s.setEgress k x).evtClr = s.evtClr := rfl
@[simp] theorem State.setEgress_traceCnt (x : Egress) : (s.setEgress k x).traceCnt = s.traceCnt := rfl
@[simp] theorem State.setEgress_pending (x : Egress) : (s.setEgress k x).pending = s.pending := rfl
theorem State.egress_read (x : Egress) (j : Nat) : (s.setEgress k x).egress j = if j = k then x else s.egress j := tget_tset _ _ _ _ _
@[simp] theorem State.egress_self (x : Egress) : (s.setEgress k x).egress k = x := tget_tset_self _ _ _ _
@[simp] theorem State.setEgress_setEgress (x y : Egress) : (s.setEgress k x).setEgress k y = s.setEgress k y := by unfold State.setEgress; simp
@[simp] theorem State.setEgress_die (x : Egress) (j : Nat) : (s.setEgress k x).die j = s.die j := rfl
@[simp] theorem State.setEgress_axis (x : Egress) (j : Nat) : (s.setEgress k x).axis j = s.axis j := rfl
@[simp] theorem State.setEgress_alarm (x : Egress) (j : Nat) : (s.setEgress k x).alarm j = s.alarm j := rfl
@[simp] theorem State.setEgress_timer (x : Egress) (j : Nat) : (s.setEgress k x).timer j = s.timer j := rfl
@[simp] theorem State.setEgress_core (x : Egress) (j : Nat) : (s.setEgress k x).core j = s.core j := rfl
@[simp] theorem State.setEgress_job (x : Egress) (j : Nat) : (s.setEgress k x).job j = s.job j := rfl
@[simp] theorem State.setEgress_ring (x : Egress) (j : Nat) : (s.setEgress k x).ring j = s.ring j := rfl
@[simp] theorem State.setEgress_engine (x : Egress) (j : Nat) : (s.setEgress k x).engine j = s.engine j := rfl
@[simp] theorem State.setEgress_port (x : Egress) (j : Nat) : (s.setEgress k x).port j = s.port j := rfl
@[simp] theorem State.setEgress_row (x : Egress) (j : Nat) : (s.setEgress k x).row j = s.row j := rfl
@[simp] theorem State.setEgress_bay (x : Egress) (j : Nat) : (s.setEgress k x).bay j = s.bay j := rfl
@[simp] theorem State.setEgress_entry (x : Egress) (j : Nat) : (s.setEgress k x).entry j = s.entry j := rfl
@[simp] theorem State.setEgress_arbiter (x : Egress) (j : Nat) : (s.setEgress k x).arbiter j = s.arbiter j := rfl
@[simp] theorem State.setEgress_bridge (x : Egress) (j : Nat) : (s.setEgress k x).bridge j = s.bridge j := rfl
@[simp] theorem State.setEgress_trPort (x : Egress) (j : Nat) : (s.setEgress k x).trPort j = s.trPort j := rfl
@[simp] theorem State.setEgress_regGet (x : Egress) (r : RegName) (i : Nat) : regGet (s.setEgress k x) r i = regGet s r i := rfl

@[simp] theorem regPut_stage (r : RegName) (i : Nat) (v : W64) : (regPut s r i v).stage = s.stage := rfl
@[simp] theorem regPut_snap (r : RegName) (i : Nat) (v : W64) : (regPut s r i v).snap = s.snap := rfl
@[simp] theorem regPut_readData (r : RegName) (i : Nat) (v : W64) : (regPut s r i v).readData = s.readData := rfl
@[simp] theorem regPut_resp (r : RegName) (i : Nat) (v : W64) : (regPut s r i v).resp = s.resp := rfl
@[simp] theorem regPut_readBytes (r : RegName) (i : Nat) (v : W64) : (regPut s r i v).readBytes = s.readBytes := rfl
@[simp] theorem regPut_tick (r : RegName) (i : Nat) (v : W64) : (regPut s r i v).tick = s.tick := rfl
@[simp] theorem regPut_cclk (r : RegName) (i : Nat) (v : W64) : (regPut s r i v).cclk = s.cclk := rfl
@[simp] theorem regPut_dies (r : RegName) (i : Nat) (v : W64) : (regPut s r i v).dies = s.dies := rfl
@[simp] theorem regPut_axes (r : RegName) (i : Nat) (v : W64) : (regPut s r i v).axes = s.axes := rfl
@[simp] theorem regPut_bus (r : RegName) (i : Nat) (v : W64) : (regPut s r i v).bus = s.bus := rfl
@[simp] theorem regPut_busLine (r : RegName) (i : Nat) (v : W64) : (regPut s r i v).busLine = s.busLine := rfl
@[simp] theorem regPut_pinHist (r : RegName) (i : Nat) (v : W64) : (regPut s r i v).pinHist = s.pinHist := rfl
@[simp] theorem regPut_lvOpen (r : RegName) (i : Nat) (v : W64) : (regPut s r i v).lvOpen = s.lvOpen := rfl
@[simp] theorem regPut_openHist (r : RegName) (i : Nat) (v : W64) : (regPut s r i v).openHist = s.openHist := rfl
@[simp] theorem regPut_latch (r : RegName) (i : Nat) (v : W64) : (regPut s r i v).latch = s.latch := rfl
@[simp] theorem regPut_pulses (r : RegName) (i : Nat) (v : W64) : (regPut s r i v).pulses = s.pulses := rfl
@[simp] theorem regPut_alarms (r : RegName) (i : Nat) (v : W64) : (regPut s r i v).alarms = s.alarms := rfl
@[simp] theorem regPut_actions (r : RegName) (i : Nat) (v : W64) : (regPut s r i v).actions = s.actions := rfl
@[simp] theorem regPut_stampAns (r : RegName) (i : Nat) (v : W64) : (regPut s r i v).stampAns = s.stampAns := rfl
@[simp] theorem regPut_timers (r : RegName) (i : Nat) (v : W64) : (regPut s r i v).timers = s.timers := rfl
@[simp] theorem regPut_ocLine (r : RegName) (i : Nat) (v : W64) : (regPut s r i v).ocLine = s.ocLine := rfl
@[simp] theorem regPut_cores (r : RegName) (i : Nat) (v : W64) : (regPut s r i v).cores = s.cores := rfl
@[simp] theorem regPut_events (r : RegName) (i : Nat) (v : W64) : (regPut s r i v).events = s.events := rfl
@[simp] theorem regPut_raises (r : RegName) (i : Nat) (v : W64) : (regPut s r i v).raises = s.raises := rfl
@[simp] theorem regPut_ustore (r : RegName) (i : Nat) (v : W64) : (regPut s r i v).ustore = s.ustore := rfl
@[simp] theorem regPut_mcImage (r : RegName) (i : Nat) (v : W64) : (regPut s r i v).mcImage = s.mcImage := rfl
@[simp] theorem regPut_patches (r : RegName) (i : Nat) (v : W64) : (regPut s r i v).patches = s.patches := rfl
@[simp] theorem regPut_mem (r : RegName) (i : Nat) (v : W64) : (regPut s r i v).mem = s.mem := rfl
@[simp] theorem regPut_poison (r : RegName) (i : Nat) (v : W64) : (regPut s r i v).poison = s.poison := rfl
@[simp] theorem regPut_bays (r : RegName) (i : Nat) (v : W64) : (regPut s r i v).bays = s.bays := rfl
@[simp] theorem regPut_hbmRows (r : RegName) (i : Nat) (v : W64) : (regPut s r i v).hbmRows = s.hbmRows := rfl
@[simp] theorem regPut_hbmSoft (r : RegName) (i : Nat) (v : W64) : (regPut s r i v).hbmSoft = s.hbmSoft := rfl
@[simp] theorem regPut_hbmHard (r : RegName) (i : Nat) (v : W64) : (regPut s r i v).hbmHard = s.hbmHard := rfl
@[simp] theorem regPut_refresh (r : RegName) (i : Nat) (v : W64) : (regPut s r i v).refresh = s.refresh := rfl
@[simp] theorem regPut_scrubPos (r : RegName) (i : Nat) (v : W64) : (regPut s r i v).scrubPos = s.scrubPos := rfl
@[simp] theorem regPut_arbiters (r : RegName) (i : Nat) (v : W64) : (regPut s r i v).arbiters = s.arbiters := rfl
@[simp] theorem regPut_trPorts (r : RegName) (i : Nat) (v : W64) : (regPut s r i v).trPorts = s.trPorts := rfl
@[simp] theorem regPut_buckets (r : RegName) (i : Nat) (v : W64) : (regPut s r i v).buckets = s.buckets := rfl
@[simp] theorem regPut_bridges (r : RegName) (i : Nat) (v : W64) : (regPut s r i v).bridges = s.bridges := rfl
@[simp] theorem regPut_link (r : RegName) (i : Nat) (v : W64) : (regPut s r i v).link = s.link := rfl
@[simp] theorem regPut_msix (r : RegName) (i : Nat) (v : W64) : (regPut s r i v).msix = s.msix := rfl
@[simp] theorem regPut_pba (r : RegName) (i : Nat) (v : W64) : (regPut s r i v).pba = s.pba := rfl
@[simp] theorem regPut_msixReq (r : RegName) (i : Nat) (v : W64) : (regPut s r i v).msixReq = s.msixReq := rfl
@[simp] theorem regPut_rings (r : RegName) (i : Nat) (v : W64) : (regPut s r i v).rings = s.rings := rfl
@[simp] theorem regPut_engines (r : RegName) (i : Nat) (v : W64) : (regPut s r i v).engines = s.engines := rfl
@[simp] theorem regPut_poll (r : RegName) (i : Nat) (v : W64) : (regPut s r i v).poll = s.poll := rfl
@[simp] theorem regPut_groupSeen (r : RegName) (i : Nat) (v : W64) : (regPut s r i v).groupSeen = s.groupSeen := rfl
@[simp] theorem regPut_marks (r : RegName) (i : Nat) (v : W64) : (regPut s r i v).marks = s.marks := rfl
@[simp] theorem regPut_jobs (r : RegName) (i : Nat) (v : W64) : (regPut s r i v).jobs = s.jobs := rfl
@[simp] theorem regPut_objLate (r : RegName) (i : Nat) (v : W64) : (regPut s r i v).objLate = s.objLate := rfl
@[simp] theorem regPut_ports (r : RegName) (i : Nat) (v : W64) : (regPut s r i v).ports = s.ports := rfl
@[simp] theorem regPut_ingests (r : RegName) (i : Nat) (v : W64) : (regPut s r i v).ingests = s.ingests := rfl
@[simp] theorem regPut_egresses (r : RegName) (i : Nat) (v : W64) : (regPut s r i v).egresses = s.egresses := rfl
@[simp] theorem regPut_rows (r : RegName) (i : Nat) (v : W64) : (regPut s r i v).rows = s.rows := rfl
@[simp] theorem regPut_slotErrs (r : RegName) (i : Nat) (v : W64) : (regPut s r i v).slotErrs = s.slotErrs := rfl
@[simp] theorem regPut_retired (r : RegName) (i : Nat) (v : W64) : (regPut s r i v).retired = s.retired := rfl
@[simp] theorem regPut_reports (r : RegName) (i : Nat) (v : W64) : (regPut s r i v).reports = s.reports := rfl
@[simp] theorem regPut_otp (r : RegName) (i : Nat) (v : W64) : (regPut s r i v).otp = s.otp := rfl
@[simp] theorem regPut_sec (r : RegName) (i : Nat) (v : W64) : (regPut s r i v).sec = s.sec := rfl
@[simp] theorem regPut_power (r : RegName) (i : Nat) (v : W64) : (regPut s r i v).power = s.power := rfl
@[simp] theorem regPut_tap (r : RegName) (i : Nat) (v : W64) : (regPut s r i v).tap = s.tap := rfl
@[simp] theorem regPut_traced (r : RegName) (i : Nat) (v : W64) : (regPut s r i v).traced = s.traced := rfl
@[simp] theorem regPut_evtClr (r : RegName) (i : Nat) (v : W64) : (regPut s r i v).evtClr = s.evtClr := rfl
@[simp] theorem regPut_traceCnt (r : RegName) (i : Nat) (v : W64) : (regPut s r i v).traceCnt = s.traceCnt := rfl
@[simp] theorem regPut_pending (r : RegName) (i : Nat) (v : W64) : (regPut s r i v).pending = s.pending := rfl
@[simp] theorem regPut_die_of (r : RegName) (i : Nat) (v : W64) (j : Nat) : (regPut s r i v).die j = s.die j := rfl
@[simp] theorem regPut_axis_of (r : RegName) (i : Nat) (v : W64) (j : Nat) : (regPut s r i v).axis j = s.axis j := rfl
@[simp] theorem regPut_alarm_of (r : RegName) (i : Nat) (v : W64) (j : Nat) : (regPut s r i v).alarm j = s.alarm j := rfl
@[simp] theorem regPut_timer_of (r : RegName) (i : Nat) (v : W64) (j : Nat) : (regPut s r i v).timer j = s.timer j := rfl
@[simp] theorem regPut_core_of (r : RegName) (i : Nat) (v : W64) (j : Nat) : (regPut s r i v).core j = s.core j := rfl
@[simp] theorem regPut_job_of (r : RegName) (i : Nat) (v : W64) (j : Nat) : (regPut s r i v).job j = s.job j := rfl
@[simp] theorem regPut_ring_of (r : RegName) (i : Nat) (v : W64) (j : Nat) : (regPut s r i v).ring j = s.ring j := rfl
@[simp] theorem regPut_engine_of (r : RegName) (i : Nat) (v : W64) (j : Nat) : (regPut s r i v).engine j = s.engine j := rfl
@[simp] theorem regPut_port_of (r : RegName) (i : Nat) (v : W64) (j : Nat) : (regPut s r i v).port j = s.port j := rfl
@[simp] theorem regPut_row_of (r : RegName) (i : Nat) (v : W64) (j : Nat) : (regPut s r i v).row j = s.row j := rfl
@[simp] theorem regPut_bay_of (r : RegName) (i : Nat) (v : W64) (j : Nat) : (regPut s r i v).bay j = s.bay j := rfl
@[simp] theorem regPut_entry_of (r : RegName) (i : Nat) (v : W64) (j : Nat) : (regPut s r i v).entry j = s.entry j := rfl
@[simp] theorem regPut_arbiter_of (r : RegName) (i : Nat) (v : W64) (j : Nat) : (regPut s r i v).arbiter j = s.arbiter j := rfl
@[simp] theorem regPut_bridge_of (r : RegName) (i : Nat) (v : W64) (j : Nat) : (regPut s r i v).bridge j = s.bridge j := rfl
@[simp] theorem regPut_trPort_of (r : RegName) (i : Nat) (v : W64) (j : Nat) : (regPut s r i v).trPort j = s.trPort j := rfl
@[simp] theorem regPut_egress_of (r : RegName) (i : Nat) (v : W64) (j : Nat) : (regPut s r i v).egress j = s.egress j := rfl
@[simp] theorem regGet_regPut_self (r : RegName) (i : Nat) (v : W64) : regGet (regPut s r i v) r i = v :=
  tget_tset_self _ _ _ _
/-- A register at another offset keeps its value. -/
theorem regGet_regPut_ne (r q : RegName) (i j : Nat) (v : W64) (h : regOff q j ≠ regOff r i) :
    regGet (regPut s r i v) q j = regGet s q j := by
  have h1 : (t : Table W64) → (e : W64) → (k m : Nat) → m ≠ k → tget e (tins t k v) m = tget e t m := by
    intro t e k m hm
    induction t with
    | nil => simp [tins, tget, Ne.symm hm]
    | cons x l ih =>
      obtain ⟨a, w⟩ := x
      by_cases hk : k < a
      · simp [tins, hk, tget, Ne.symm hm]
      · simp only [tins, hk, if_false, tget, ih]
  have h2 : (t : Table W64) → (d e : W64) → (k m : Nat) → m ≠ k → tget e (tset d t k v) m = tget e t m := by
    intro t d e k m hm
    unfold tset
    split
    · rw [tget_tdel]; simp [hm]
    · rw [h1 _ _ _ _ hm, tget_tdel]; simp [hm]
  exact h2 _ _ _ _ _ h
@[simp] theorem regPut_regPut (r : RegName) (i : Nat) (v w : W64) : regPut (regPut s r i v) r i w = regPut s r i w := by
  unfold regPut; simp
end

end Sys2Proof.Machine
end

