-- ==== Sys2Proof/Laws/Ops.lean ====
section
/-! SUPPORT. What the shared operations over registers, counters, logs, the trace and memory can do: an induction over
`foldS`, the registers each writes, and that reads and errors leave memory and the queue alone while every write keeps
the canonical form of memory. -/
namespace Sys2Proof.Machine

/-- Two states with one memory and one queue: what counting, logging, marking and tracing keep. -/
def SameStore (s t : State) : Prop := t.mem = s.mem ∧ t.pending = s.pending ∧ t.otp = s.otp

theorem SameStore.rfl' (s : State) : SameStore s s := ⟨rfl, rfl, rfl⟩
theorem SameStore.trans {s t u : State} (h : SameStore s t) (g : SameStore t u) : SameStore s u :=
  ⟨g.1.trans h.1, g.2.1.trans h.2.1, g.2.2.trans h.2.2⟩

/-- A property that every change of a fold keeps, the fold keeps. -/
theorem foldS_induct (P : State → Prop) (f : Nat → State → State) (hf : ∀ n s, P s → P (f n s)) :
    (l : List Nat) → (s : State) → P s → P (foldS l f s)
  | [], _, h => h
  | n :: r, s, h => foldS_induct P f hf r (f n s) (hf n s h)

theorem foldS_sameStore (l : List Nat) (f : Nat → State → State) (hf : ∀ n s, SameStore s (f n s)) (s : State) :
    SameStore s (foldS l f s) :=
  foldS_induct (SameStore s) f (fun n t h => h.trans (hf n t)) l s (.rfl' s)

/-! Registers. -/

theorem regPut_sameStore (s : State) (r : RegName) (i : Nat) (v : W64) : SameStore s (regPut s r i v) := .rfl' _
theorem regSetBits_sameStore (s : State) (r : RegName) (i : Nat) (m : W64) : SameStore s (regSetBits s r i m) := .rfl' _
theorem regClrBits_sameStore (s : State) (r : RegName) (i : Nat) (m : W64) : SameStore s (regClrBits s r i m) := .rfl' _
theorem regCount_sameStore (s : State) (r : RegName) (i n : Nat) : SameStore s (regCount s r i n) := .rfl' _

/-- A status register after a hardware event: the old bits and the new ones. -/
@[simp] theorem regGet_regSetBits (s : State) (r : RegName) (i : Nat) (m : W64) :
    regGet (regSetBits s r i m) r i = regGet s r i ||| m := by
  unfold regSetBits; simp
@[simp] theorem regGet_regClrBits (s : State) (r : RegName) (i : Nat) (m : W64) :
    regGet (regClrBits s r i m) r i = regGet s r i &&& ~~~ m := by
  unfold regClrBits; simp
@[simp] theorem regGet_regCount (s : State) (r : RegName) (i n : Nat) :
    regGet (regCount s r i n) r i = w64 (min ((regGet s r i).toNat + n) m32) := by
  unfold regCount; simp
theorem regGet_regSetBits_ne (s : State) (r q : RegName) (i j : Nat) (m : W64) (h : regOff q j ≠ regOff r i) :
    regGet (regSetBits s r i m) q j = regGet s q j := by
  unfold regSetBits; rw [regGet_regPut_ne _ _ _ _ _ _ h]; rfl
/-- A counter that has reached its limit stays there. -/
theorem regCount_saturates (s : State) (r : RegName) (i n : Nat) (h : (regGet s r i).toNat = m32) :
    regGet (regCount s r i n) r i = w64 m32 := by
  rw [regGet_regCount, h, Nat.min_eq_right (Nat.le_add_right _ _)]

theorem tracePut_sameStore (l : List (W64 × W64)) (s : State) (e : Nat) : SameStore s (tracePut s e l) := by
  induction l generalizing s e with
  | nil => exact .rfl' s
  | cons x l ih =>
    unfold tracePut
    exact ((regPut_sameStore ..).trans (regPut_sameStore ..)).trans (ih ..)

/-- The event trace writes registers and its own record of the TCLK only. -/
theorem trace_sameStore (s : State) (c k u : Nat) (info : W32) : SameStore s (trace s c k u info) := by
  unfold trace
  extract_lets ctl l new next s1 s2 ctl'
  split
  · exact .rfl' s
  have h1 : SameStore s s1 := (SameStore.rfl' s).trans (tracePut_sameStore new { s with traced := (tclkNow s, new) } _)
  have h2 : SameStore s1 s2 := regPut_sameStore ..
  clear_value s2 s1 ctl'
  split
  · exact h1.trans (regCount_sameStore ..)
  · exact (h1.trans h2).trans ((SameStore.rfl' s2).trans (regPut_sameStore { s2 with traceCnt := s2.traceCnt + 1 } _ _ _))

/-! Counters, logs and errors. -/

theorem countHi_sameStore (s : State) (r : RegName) (i n : Nat) (e : RegName) (b : Nat) : SameStore s (countHi s r i n e b) := by
  unfold countHi
  dsimp only
  split <;> exact .rfl' _
theorem logFirst_sameStore (s : State) (r : RegName) (i : Nat) (v : W64) : SameStore s (logFirst s r i v) := by
  unfold logFirst
  split <;> exact .rfl' _
/-- A log that holds an entry keeps it (R351). -/
theorem logFirst_keeps (s : State) (r : RegName) (i : Nat) (v : W64) (h : bit (regGet s r i) 63 = true) :
    logFirst s r i v = s := by
  unfold logFirst; simp [h]
theorem decodeError_sameStore (s : State) (ag : Agent) (a : Nat) (wr np rom : Bool) :
    SameStore s (decodeError s ag a wr np rom) := by
  unfold decodeError
  exact ((regCount_sameStore ..).trans (logFirst_sameStore ..)).trans (regSetBits_sameStore ..)
theorem ownershipError_sameStore (s : State) (ag : Agent) (a : Nat) (wr : Bool) : SameStore s (ownershipError s ag a wr) := by
  unfold ownershipError
  exact ((regCount_sameStore ..).trans (logFirst_sameStore ..)).trans (regSetBits_sameStore ..)
theorem setPoison_sameStore (s : State) (w : Nat) (v : Bool) : SameStore s (setPoison s w v) := .rfl' _
theorem violation_sameStore (s : State) : SameStore s (violation s) := .rfl' _
theorem cellarCe_sameStore (s : State) (a : Nat) : SameStore s (cellarCe s a) := countHi_sameStore ..
theorem cellarUe_sameStore (s : State) (a : Nat) (src : Option Nat) : SameStore s (cellarUe s a src) := by
  cases src with
  | none => exact .rfl' _
  | some c => exact (SameStore.rfl' _).trans (logFirst_sameStore (regSetBits (regCount s .celUecnt (sliceOf a) 1) .celEvt 0 _) ..)
theorem hbmCe_sameStore (s : State) (a : Nat) : SameStore s (hbmCe s a) :=
  (countHi_sameStore s .hbmCecnt (hbmStack s a) 1 .hbmEvt (4 + hbmStack s a)).trans (.rfl' _)
theorem hbmUe_sameStore (s : State) (a : Nat) (src : Option Nat) : SameStore s (hbmUe s a src) := by
  cases src with
  | none => exact .rfl' _
  | some c => exact (SameStore.rfl' _).trans (logFirst_sameStore (regSetBits (regCount s .hbmUecnt (hbmStack s a) 1) .hbmEvt 0 _) ..)

/-! Reads change no byte. -/

/-- The check code's work on a read: marks, counts and logs. -/
theorem cellarCheck_sameStore (s : State) (ws : List Nat) (src : Option Nat) (chk : Check) :
    SameStore s (cellarCheck s ws src chk) := by
  unfold cellarCheck
  exact ((foldS_sameStore _ _ (fun w t => setPoison_sameStore t w true) s).trans
    (foldS_sameStore _ _ (fun w t => cellarCe_sameStore t _) _)).trans
    (foldS_sameStore _ _ (fun w t => cellarUe_sameStore t _ _) _)
theorem hbmCheck_sameStore (s : State) (ag : Agent) (a : Nat) (chk : Check) : SameStore s (hbmCheck s ag a chk) := by
  unfold hbmCheck
  have h1 : SameStore s (if chk.ue.contains (a / 64 * 8) then setPoison s (a / 64 * 8) true else s) := by split <;> exact .rfl' _
  dsimp only
  generalize (if chk.ue.contains (a / 64 * 8) then setPoison s (a / 64 * 8) true else s) = s1 at h1 ⊢
  split
  · exact h1.trans (hbmUe_sameStore ..)
  · split
    · exact h1.trans (hbmCe_sameStore ..)
    · exact h1

theorem cellarRead_sameStore (s : State) (ag : Agent) (a n : Nat) (chk : Check) :
    SameStore s (cellarRead s ag a n chk).1 := by
  unfold cellarRead
  split
  · dsimp only
    split <;> exact cellarCheck_sameStore ..
  · exact ownershipError_sameStore ..
theorem hbmRead_sameStore (s : State) (ag : Agent) (a n : Nat) (chk : Check) :
    SameStore s (hbmRead s ag a n chk).1 := by
  unfold hbmRead
  dsimp only
  split <;> exact hbmCheck_sameStore ..

theorem checkedRead_sameStore (s : State) (a n : Nat) (chk : Check) : SameStore s (checkedRead s a n chk).1 := by
  unfold checkedRead
  dsimp only
  split
  · exact .rfl' _
  · split
    · exact foldS_sameStore _ _ (fun u t => setPoison_sameStore t u true) s
    · exact .rfl' _

/-- A read of any target leaves memory and the queue as they are. -/
theorem memRead_sameStore (s : State) (ag : Agent) (a n : Nat) (chk : Check) : SameStore s (memRead s ag a n chk).1 := by
  unfold memRead
  dsimp only
  split
  · exact decodeError_sameStore ..
  · split
    · split
      · exact decodeError_sameStore ..
      · exact cellarRead_sameStore ..
    · exact hbmRead_sameStore ..
    · exact checkedRead_sameStore ..
    · split
      · exact .rfl' _
      · split
        · exact violation_sameStore s
        · split
          · exact .rfl' _
          · exact checkedRead_sameStore ..
    · exact .rfl' _
    · exact .rfl' _
    · exact decodeError_sameStore ..

theorem spanRead_sameStore (ag : Agent) (chk : Check) : (fuel : Nat) → (s : State) → (a n : Nat) →
    (acc : List Byte) → (e : Option (Nat × Resp)) → SameStore s (spanRead ag chk fuel s a n acc e).1
  | 0, s, _, _, _, _ => .rfl' s
  | fuel + 1, s, a, n, acc, e => by
    unfold spanRead
    split
    · exact .rfl' s
    · exact (memRead_sameStore s ag a _ _).trans (spanRead_sameStore ag chk fuel _ _ _ _ _)
theorem readSpan_sameStore (s : State) (ag : Agent) (a n : Nat) (chk : Check) :
    SameStore s (readSpan s ag a n chk).1 := spanRead_sameStore ..

/-! Writes: the bytes of the write or none, and nothing of the queue. -/

/-- A transaction stores its bytes at its address or stores nothing. -/
def Stores (s t : State) (a : Nat) (bs : List Byte) : Prop :=
  (t.mem = s.mem ∨ t.mem = bytesPut s.mem a bs) ∧ t.pending = s.pending ∧ t.otp = s.otp

theorem SameStore.stores {s t : State} (h : SameStore s t) (a : Nat) (bs : List Byte) : Stores s t a bs :=
  ⟨.inl h.1, h.2.1, h.2.2⟩
theorem storeBytes_stores (s : State) (u a : Nat) (bs : List Byte) :
    (storeBytes s u a bs).mem = bytesPut s.mem a bs ∧ (storeBytes s u a bs).pending = s.pending ∧
    (storeBytes s u a bs).otp = s.otp := by
  have h := foldS_sameStore ((unitsWhole u a bs.length).map (fun k => k * u / 8)) (fun w s => setPoison s w false)
    (fun w t => setPoison_sameStore t w false) s
  unfold storeBytes
  exact ⟨congrArg (bytesPut · a bs) h.1, h.2.1, h.2.2⟩
theorem Stores.of_store {s t : State} (h : SameStore s t) (u a : Nat) (bs : List Byte) : Stores s (storeBytes t u a bs) a bs := by
  obtain ⟨h1, h2, h3⟩ := storeBytes_stores t u a bs
  exact ⟨.inr (by rw [h1, h.1]), h2.trans h.2.1, h3.trans h.2.2⟩

theorem cellarWrite_stores (s : State) (ag : Agent) (a : Nat) (bs : List Byte) (chk : Check) :
    Stores s (cellarWrite s ag a bs chk).1 a bs := by
  unfold cellarWrite
  split
  · exact Stores.of_store (cellarCheck_sameStore ..) 8 a bs
  · exact (ownershipError_sameStore ..).stores a bs
theorem hbmWrite_stores (s : State) (ag : Agent) (a : Nat) (bs : List Byte) (chk : Check) :
    Stores s (hbmWrite s ag a bs chk).1 a bs := by
  unfold hbmWrite
  refine Stores.of_store ?_ 64 a bs
  split
  · exact .rfl' s
  · exact hbmCheck_sameStore ..

/-- A write to any target. -/
theorem memWrite_stores (s : State) (ag : Agent) (a : Nat) (bs : List Byte) (chk : Check) :
    Stores s (memWrite s ag a bs chk).1 a bs := by
  unfold memWrite
  dsimp only
  split
  · exact (decodeError_sameStore ..).stores a bs
  · split
    · split
      · exact (decodeError_sameStore ..).stores a bs
      · exact cellarWrite_stores ..
    · exact hbmWrite_stores ..
    · split
      · exact (violation_sameStore s).stores a bs
      · split
        · exact (SameStore.rfl' s).stores a bs
        · exact ⟨.inr rfl, rfl, rfl⟩
    · split
      · exact (SameStore.rfl' s).stores a bs
      · split
        · exact (violation_sameStore s).stores a bs
        · split
          · exact (SameStore.rfl' s).stores a bs
          · exact ⟨.inr rfl, rfl, rfl⟩
    · exact (decodeError_sameStore ..).stores a bs
    · exact (SameStore.rfl' s).stores a bs
    · exact (decodeError_sameStore ..).stores a bs

/-- A byte outside the span of a write keeps its value. -/
theorem Stores.get_ne {s t : State} {a : Nat} {bs : List Byte} (h : Stores s t a bs) (b : Nat)
    (hb : b < a ∨ a + bs.length ≤ b) : cellGet t.mem b = cellGet s.mem b := by
  obtain ⟨h | h, _, _⟩ := h <;> rw [h]
  exact cellGet_bytesPut_ne bs s.mem a b hb
/-- A write keeps the canonical form of memory. -/
theorem Stores.wf {s t : State} {a : Nat} {bs : List Byte} (h : Stores s t a bs) (hs : Memory.wf s.mem = true) :
    Memory.wf t.mem = true := by
  obtain ⟨h | h, _, _⟩ := h <;> rw [h]
  · exact hs
  · exact bytesPut_wf bs s.mem a hs
theorem memWrite_wf (s : State) (ag : Agent) (a : Nat) (bs : List Byte) (chk : Check) (h : Memory.wf s.mem = true) :
    Memory.wf (memWrite s ag a bs chk).1.mem = true := (memWrite_stores s ag a bs chk).wf h

/-- A span write: the canonical form and the queue are kept, and a byte outside the span keeps its value. -/
theorem spanWrite_frame (ag : Agent) (chk : Check) : (fuel : Nat) → (s : State) → (a : Nat) → (bs : List Byte) → (e : Option (Nat × Resp)) →
    (Memory.wf s.mem = true → Memory.wf (spanWrite ag chk fuel s a bs e).1.mem = true) ∧
    (spanWrite ag chk fuel s a bs e).1.pending = s.pending ∧ (spanWrite ag chk fuel s a bs e).1.otp = s.otp ∧
    ∀ b, b < a ∨ a + bs.length ≤ b → cellGet (spanWrite ag chk fuel s a bs e).1.mem b = cellGet s.mem b
  | 0, s, _, _, _ => ⟨id, rfl, rfl, fun _ _ => rfl⟩
  | fuel + 1, s, a, bs, e => by
    unfold spanWrite
    split
    · exact ⟨id, rfl, rfl, fun _ _ => rfl⟩
    · have hw := memWrite_stores s ag a (bs.take (min bs.length (64 - a % 64))) chk
      obtain ⟨i1, i2, i3, i4⟩ := spanWrite_frame ag chk fuel (memWrite s ag a (bs.take (min bs.length (64 - a % 64))) chk).1
        (a + min bs.length (64 - a % 64)) (bs.drop (min bs.length (64 - a % 64)))
        (if (memWrite s ag a (bs.take (min bs.length (64 - a % 64))) chk).2 = .ok then e
         else e.orElse (fun _ => some (a, (memWrite s ag a (bs.take (min bs.length (64 - a % 64))) chk).2)))
      refine ⟨fun h => i1 (hw.wf h), i2.trans hw.2.1, i3.trans hw.2.2, fun b hb => ?_⟩
      rw [← hw.get_ne b (by simp only [List.length_take]; omega)]
      exact i4 b (by simp only [List.length_drop]; omega)
theorem writeSpan_wf (s : State) (ag : Agent) (a : Nat) (bs : List Byte) (chk : Check) (h : Memory.wf s.mem = true) :
    Memory.wf (writeSpan s ag a bs chk).1.mem = true := (spanWrite_frame ag chk _ s a bs none).1 h
theorem writeSpan_get_ne (s : State) (ag : Agent) (a : Nat) (bs : List Byte) (chk : Check) (b : Nat) (hb : b < a ∨ a + bs.length ≤ b) :
    cellGet (writeSpan s ag a bs chk).1.mem b = cellGet s.mem b := (spanWrite_frame ag chk _ s a bs none).2.2.2 b hb

/-- The loss of a bay's contents, bay power and training keep the canonical form. -/
theorem bayLose_wf (s : State) (b : Nat) (h : Memory.wf s.mem = true) : Memory.wf (bayLose s b).mem = true :=
  bytesClear_wf s.mem _ _ h
theorem bayPowerEnd_wf (s : State) (b : Nat) (h : Memory.wf s.mem = true) : Memory.wf (bayPowerEnd s b).mem = true := by
  unfold bayPowerEnd
  dsimp only
  split
  · exact h
  · split
    · exact bayLose_wf _ _ h
    · exact h

end Sys2Proof.Machine
end

