-- ==== Sys2Proof/WellFormed.lean ====
section
/-! DEFINITION. Which commands can come from outside: the operands that the spec bounds and their types do not. -/
namespace Sys2Proof

/-- n bytes from address a lie in one aligned 64-byte block (R335, R375). -/
def blockOk (a n : Nat) : Bool := decide (1 ≤ n) && decide (a % 64 + n ≤ 64)
/-- The range of HBM and of the boot ROM (Table 13.1). -/
def hbmAddrOk (a : Nat) : Bool := decide (0x001000000000 ≤ a) && decide (a < 0x002800000000)
def romAddrOk (a : Nat) : Bool := decide (0xFC000000 ≤ a) && decide (a < 0xFC010000)
/-- A TLP of 1 to 4,096 bytes inside a window of the given size (R395, R396): a write carries its bytes. -/
def tlpOk (size off len : Nat) (wr : Bool) (data : List (Option Byte)) : Bool :=
  decide (1 ≤ len) && decide (len ≤ 4096) && decide (off + len ≤ size) && (!wr || data.length == len)
/-- Rates 1 to 6 are 2.5 to 64 GT/s; a far end has at least one lane (R393, Table 15.1). -/
def farOk (rate width : Nat) : Bool := decide (1 ≤ rate) && decide (rate ≤ 6) && decide (1 ≤ width)
/-- An image in host memory, of a fixed size where the spec gives one. -/
def imageOk (size : Option Nat) (i : Option (List Byte)) : Bool :=
  match i, size with
  | some bs, some n => bs.length == n
  | some bs, none => !bs.isEmpty
  | none, _ => true

/-- A command whose operands are ones that it can come with. -/
def Instr.wellFormed : Instr → Bool
  | .registerWrite _ size _ => decide (1 ≤ size) && decide (size ≤ 8)
  | .streamReadReturn _ _ operand _ _ => decide (operand < 6)
  | .cellarRead _ _ a n _ => blockOk a.toNat n
  | .cellarWrite _ _ a bs _ => blockOk a.toNat bs.length
  | .bootRomWrite _ a => romAddrOk a.toNat
  | .hbmRead _ a n _ => hbmAddrOk a.toNat && blockOk a.toNat n
  | .hbmWrite _ a d => hbmAddrOk a.toNat && blockOk a.toNat d.bytes.length
  | .softRepair a => hbmAddrOk a.toNat
  | .linkTraining r w => farOk r w
  | .linkUp r w => farOk r w
  | .bar0Access off wr len data => tlpOk (2 ^ 26) off.toNat len wr data
  | .bar2Access off wr len data _ => tlpOk (2 ^ 28) off.toNat len wr data
  | .smbusRefresh l r _ _ => !l.isEmpty && !r.isEmpty
  | .flitReceive _ _ _ b => b.length == 256
  | .update i => imageOk none i.image
  | .recover i => imageOk none i
  | .lcreq i => imageOk none i
  | .calibrationWrite i => imageOk (some 4096) i.image
  | .dozeRequest d => d != 0
  | _ => true

end Sys2Proof
end

