-- ==== Sys2Proof/Tests/Slice0.lean ====
section
/-! SUPPORT. Tests: for each claim that has premises, a state and operands that meet them together, clause by clause; the
checks of well-formedness refuse an ill-formed command each; results worked out by hand from the spec. -/
set_option maxRecDepth 4000
set_option Elab.async false
namespace Sys2Proof.Tests
open Sys2Proof.Machine

/-- The state that an outcome answers. -/
def after : Host.Outcome State Fault Refusal → State
  | .next t => t
  | _ => State.reset

theorem leNat_zeros (n : Nat) : leNat (List.replicate n 0#8) = 0 := by
  induction n with
  | zero => rfl
  | succ n ih => simp [List.replicate_succ, leNat, ih]
/-- A slot of an empty memory holds no image of a kind. -/
theorem slotValid_empty (s : State) (k b : Nat) (hm : s.mem = []) (hk : k ≠ 0) : slotValid s k b = false := by
  have hb : slotBytes s k b = List.replicate (slotSize k) 0 := by
    simp only [slotBytes, bytesGet, hm]
    exact List.map_const' .. |>.trans (by simp)
  have h0 : imgKind (slotBytes s k b) = 0 := by
    simp [imgKind, leWord, hb, List.drop_replicate, List.take_replicate, leNat_zeros]
  simp [slotValid, h0, Ne.symm hk]

/-- A device that runs, right after reset. -/
def run : State := State.reset
def wHeld : State := { run with power := { run.power with porst := true } }
def wQueue : State := { run with pending := [.idcode, .poll] }
def wBytes : State := { run with mem := [(5, 1), (9, 2)] }
def wScrapped : State := { run with otp := { run.otp with lcs := 4, keyGone := true } }
def wStaged : State := { run with stage := [(20971664, some 5)] }
/-- An axis of the device set up with a configuration word and a core. -/
def wAxis (n : Nat) (cfg : W64) (x : Axis) : State := (regPut (regPut run .axCfg n cfg) .axInc n 0x280000).setAxis n x
/-- A TSI frame of the given TYPE, SEQ and VALUE (Table 2.8). -/
def wFrame (type q v : Nat) : BitVec 90 :=
  let b : BitVec 90 := BitVec.ofNat 90 (type * 2 + q * 2 ^ 5 + v * 2 ^ 9 + 2 ^ 89)
  b ||| ((tsiCrc b).setWidth 90 <<< 73)
def quadCore : AxisCore := { state := .run, pos := 0xA0000, disp := 0xA1234, rate := 99, nedge := 2, fresh := false }
def wQuad : State := wAxis 31 0x3 { core := quadCore, f0 := true }
def wQuadBack : State := wAxis 0x10 0x8003 { core := { quadCore with in0 := true, in1 := true, rev := true }, f1 := true }
def wBad : State := wAxis 1 0x40003 { core := { quadCore with in0 := true }, f1 := true }
def wIndex : State := regPut (wAxis 1 0x7803 { core := { quadCore with in0 := true, in1 := true }, f0 := true, f1 := true, f2 := true }) .axZval 1 0x50000
def wIndexEdge : State := regPut (wAxis 1 0x7803 { core := { quadCore with in0 := true }, f0 := true, f1 := true, f2 := true }) .axZval 1 0x50000
def wHome : State := regPut (wAxis 1 0x1003 { core := { quadCore with state := .lostIndex, rev := true }, f2 := true }) .axZval 1 0x50000
def wCapture : State := wAxis 1 0x0803 { core := quadCore, f2 := true }
def wStepEdge : State := wAxis 2 0x20005 { core := quadCore, f0 := true, f1 := true }
def wPulse (k : Option Nat) : State :=
  regPut (wAxis 6 0x7 { core := { quadCore with pulse := k }, f0 := true }) .axAux 6 16
def wTsi (st : AxState) : State := wAxis 5 0x9 { core := { quadCore with state := st, seqNo := some 15 } }
def wEnable (cfg : W64) : State := regPut (wAxis 3 (cfg - 1) {}) .axLoadv 3 77
def wOn (mode : Nat) (st : AxState) : State := regPut (wAxis 3 (w64 (2 * mode + 1)) { core := { quadCore with state := st }, pre := { quadCore with disp := 5, pos := 6 } }) .axLoadv 3 (-77)
def wQuadZ (st : AxState) : State := wAxis 3 0x803 { core := { quadCore with state := st } }
/-- A derived axis whose base, axis 4, is a software axis, with the anchor far behind the base. -/
def wDerived : State :=
  let s := regPut (regPut (wAxis 3 0xD { core := { quadCore with anchor := 5, bref := 2 ^ 63 + 9 } }) .axNum 3 7) .axDen 3 3
  regPut (regPut s .axSrc 3 0x04000000) .axCfg 4 0xB
def wStall : State := regPut (wAxis 1 0x3 { core := { quadCore with since := 11 } }) .axStallt 1 10
def wQuiet (mode : Nat) : State := regPut (wAxis 1 (w64 (2 * mode + 1)) { core := { quadCore with quiet := 500 } }) .axTmo 1 1
def wOpen : State := regPut (regPut { wAxis 1 0x3 { core := quadCore } with lvOpen := [(32, 500)] } .axPin 32 0x2000) .axSrc 1 0x3F3F20
def wDozing : State := run.setDie 1 { doze := true, ax0 := 99 }
def wQuadLost : State := wAxis 31 0x3 { core := { quadCore with state := .lost }, f0 := true }
/-- A quadrature axis with an edge that its stage has still to take. -/
def wPending (st : AxState) : State := regPut (regPut (wAxis 3 0x803 { core := { quadCore with state := st }, f0 := true }) .axLoadv 3 (-77)) .axInc 3 5
/-- A disabled axis whose base is itself. -/
def wSelfBased : State := regPut (wAxis 3 0xC {}) .axSrc 3 0x03000000
/-- Core 5 at the start of the given bundle, in bay 1; its job has been launched. -/
def wCode (ws : List W32) (c : Core) : State :=
  { run with
    jobs := [(3, { stamped := true, running := true })]
    bays := [(1, { force := 0, owner := 0 })]
    cores := [(5, { c with job := some 3, pc := 0x400000, ibuf := [(0, [{ tag := 0x10000, bytes := ws.flatMap (fun w => leBytes w.toNat 4) ++ zeroBytes (64 - 4 * ws.length) }])] })] }
def iY (op d a b : Nat) : W32 := w32 (0x80000000 + op * 2 ^ 22 + d * 2 ^ 17 + a * 2 ^ 12 + b * 2 ^ 7)
def xY (op g disp : Nat) : W32 := w32 (0xD0000000 + op * 2 ^ 23 + g * 2 ^ 18 + disp)
def mY (st : Bool) (typ g b d : Nat) : W32 := w32 (0xA0000000 + st.toNat * 2 ^ 25 + typ * 2 ^ 22 + g * 2 ^ 17 + b * 2 ^ 12 + d)
def someG : Table W64 := [(2, 0x8000000000000005), (3, 3), (4, 70), (5, 0x400100), (6, 0)]
def wOnCore (c : Core) : State := wCode [] c
def loadOf (a size : Nat) (sg : Bool) : LoadRec := { dest := 7, addr := a, size := size, signed := sg, level := 1, exc := false, split := false }
def wLoad (own : Nat) (a size : Nat) (sg : Bool) : State :=
  { wOnCore { loads := [loadOf a size sg] } with bays := [(1, { force := own, owner := own })], mem := [(0x400101, 0x80), (0x400104, 9)] }
/-- The cause of a fault: address 0x400100 is not owned. -/
def wHandler (c : Core) : State := wOnCore { c with evec := 0x400801, status := 0x104, g := [(2, 8)] }
def vopOf (op ty : Nat) (d a b : Opnd) (vl : Nat) : Vop :=
  { seqn := 1, group := 1, syl0 := w32 (op * 2 ^ 21 + ty * 2 ^ 17), syl1 := xDefault, priv := 1, dst := d, s1 := a, s2 := b, s3 := .none, mask := .none, ixd := 0, vl := vl, fpc := 0 }
/-- A linear stream descriptor: base, type, length, stride. -/
def lin (base ty len stride : Nat) : BitVec 256 := BitVec.ofNat 256 (base + ty * 2 ^ 48 + len * 2 ^ 64 + stride * 2 ^ 96)
def wPress (l : List Vop) (c : Core) : State := { wOnCore { c with viq := l } with mem := [(0x400102, 5)] }
def going (v : Vop) : Vop := { v with started := true }
def wMicro (word : BitVec 160) (m : Micro) : State :=
  { wPress [going { vopOf 0x6F 4 (.cask 0 1) (.cask 1 1) (.cask 2 1) 16 with s3 := .bcast 0x3800 }] { micro := some m } with ustore := [(m.upc, word)] }
def micro0 : Micro := { upc := 0x3800, ec := [5, 0, 16, 9], preds := [], pfl := [], temps := [] }
def wIrq (pend : W64) (c : Core) : State := regPut (regPut (wHandler c) .rowIpend 5 pend) .rowIen 5 0x6
def wWaits5 (w : CoreWait) (y : W32) (ax0 cy : Nat) : State :=
  { wCode [y] { wait := w, g := [(2, 50)] } with dies := [(0, { ax0 := w64 ax0 })], cclk := cy }
def bY (op d a b : Nat) : W32 := w32 (0x90000000 + op * 2 ^ 22 + d * 2 ^ 17 + a * 2 ^ 12 + b * 2 ^ 7)
def vY (op ty d a : Nat) (x : Bool) : W32 := w32 ((if x then 0x30000000 else 0xB0000000) + op * 2 ^ 21 + ty * 2 ^ 17 + x.toNat * 65536 + d * 256 + a)
/-- Core 5 at level U, with all of its bay open to it. -/
def wU (ws : List W32) (c : Core) : State := wCode ws { c with status := c.status ||| 1, evec := 0x400801, mpuBase := [(0, 0x40000F)], mpuLimit := [(0, 0x4FFFC0)], g := someG }
def xC (op k g : Nat) : W32 := xY op g (k * 1024)
def wS (ws : List W32) (c : Core) : State := wCode ws { c with evec := 0x400801, g := someG }
def wVop (s : State) (ws : List W32) : Vop :=
  match vecAt ((s.core 5).touch (s.core 5).pc ws.length) ws (ws.headD 0) with | .ok v => v | _ => vopOf 0 4 .none .none .none 0
/-- Bay b owned, in force, by code o, with some bytes stored and the word 1 of the bay in error. -/
def wBay (b o : Nat) : State :=
  { run with bays := [(b, { owner := o, force := o })], mem := [(b * 2 ^ 22 + 8, 1), (b * 2 ^ 22 + 63, 2)] }
def wMarked (b o : Nat) : State := { wBay b o with poison := [(b * 2 ^ 19 + 1, true)] }
def wBayBusy (p q : BayPower) : State := { wMarked 63 0xF with bays := [(63, { power := p, fromP := q, busy := true })] }
def wComing : State := { run with bays := [(2, { owner := 3, coming := [(3, none), (4, none)] })] }
def wScrub (pos : Nat) : State := { regPut run .celScrubCtrl 0 1 with scrubPos := tset 0 [] 7 pos }
def wHbm : State := { regPut run .hbmStat 0 6 with mem := [(0x001000000000, 1), (0x0027FFFFFFFF, 2), (0xFFFFFFF, 3)] }
def wHbmMarked : State := { wHbm with poison := [(0x001000000000 / 8, true)] }
def wHbmBusy : State := regPut (regPut { wHbmMarked with hbmHard := tset false [] 1 true } .hbmStat 0 1) .hbmCtrl 0 1
def wSoft : State := { regPut wHbm .hbmPprThr 0 2 with hbmRows := tset 0 [] (hbmRow wHbm 0x001000000000) 2 }
/-- Slice 7 without a bay that is ON. -/
def wSliceOff : State := { regPut run .celScrubCtrl 0 1 with bays := (List.range 8).map (fun k => (56 + k, { power := .off, fromP := .off })) }
def txn (m t : Nat) (assured : Bool) : Txn := { master := m, target := t, part := 0, block := 0x4000000, write := false, assured, empty := false, gen := 0 }
def wArb (w : List (Nat × Bool)) : State := regPut { run with arbiters := [(9, { waiting := w.map (fun p => txn p.1 8 p.2), park := 3 })] } .trPrio 5 0x70000
def wBridge (fails : Nat) (stopped : Bool) : State := { run with bridges := [(1, { fails := fails, stopped := stopped })] }
/-- Row 0 and HBM: 256 units of a token, with and without a cap. -/
def wRl (w : W64) (k : Nat) : State := regPut (regPut { run with buckets := [(8, k)] } .hbmStat 0 6) .trRl 8 w
/-- An HBM address of a stack. -/
def hbmAddr (k : Nat) : BitVec 48 :=
  BitVec.ofNat 48 (((List.range 4096).map (fun i => 0x001000000000 + 64 * i)).find? (fun a => hbmStack run a == k) |>.getD 0)
def parked (s : State) : State := s.setArbiter 8 { s.arbiter 8 with park := 0 }
/-- The link is up at 64 GT/s with Memory Space and Bus Master Enable. -/
def wLink (l : Link) : State := { run with link := { l with rate := 6, width := 16, flit := true, mse := true, bme := true } }
def wRead : OutReq := { id := 7, kind := .moveRead 3, addr := 0x1000, len := 4, sent := true }
def wAsked : State := wLink { out := [wRead, { wRead with id := 8 }], reads := [{ status := 0, data := [1] }] }
/-- A link whose BAR0 and BAR2 are served after boot. -/
def wBooted (lcs : Nat) : State :=
  { regPut (wLink {}) .pwrBoot 0 5 with otp := { lcs := lcs }, mem := [(8, 1), (63, 2)], msix := [(3, { addrLo := 8, addrHi := 1, data := 99, masked := false })] }
def wMsix (pba : Bool) (l : Link) : State :=
  { wLink l with msixReq := [{ vector := 3, addr := 0x100000008, data := 77 }], msix := [(3, { addrLo := 8, addrHi := 1, data := 99, masked := pba })], pba := tset false [] 3 pba }
def wRing (r : Nat) (x : Ring) : State := { wBooted 1 with rings := [(r, x)] }
/-- A 64-byte descriptor with the given bytes. -/
def wDesc (l : List (Nat × Byte)) : List Byte := l.foldl (fun d p => d.set p.1 p.2) (List.replicate 64 0)
def wStarted (q : W32) (d : List Byte) : Started := { seqNo := q, bytes := d, start := 5, mcver := 6 }
/-- Ring r running with SIZE 3 and the given contents. -/
def wRun (r : Nat) (x : Ring) : State :=
  (regPut (regPut (regPut (wBooted 1) .rkRCfg r 3) .rkRCidx r 7) .rkREpoch r 9).setRing r x
/-- A poll whose answered read holds word w for group or ring 5 of 4 to 6. -/
def wPoll (kind : OutKind) (w : W64) (p : Poll) : State :=
  let s := wRun 5 { state := .running }
  { regPut (regPut s .rkRPidx 5 7) .rkRDone 5 6 with
    poll := { p with running := true }
    link := { s.link with out := [{ id := 7, kind := kind, addr := 0x1000, len := 24, sent := true
                                    res := some (.data (List.replicate 8 0 ++ leBytes w.toNat 8 ++ List.replicate 8 1)) }] } }
def wFetched (res : Option OutRes) : State :=
  let s := wRun 5 { state := .running, next := 7 }
  { regPut s .rkRPidx 5 9 with link := { s.link with out := [{ id := 7, kind := .fetch 5 7 2, addr := 0x1000, len := 128, sent := true, res := res }] } }
def wHead (d : List Byte) : State := regPut (wRun 5 { state := .running, fetched := [{ seqNo := 7, bytes := d }], tokens := [{ stamp := 1, axis := 2 }] }) .rkRPidx 5 9
def wToken (r : Nat) (st : RingState) (n : Nat) : State :=
  { wRun r { state := st, tokens := List.replicate n { stamp := 3, axis := 2 } } with
    tick := 60, actions := [{ due := 60, alarm := 3, kind := .ring, stamp := 5, axis := 1, k := 9, word := w32 r, base := 0 }] }
def jobDesc : List Byte := wDesc [(0, 1), (4, 1), (5, 3), (9, 4), (18, 0x40), (32, 9), (40, 8)]
def jobDescDigest : List Byte := jobDesc.set 2 4
def wWait (free : List Nat) (d : List Byte) : State :=
  { wRun 5 { state := .running, metAt := some 3, fetched := [{ seqNo := 7, bytes := d }] } with
    cores := ((List.range 64).filter (fun n => !free.contains n)).map (fun n => (n, ({ job := some 99, reserved := some 99 } : Core))) }
def wReady : State :=
  { wRun 5 { state := .running, started := [wStarted 7 jobDesc] } with
    jobs := [(jobId 5 7, { ring := 5, seqNo := 7, bytes := jobDesc })]
    cores := [(0, { reserved := some (jobId 5 7), hstack := [true] }), (1, { reserved := some (jobId 5 7), evec := 3 })] }
def wJob (x : Job) (d : List Byte) : State :=
  { wRun 5 { state := .running, started := [wStarted 7 d] } with
    bays := [(1, { force := 0, owner := 0 })]
    jobs := [(jobId 5 7, { x with ring := 5, seqNo := 7, bytes := d, cores := [0, 1], running := true })]
    cores := [(0, { reserved := some (jobId 5 7), job := some (jobId 5 7), ended := true }), (1, { reserved := some (jobId 5 7), job := some (jobId 5 7), ended := true })] }
def wOver : Job := { ranks := [(0, { ended := true, crc := 5, crcN := 1 }), (1, { ended := true, crc := 6, crcN := 2, taint := true })], stamped := true }
def moveDesc (n : Byte) : List Byte := wDesc [(0, 2), (10, 0x40), (16, 0x20), (18, 0x80), (24, n)]
def wMove (n : Byte) (pos : Nat) : State :=
  { wRun 5 { state := .running, started := [wStarted 7 (moveDesc n)] } with
    bays := [(1, { force := 8 }), (2, { force := 8 })], mem := [(0x400002, 3), (0x400004, 7), (0x800020, 1)]
    engines := [(2, { busy := true, ring := 5, seqNo := 7, pos := pos })] }
/-- HANDOVER of bay 3 from None to row 2, then from None to row 4. -/
def wHandover (prog : Nat) (busy : Bool) (x : Bay) : State :=
  { wRun 5 { state := .running, started := [{ wStarted 7 (wDesc [(0, 4), (2, 2), (8, 0x83), (9, 0x3C), (10, 0x03), (11, 0x3D)]) with prog := prog, busy := busy }] } with
    bays := [(3, x)] }
def wObject : State := { wRun 5 { state := .running, started := [wStarted 7 (wDesc [(0, 5), (2, 3), (4, 2)])] } with alarms := [(3, { state := .active }), (4, { state := .active })] }
def wWaits (done : W64) (epoch : W64) (st : RingState) : State :=
  let s := wRun 5 { state := .running, started := [wStarted 7 (wDesc [(0, 10), (2, 6), (4, 9), (8, 2)])] }
  regPut (regPut (s.setRing 6 { state := st }) .rkREpoch 6 epoch) .rkRDone 6 done
def wRecord (cfg mod : W64) (pend : Nat) (flags : Byte) : State :=
  regPut (regPut (wRun 5 { state := .running, pend := pend, started := [{ wStarted 7 (wDesc [(0, 3), (1, flags)]) with done := some ({ status := 0 }, 0x2000, List.replicate 32 7) }] }) .rkRCfg 5 cfg) .rkRMod 5 mod
/-- An EGRESS descriptor with OP 2 for channel 9. -/
def wEgDesc (l : List (Nat × Egress)) : State × Started :=
  let e := wStarted 7 (wDesc [(0, 7), (2, 9), (4, 2)])
  ({ regPut (wRun 5 { state := .running, started := [e] }) .vglEgStat 9 1 with egresses := l }, e)
/-- A ring whose started object descriptor is d. -/
def wObj (d : List Byte) (at_ : Nat) : State × Started :=
  let e := { wStarted 7 d with at_ := at_ }
  ({ wRun 5 { state := .running, started := [e] } with tick := 100 }, e)
def wHead2 (d : List Byte) (x : Ring) : State :=
  regPut (wRun 5 { x with state := .running, fetched := [{ seqNo := 7, bytes := d }] }) .rkRPidx 5 9
def wJobHead (n : Nat) : State :=
  { wHead2 jobDesc {} with cores := (List.range n).map (fun k => (k, ({ reserved := some (jobId 5 7) } : Core))) }
/-- Alarm n with its CFG, INTV and state. -/
def wAlarm (n : Nat) (cfg intv : W64) (a : Alarm) : State :=
  (regPut (regPut (regPut run .alCfg n cfg) .alIntv n intv) .alTarget n 0x50000).setAlarm n a
/-- Axis 1 as alarms of a die see it. -/
def wSeen (n : Nat) (cfg : W64) (v : BusVal) (a : Alarm) : State :=
  { regPut (wAlarm n (cfg ||| 1) 0 a) .alHyst n 4 with bus := [(n / 1024 * 32 + 1, v)] }
def wFired (cfg intv : W64) (m : Firing) : State :=
  { wAlarm 2047 cfg intv { state := .active, mark := some m, k := 3, next := 0x50000, armf := true } with tick := 77 }
def wAct (k : ActKind) (word : W32) : State :=
  { run with tick := 60, actions := [{ due := 60, alarm := 1024, kind := k, stamp := 5, axis := 1, k := 9, word := word, base := 0x400000 }] }
def wStampBay (force : Nat) : State := { wAct .stamp 3 with bays := [(1, { force := force })] }
def wServing : State := { wAct .core 0x0102 with cores := [(8, { job := some 3 }), (9, {})] }
/-- Native timer n with its CFG, the preloads 6, 9, 20 and 21, and its machine. -/
def wTimer (n : Nat) (cfg : W64) (x : Timer) : State :=
  (regPut (regPut (regPut (regPut (regPut run .tmrCfg n cfg) .tmrPsc n 6) .tmrPer n 9) .tmrCmp0 n 20) .tmrCmp1 n 21).setTimer n x
def tmrCore : Timer := { run := true, pscA := 3, perA := 8, cmp0A := 30, cmp1A := 31, cnt := 5, pscnt := 2 }
def wCompat (n : Nat) (ctl : W64) (x : Timer) : State :=
  (regPut (regPut run .tmrCfg n 0x100000) .k5Ctl n ctl).setTimer n x
/-- Port 5 in state x, enabled. -/
def wPort (x : Port) : State := { regPut run .vglCfg 5 7 with ports := [(5, x)], otp := { lcs := 1 }, tick := 5000 }
def upPort : Port := { ls := .up, heard := 1, expect := 4095, sq := 9, fark := true }
def wFlitIn (sq : Nat) (x : Port) : List Byte × State :=
  (flitBytes { kind := 1, vc := 2, som := true, eom := true, plen := 3, sq := sq } [7, 8, 9], wPort x)
def txFlit (v : Nat) : Flit := { vc := v, som := true, eom := false, payload := [1, 2, 3] }
def wReplay (k : Nat) : State := wPort { upPort with held := [{ sq := 4, flit := txFlit 1, replays := k }, { sq := 5, flit := txFlit 0 }], moved := 3000 }
/-- A message waits on a virtual channel of port 5. -/
def wMsg (vc : Nat) (m : RxMsg) (x : Port) : State := wPort { x with ls := .up, rx := [(vc, [m])] }
def pingMsg : RxMsg := { bytes := msgHeader 4 0 0 48 0 ++ [2] ++ zeroBytes 23 ++ leBytes 100 8 ++ leBytes 150 8 ++ leBytes 170 8, whole := true, arrived := 200, flits := [(0, 64)] }
def dataMsg (stamp : W64) : RxMsg := { bytes := msgHeader 1 9 0 4 stamp ++ [5, 6, 7, 8], whole := true, flits := [(0, 10), (10, 20)] }
/-- Ingest channel 130 of port 5, VC 0, SID 9, four slots of 64 bytes from bay 1 on, enabled. -/
def wIngest (cfg : W64) (m : RxMsg) : State :=
  let s := { wMsg 0 m {} with bays := [(1, { force := 10 })] }
  let s := regPut (regPut (regPut s .vglInCfg 130 (0x905 ||| cfg)) .vglInBase 130 0x400000) .vglInNslot 130 4
  regPut (regPut (regPut (regPut s .vglInPitch 130 100) .vglInOrigin 130 1000) .vglInSlotsz 130 64) .vglInStat 130 1
/-- Egress channel 130 of port 5, VC 2, 16 bytes from bay 1. -/
def wEgress (e : Egress) (on : W64) : State :=
  let s := { wPort upPort with bays := [(1, { force := 9 })], mem := [(0x400003, 7)], egresses := [(130, e)] }
  let s := regPut (regPut (regPut (regPut s .vglEgCfg 130 0x915) .vglEgLen 130 16) .vglEgSrc 130 0x400000) .vglEgStat 130 on
  { s with actions := [{ due := 60, alarm := 3, kind := .egress, stamp := 5, axis := 1, k := 9, word := 0x820000, base := 0 }] }
def egAct : Action := { due := 60, alarm := 3, kind := .egress, stamp := 5, axis := 1, k := 9, word := 0x820000, base := 0 }
/-- The frame of channel 130 under its window. -/
def wFrameOf (st : EgState) : Egress := { state := st, stamp := 77, port := 5, vc := 2, sid := 9, len := 16, src := 0x400000 }
/-- A HEARTBEAT in one flit. -/
def wFlitGood : List Byte := flitBytes { kind := 1, vc := 2, som := true, eom := true, plen := 16, sq := 4095 } (msgHeader 6 0 0 0 5)
def wIdle (h : FlitHead) (x : Port) : List Byte × State := (flitBytes h [], wPort x)
def heldPort : Port := { upPort with held := [{ sq := 4094, flit := txFlit 1 }, { sq := 4095, flit := txFlit 0 }, { sq := 0, flit := txFlit 0 }], replay := [4095, 0], cred := [(1, 3)], adv := [(1, 9), (2, 4)], moved := 12 }
def syncIn (kind axst : Byte) (rpl : Bool) : RxMsg := { bytes := msgHeader 4 0 0 48 0 ++ [kind, axst] ++ zeroBytes 6 ++ leBytes 0x70000 8 ++ leBytes 0x10000 8 ++ leBytes 100 8 ++ leBytes 150 8 ++ zeroBytes 8, whole := true, rpl := rpl, arrived := 200, at_ := 4997, flits := [(0, 64)] }
/-- Axis 17 follows axis 3 of the far end of port 5. -/
def wRemote (m : RxMsg) (x : Port) : State :=
  (regPut (regPut (wMsg 3 m x) .axCfg 17 0xF) .axAux 17 (0x01000000 ||| 3 <<< 26))
def mgmtIn' (l : List Byte) : RxMsg := { bytes := msgHeader 5 0 0 16 0 ++ l, whole := true, flits := [(0, 32)] }
/-- Row 3 with n errors already counted in its slot 2, and job x on its core. -/
def wErrors (n : Nat) (cfg row : W64) (core : Core) : State :=
  { regPut (regPut run .glbRasCfg 0 cfg) .glbRasRow 3 row with slotErrs := tset 0 [] 29 n, cores := [(26, core)] }
def restartDesc : List Byte := (jobDesc.set 2 1).set 4 8
def wRerun (cfg : W64) (d : List Byte) (x : Job) (row : Row) : State :=
  { regPut (wRun 5 { state := .running, started := [wStarted 7 d] }) .glbRasCfg 0 cfg with
    jobs := [(jobId 5 7, { x with ring := 5, seqNo := 7, bytes := d, cores := [26], running := true })]
    cores := [(26, { reserved := some (jobId 5 7), job := some (jobId 5 7) })]
    rows := [(3, row)] }
def wRerunOver : State :=
  { wRerun 0x701 restartDesc { rerun := some 2, ranks := [(0, { ended := true })] } {} with cores := [(26, { reserved := some (jobId 5 7), job := some (jobId 5 7), ended := true })] }
def wRowCores : State := { run with cores := [(24, { pc := 5, off := true }), (3, { pc := 9 })], tick := 9 }
def wStopped (n : Nat) : State := { run with bridges := [(0, { fails := n, stopped := true })] }
def wReports : State := { regPut (regPut run .glbRasLognext 0 0xFFFFFFFF) .glbRasIrq 0 0x1803 with reports := [{ src := 0x10, code := 3, sev := 2, unit := 7, info0 := 5, info1 := 6 }, { src := 1, code := 1, sev := 1, info0 := 0 }] }
/-- A microcode image of one word in bay 1, which the Cellarer owns. -/
def wImage (w : BitVec 160) (utag : Nat) (bad : W32) : State :=
  let b := leBytes w.toNat 20
  let h := leBytes utag 2 ++ leBytes 1 2 ++ leBytes uBase 2 ++ [0, 0] ++ leBytes (crc32 b + bad).toNat 4 ++ zeroBytes 52
  { regPut run .glbMcUaddr 0 0x400000 with bays := [(1, { force := ownerCode mCellarer })], mem := bytesPut [] 0x400000 (h ++ b), ustore := [(5000, 9)] }
def wBoot (stage lcs : Nat) : State := { regPut run .pwrBoot 0 (w64 stage) with otp := { lcs := lcs }, mem := [(0xF8200004, 1), (0xFA000007, 9), (0xFA1FFFFF, 3)] }
def wSvn : State := { wBooted 1 with otp := { lcs := 1, rbc := [(1, 5), (2, 1)] }, sec := { svn := [(1, 3), (2, 4)], count := 7 } }
def wSecBusy : State := { regPut wSvn .secCmdstat 0 1 with sec := { op := some .update } }
def wRecovering : State := regPut (wBooted 1) .secBootstat 0 0x103F
def wLcs (a : Nat) (b : W64) : State := { regPut (wRun 5 { state := .running }) .secArglen 0 b with otp := { lcs := a, rbc := [(1, 5)] }, mem := [(0xFA000007, 9), (0xFA1FFFFF, 3), (0xFA200000, 3)] }
def wTamper (cfg : W64) : State := { regPut run .secTampcfg 0 cfg with mem := [(0xFA000007, 9), (0xFA1FFFFF, 3), (0xFA200000, 3)] }
/-- A device at stage 1 of boot whose MRAM is empty. -/
def wBootEmpty : State := { wBoot 1 1 with mem := [] }
def wOpp (opp : W64) (thermal goal : Nat) : State := { regPut run .pwrOpp 0 opp with power := { thermal := thermal, oppGoal := goal } }
/-- Die d dozes or not; axis 17 counts, with DZOK. -/
def wDoze (x y : Die) (dzok : Bool) : State :=
  { regPut run .axCfg 17 (if dzok then 0x80003 else 3) with dies := [(0, x), (1, y)], tick := 3, cores := [(40, { pc := 4 })] }
def asleep : Die := { doze := true, ax0 := 0x50000, entryAx0 := 0x40000, samples := 2, corr := -300 }
def wWaking (x y : Die) : State := regPut (regPut (regPut (regPut (wDoze x y true) .pwrWake 0 1) .pwrWaketime 0 1000) .pwrDoze 0 3) .pwrDozestat 0 3
def wRest (c : Core) : State := { regPut run .pwrCorecfg 0 0x21 with cores := [(63, c)], tick := 1000 }
def wRow (x : Row) (owner : Nat) (core : Core) : State :=
  { run with rows := [(3, x)], bays := [(24, { owner := owner })], cores := [(26, core)], mem := [(24 * 2 ^ 22, 1)] }
def wFull : State :=
  { regPut (wRun 5 { state := .running }) .pwrStrap 0 5 with
    mem := [(5, 1), (0xF8000000, 2), (0x001000000000, 3)], timers := [(3, { run := true })], retired := [(1, 5)], slotErrs := [(3, 4)], tick := 9
    axes := [(1, {})], cores := [(1, { pc := 3 })], ports := [(2, { ls := .up })] }
def calPage (ver : Byte) : List Byte :=
  let b := leBytes calMagic 4 ++ [0, 0, ver, 0] ++ List.replicate 4084 1
  b ++ leBytes (crc32 b).toNat 4
def wStage (k : Nat) : State := { regPut run .pwrBoot 0 (w64 (k + 0x300)) with sec := { booted := true }, retired := [(2, 0x1F)] }
def wCal (ver : Byte) : State := { wStage 0 with mem := bytesPut [] 0xF8000000 (calPage ver) }
/-- One sensor of the Left Bank at x °C. -/
def wHot (x : BitVec 8) : Temps := { left := [x.signExtend 16 <<< 4], right := [0x10] }
def wHalted (sel : W64) (c : Core) : State := regPut { run with cores := [(5, c)] } .dbgRsel 5 sel
def stopped : Core := { halted := true, haltCause := 4, shieldHeld := 9, g := [(4, 7)], a := [(3, 8)], casks := [(2, 0x55)], m := [(1, 3)], lc := 9, epc := 12, pc := 0x40, haltAt := 0x40, sd := [(2, 0x5500000000000000000000000000000007)], rpt := 9, b := [(1, 4)] }
def wTap (t : Tap) (lcs : Nat) : State := { run with tap := { t with trst := true }, otp := { run.otp with lcs := lcs }, mem := [(0x400008, 7)], bays := [(1, { force := ownerCode mDebug })] }

def w00_0 : State := after (step wQueue)
def w00_1 : State := regPut (wStaged.setAxis 1 { core := { state := AxState.run : AxisCore }, f0 := true : Axis }) RegName.axCfg 1 (3 : W64)
theorem witness_stepRunsFrontCommand :
    (wQueue.pending = [Instr.idcode, Instr.poll]) := by
  decide +kernel
theorem witness_emptyQueueIdles :
    (run.pending = []) := by
  decide +kernel
theorem witness_registerReadsBack :
    (regOff RegName.axZval 3 ≠ regOff RegName.axInc 3) := by
  decide +kernel
theorem witness_registerMapRoundTrip :
    (31 < (regRow RegName.axInc).count * (regRow RegName.axInc).banks) := by
  decide +kernel
theorem witness_memoryReadsBack :
    (0 < 5 ∨ 5 + [(0 : Byte), (3 : Byte)].length ≤ 0) ∧
    (Memory.wf wBytes.mem = true) := by
  and_intros <;> decide +kernel
theorem witness_releaseOfPorstN :
    (wBytes.power.calLeft = none) ∧
    (regOff RegName.glbMcVer 0 ≠ regOff RegName.pwrStrap 0) := by
  and_intros <;> decide +kernel
theorem witness_heldInReset :
    (inReset wHeld = true) ∧
    (Claims.actsInReset Instr.poll = false) := by
  and_intros <;> decide +kernel
theorem witness_rejectedWriteChangesNothing :
    run.live ∧
    (¬(2 = 4 ∧ 4096 % 4 = 0 ∨ 2 = 8 ∧ 4096 % 8 = 0)) ∧
    (regOff RegName.glbMcVer 0 ∉ [regOff RegName.glbBadaccCnt 0, regOff RegName.glbBadaccLog 0, regOff RegName.glbHlEvt 0]) := by
  and_intros <;> decide +kernel
theorem witness_halfWritesCommitTogether :
    (20971664 = regOff RegName.axInc 1) ∧
    ((20971668 : BitVec 26) = (20971664 : BitVec 26) + (4 : BitVec 26)) ∧
    run.live ∧
    (run.serves RegName.axInc 1) ∧
    (BitVec.setWidth 32 (BitVec.ofNat 64 5) = (5 : W32)) ∧
    (BitVec.setWidth 32 (BitVec.ofNat 64 6) = (6 : W32)) ∧
    (tget none run.stage 20971664 = none) ∧
    w00_1.live ∧
    (w00_1.serves RegName.axInc 1) ∧
    (tget none w00_1.stage 20971664 = some (5 : W32)) := by
  and_intros <;> decide +kernel
theorem witness_lowHalfReadTakesSnapshot :
    ((regRow RegName.axInc).wide = true) ∧
    (RegName.axInc ≠ RegName.tmrCapPair) ∧
    (1 < (regRow RegName.axInc).count * (regRow RegName.axInc).banks) ∧
    (20971664 = regOff RegName.axInc 1) ∧
    run.live ∧
    (run.serves RegName.axInc 1) := by
  and_intros <;> decide +kernel
theorem witness_memoryStaysCanonical :
    (Memory.wf wBytes.mem = true) ∧
    (step wBytes = Host.Outcome.next wBytes) := by
  and_intros <;> first | decide +kernel | exact rfl
theorem witness_queueAdvances :
    (step wQueue = Host.Outcome.next w00_0) := by
  exact rfl
theorem witness_fusesOnlyMoveForward :
    (step wScrapped = Host.Outcome.next wScrapped) ∧
    (1 = 1 ∨ 1 = 2 ∨ 1 = 3) ∧
    (wScrapped.otp.keyGone = true) ∧
    (wScrapped.otp.lcs = 4) := by
  and_intros <;> first | decide +kernel | exact rfl

def w02_2 : State := wPulse (some 15)
def w02_3 : AxisCore := { (w02_2.axis ↑(6 : Fin 32)).core with in0 := (w02_2.axis ↑(6 : Fin 32)).f0 }
def w02_4 : State := wPulse (some 16)
def w02_5 : AxisCore := { (w02_4.axis ↑(6 : Fin 32)).core with in0 := (w02_4.axis ↑(6 : Fin 32)).f0 }
def w02_8 : State := wTsi AxState.run
def w02_9 : State := wTsi AxState.lost
def w02_10 : AxisCore := { quadCore with disp := (655360 : W64), step := (2621440 : W64), rate := (2 : W64) ^ 40 }
def w02_12 : State := wEnable (3 : W64)
def w02_17 : State := wOn 1 AxState.run
def w02_18 : State := wOn 1 AxState.lost
def w02_19 : State := wOn 5 AxState.run
def w02_21 : State := wOn 6 AxState.run
def w02_22 : State := wQuadZ AxState.run
def w02_24 : State := wQuiet 4
def w02_26 : State := (wDozing.setTimer 3 { run := true : Timer })
def w02_34 : State := wPending AxState.run
def w02_36 : State := regPut (regPut wSelfBased RegName.axSrc 3 (67108864 : W64)) RegName.axCfg 4 (13 : W64)
def w02_38 : State := { wDerived with stage := [(regOff RegName.axOffs 3, some (5 : W32))] }
theorem witness_quadratureEdgeCounts :
    wQuad.live ∧
    (axisOn wQuad 31 1 = true) ∧
    ((if true = true then ((wQuad.axis 31).core.in0, (wQuad.axis 31).core.in1, (wQuad.axis 31).f0, (wQuad.axis 31).f1) else ((wQuad.axis 31).f0, (wQuad.axis 31).f1, (wQuad.axis 31).core.in0, (wQuad.axis 31).core.in1)) ∈ Claims.quadForward) ∧
    ((wQuad.axis 31).core.state = AxState.run) ∧
    wQuadLost.live ∧
    (axisOn wQuadLost 31 1 = true) ∧
    ((if true = true then ((wQuadLost.axis 31).core.in0, (wQuadLost.axis 31).core.in1, (wQuadLost.axis 31).f0, (wQuadLost.axis 31).f1) else ((wQuadLost.axis 31).f0, (wQuadLost.axis 31).f1, (wQuadLost.axis 31).core.in0, (wQuadLost.axis 31).core.in1)) ∈ Claims.quadForward) ∧
    (isLost (wQuadLost.axis 31).core.state = true) := by
  and_intros <;> decide +kernel
theorem witness_quadratureIllegalTransition :
    wBad.live ∧
    (axisOn wBad 1 1 = true) ∧
    ((wBad.axis 1).core.in0 ≠ (wBad.axis 1).f0) ∧
    ((wBad.axis 1).core.in1 ≠ (wBad.axis 1).f1) ∧
    (0 ≠ 1) := by
  and_intros <;> decide +kernel
theorem witness_indexEventCapturesAndLoads :
    wIndexEdge.live ∧
    (axisOn wIndexEdge 1 1 = true) ∧
    (axZmode wIndexEdge 1 ≠ 0) ∧
    (zQualified (axZgate wIndexEdge 1) (wIndexEdge.axis 1) = true) ∧
    ((wIndexEdge.axis 1).core.zq = false) ∧
    ((wIndexEdge.axis 1).core.illegal = false) ∧
    ((wIndexEdge.axis 1).core.in0 ≠ (wIndexEdge.axis 1).f0 ∨ (wIndexEdge.axis 1).core.in1 ≠ (wIndexEdge.axis 1).f1) ∧
    wHome.live ∧
    (axisOn wHome 1 1 = true) ∧
    (axZmode wHome 1 ≠ 0) ∧
    (zQualified (axZgate wHome 1) (wHome.axis 1) = true) ∧
    ((wHome.axis 1).core.zq = false) ∧
    ((wHome.axis 1).core.illegal = false) ∧
    ((wHome.axis 1).core.in0 = (wHome.axis 1).f0) ∧
    ((wHome.axis 1).core.in1 = (wHome.axis 1).f1) ∧
    (0 ≠ 1) ∧
    wCapture.live ∧
    (axisOn wCapture 1 1 = true) ∧
    (axZmode wCapture 1 ≠ 0) ∧
    (zQualified (axZgate wCapture 1) (wCapture.axis 1) = true) ∧
    ((wCapture.axis 1).core.zq = false) ∧
    ((wCapture.axis 1).core.illegal = false) ∧
    ((wCapture.axis 1).core.in0 = (wCapture.axis 1).f0) ∧
    ((wCapture.axis 1).core.in1 = (wCapture.axis 1).f1) := by
  and_intros <;> decide +kernel
theorem witness_stepEdgeMoves :
    wStepEdge.live ∧
    (axisOn wStepEdge 2 2 = true) ∧
    ((wStepEdge.axis 2).core.state = AxState.run) ∧
    ((wStepEdge.axis 2).core.in0 ≠ (wStepEdge.axis 2).f0) ∧
    (edgeKind (axEdgeKind wStepEdge 2) (wStepEdge.axis 2).f0 = true) := by
  and_intros <;> decide +kernel
theorem witness_pulseEdgeMovesByOne :
    w02_2.live ∧
    (axisOn w02_2 6 3 = true) ∧
    ((w02_2.axis 6).core.state = AxState.run) ∧
    ((w02_2.axis 6).core.in0 ≠ (w02_2.axis 6).f0) ∧
    (edgeKind (axEdgeKind w02_2 6) (w02_2.axis 6).f0 = true) ∧
    (w02_3.pulse = some 15) ∧
    (15 < axMinper w02_2 6) ∧
    (0 ≠ 6) ∧
    w02_4.live ∧
    (axisOn w02_4 6 3 = true) ∧
    ((w02_4.axis 6).core.state = AxState.run) ∧
    ((w02_4.axis 6).core.in0 ≠ (w02_4.axis 6).f0) ∧
    (edgeKind (axEdgeKind w02_4 6) (w02_4.axis 6).f0 = true) ∧
    (∀ (k : Nat), w02_5.pulse = some k → axMinper w02_4 6 ≤ k) := by
  and_intros <;> decide +kernel
theorem witness_badFrameIsDiscarded :
    w02_8.live ∧
    (axisOn w02_8 5 4 = true) ∧
    ((wFrame 2 0 7).getLsbD 0 = true ∨ (wFrame 2 0 7).getLsbD 89 = false ∨ 1 < fld (wFrame 2 0 7) 1 4 ∨ fld (wFrame 2 0 7) 73 16 ≠ BitVec.toNat (tsiCrc (wFrame 2 0 7))) ∧
    (0 ≠ 5) := by
  and_intros <;> decide +kernel
theorem witness_goodFrameSetsPosition :
    w02_8.live ∧
    (axisOn w02_8 5 4 = true) ∧
    ((wFrame 0 0 7).getLsbD 0 = false) ∧
    ((wFrame 0 0 7).getLsbD 89 = true) ∧
    (fld (wFrame 0 0 7) 1 4 ≤ 1) ∧
    (fld (wFrame 0 0 7) 73 16 = BitVec.toNat (tsiCrc (wFrame 0 0 7))) ∧
    ((w02_8.axis 5).loadFrom = none) ∧
    (0 ≠ 5) ∧
    (fld (wFrame 0 0 7) 1 4 = 0) ∧
    ((wFrame 1 0 720896).getLsbD 0 = false) ∧
    ((wFrame 1 0 720896).getLsbD 89 = true) ∧
    (fld (wFrame 1 0 720896) 1 4 ≤ 1) ∧
    (fld (wFrame 1 0 720896) 73 16 = BitVec.toNat (tsiCrc (wFrame 1 0 720896))) ∧
    (fld (wFrame 1 0 720896) 1 4 = 1) ∧
    w02_9.live ∧
    (axisOn w02_9 5 4 = true) ∧
    ((wFrame 0 0 720896).getLsbD 0 = false) ∧
    ((wFrame 0 0 720896).getLsbD 89 = true) ∧
    (fld (wFrame 0 0 720896) 1 4 ≤ 1) ∧
    (fld (wFrame 0 0 720896) 73 16 = BitVec.toNat (tsiCrc (wFrame 0 0 720896))) ∧
    ((w02_9.axis 5).loadFrom = none) := by
  and_intros <;> decide +kernel
theorem witness_interpolationHoldsShort :
    (w02_10.held = none) ∧
    (BitVec.toNat w02_10.step < 2 ^ 62) ∧
    (-(2 : Int) ^ 62 ≤ if w02_10.rev = true then -Machine.sdiff w02_10.disp w02_10.pos else Machine.sdiff w02_10.disp w02_10.pos) ∧
    ((if w02_10.rev = true then -Machine.sdiff w02_10.disp w02_10.pos else Machine.sdiff w02_10.disp w02_10.pos) ≤ ↑(BitVec.toNat w02_10.step - 1)) ∧
    (BitVec.toNat w02_10.step - 1 ≤ if 0 ≠ 0 ∧ 0 < if w02_10.edge = false ∧ w02_10.since < 16777215 then w02_10.since + 1 else w02_10.since then 0 else (BitVec.toNat w02_10.rate * if w02_10.edge = false ∧ w02_10.since < 16777215 then w02_10.since + 1 else w02_10.since) / 65536 % 2 ^ 64) := by
  and_intros <;> decide +kernel
theorem witness_axisEnableStarts :
    w02_12.live ∧
    (w02_12.serves RegName.axCfg 3) ∧
    (3 ≠ 0) ∧
    (axEn w02_12 3 = false) ∧
    (BitVec.getLsbD (3 : W32) 0 = true) ∧
    (fld (regMerge (regRow RegName.axCfg) (regGet w02_12 RegName.axCfg 3) (BitVec.setWidth 64 (3 : W32))) 1 4 = 6 → axBase w02_12 3 ≠ 3 ∧ axMode w02_12 (axBase w02_12 3) ≠ 6) ∧
    (0 ≠ 3) ∧
    (fld (regMerge (regRow RegName.axCfg) (regGet w02_12 RegName.axCfg 3) (BitVec.setWidth 64 (3 : W32))) 1 4 ≠ 6) := by
  and_intros <;> decide +kernel
theorem witness_axisDisableHolds :
    w02_17.live ∧
    (w02_17.serves RegName.axCfg 3) ∧
    (3 ≠ 0) ∧
    (axEn w02_17 3 = true) ∧
    (BitVec.getLsbD (2 : W32) 0 = false) ∧
    (0 ≠ 3) := by
  and_intros <;> decide +kernel
theorem witness_axisSetupWrite :
    run.live ∧
    (run.serves (AxisReg.inc, RegName.axInc).2 3) ∧
    (run.serves (AxisReg.loadv, RegName.axLoadv).2 3) ∧
    (run.serves (AxisReg.zval, RegName.axZval).2 3) ∧
    (run.serves (AxisReg.stallt, RegName.axStallt).2 3) ∧
    (run.serves (AxisReg.tmo, RegName.axTmo).2 3) ∧
    (run.serves (AxisReg.swrate, RegName.axSwrate).2 3) ∧
    (run.serves (AxisReg.src, RegName.axSrc, (524238655 : W64)).2.1 3) ∧
    (run.serves (AxisReg.aux, RegName.axAux, (2130706432 : W64)).2.1 3) ∧
    (run.serves RegName.axCfg 3) ∧
    (3 ≠ 0) ∧
    (axEn run 3 = false) ∧
    (BitVec.getLsbD (1311768467463790320 : W64) 0 = false) ∧
    w02_34.live ∧
    (w02_34.serves (AxisReg.inc, RegName.axInc).2 3) ∧
    (w02_34.serves (AxisReg.loadv, RegName.axLoadv).2 3) ∧
    (w02_34.serves (AxisReg.zval, RegName.axZval).2 3) ∧
    (w02_34.serves (AxisReg.stallt, RegName.axStallt).2 3) ∧
    (w02_34.serves (AxisReg.tmo, RegName.axTmo).2 3) ∧
    (w02_34.serves (AxisReg.swrate, RegName.axSwrate).2 3) ∧
    (w02_34.serves (AxisReg.src, RegName.axSrc, (524238655 : W64)).2.1 3) ∧
    (w02_34.serves (AxisReg.aux, RegName.axAux, (2130706432 : W64)).2.1 3) ∧
    (w02_34.serves RegName.axCfg 3) ∧
    (axEn w02_34 3 = true) ∧
    (BitVec.getLsbD (9 : W64) 0 = true) ∧
    w02_36.live ∧
    (w02_36.serves (AxisReg.inc, RegName.axInc).2 3) ∧
    (w02_36.serves (AxisReg.loadv, RegName.axLoadv).2 3) ∧
    (w02_36.serves (AxisReg.zval, RegName.axZval).2 3) ∧
    (w02_36.serves (AxisReg.stallt, RegName.axStallt).2 3) ∧
    (w02_36.serves (AxisReg.tmo, RegName.axTmo).2 3) ∧
    (w02_36.serves (AxisReg.swrate, RegName.axSwrate).2 3) ∧
    (w02_36.serves (AxisReg.src, RegName.axSrc, (524238655 : W64)).2.1 3) ∧
    (w02_36.serves (AxisReg.aux, RegName.axAux, (2130706432 : W64)).2.1 3) ∧
    (w02_36.serves RegName.axCfg 3) ∧
    (axEn w02_36 3 = false) ∧
    (BitVec.getLsbD (13 : W64) 0 = true) ∧
    (fld (regMerge (regRow RegName.axCfg) (regGet w02_36 RegName.axCfg 3) (13 : W64)) 1 4 = 6) ∧
    (axBase w02_36 3 = 3 ∨ axMode w02_36 (axBase w02_36 3) = 6) := by
  and_intros <;> decide +kernel
theorem witness_axisLoadShifts :
    w02_17.live ∧
    (w02_17.serves RegName.axCtrl 3) ∧
    (3 ≠ 0) ∧
    (axEn w02_17 3 = true) ∧
    (axMode w02_17 3 ≠ 6) ∧
    (0 ≠ 3) ∧
    (axMode w02_17 3 ≠ 5) ∧
    (isLost ((axStage w02_17 3).axis 3).core.state = false) ∧
    w02_18.live ∧
    (w02_18.serves RegName.axCtrl 3) ∧
    (axEn w02_18 3 = true) ∧
    (axMode w02_18 3 ≠ 6) ∧
    (axMode w02_18 3 ≠ 5) ∧
    (isLost ((axStage w02_18 3).axis 3).core.state = true) ∧
    w02_19.live ∧
    (w02_19.serves RegName.axCtrl 3) ∧
    (axEn w02_19 3 = true) ∧
    (axMode w02_19 3 ≠ 6) ∧
    (axMode w02_19 3 = 5) ∧
    (isLost ((axStage w02_19 3).axis 3).core.state = false) ∧
    w02_21.live ∧
    (w02_21.serves RegName.axCtrl 3) ∧
    (axEn w02_21 3 = false ∨ axMode w02_21 3 = 6) ∧
    run.live ∧
    (run.serves RegName.axCtrl 0) ∧
    (0 = 0) := by
  and_intros <;> decide +kernel
theorem witness_reindexAndAdvance :
    w02_22.live ∧
    (w02_22.serves RegName.axCtrl 3) ∧
    (3 ≠ 0 ∧ axEn w02_22 3 = true ∧ axMode w02_22 3 = 1 ∧ axZmode w02_22 3 ≠ 0) ∧
    (0 ≠ 3) ∧
    (axEn w02_22 3 = false ∨ axMode w02_22 3 ≠ 5) ∧
    w02_19.live ∧
    (w02_19.serves RegName.axCtrl 3) ∧
    (¬(3 ≠ 0 ∧ axEn w02_19 3 = true ∧ axMode w02_19 3 = 1 ∧ axZmode w02_19 3 ≠ 0)) ∧
    (3 ≠ 0) ∧
    (axEn w02_19 3 = true) ∧
    (axMode w02_19 3 = 5) := by
  and_intros <;> decide +kernel
theorem witness_derivedAxisWrites :
    w02_38.live ∧
    (axEn w02_38 3 = true) ∧
    (axMode w02_38 3 = 6) ∧
    (w02_38.serves (if true = true then RegName.axDen else RegName.axNum) 3) ∧
    (w02_38.serves RegName.axOffs 3) := by
  and_intros <;> decide +kernel
theorem witness_rebaseKeepsTheValue :
    wDerived.live ∧
    (axisOn wDerived 3 6 = true) ∧
    ((wDerived.axis 3).core.reanchor = false) ∧
    (0 < axDen wDerived 3) ∧
    (2 ^ 56 ≤ (Machine.sdiff (baseValue wDerived (axBase wDerived 3) 5) (wDerived.axis 3).core.bref).natAbs) := by
  and_intros <;> decide +kernel
theorem witness_axisTimeouts :
    wStall.live ∧
    (axisLive wStall 1 = true) ∧
    ((wStall.axis 1).core.state = AxState.run) ∧
    (0 < fld (regGet wStall RegName.axStallt 1) 0 24) ∧
    (fld (regGet wStall RegName.axStallt 1) 0 24 < (wStall.axis 1).core.since) ∧
    w02_24.live ∧
    (axisOn w02_24 1 4 = true ∨ axisOn w02_24 1 7 = true) ∧
    ((w02_24.axis 1).core.state = AxState.run) ∧
    (0 < fld (regGet w02_24 RegName.axTmo 1) 0 20) ∧
    (fld (regGet w02_24 RegName.axTmo 1) 0 20 * 500 ≤ (w02_24.axis 1).core.quiet) ∧
    (0 ≠ 1) ∧
    wOpen.live ∧
    (axEn wOpen 1 = true) ∧
    (1 ≤ axMode wOpen 1) ∧
    (axMode wOpen 1 ≤ 3) ∧
    ((wOpen.die (1 / 16 : Nat)).doze = false) ∧
    (isLost (wOpen.axis 1).core.state = false) ∧
    (hasFault wOpen 1 (fsFault wOpen) = true) := by
  and_intros <;> decide +kernel
theorem witness_deviceTimeAdvances :
    w02_26.live ∧
    (w02_26.alarms = []) ∧
    (w02_26.actions = []) ∧
    (w02_26.pulses = []) ∧
    (w02_26.sec.holdDue = none) ∧
    (0 < 2) := by
  and_intros <;> decide +kernel

def w03_0 : State := wCode [iY 0 7 2 3] { g := someG : Core }
def w03_1 : State := { w03_0 with cclk := w03_0.cclk + { cclk := 9 : Pace }.cclk }
def w03_30 : State := wCode [xY 1 2 16] { g := someG : Core }
def w03_31 : State := { w03_30 with cclk := w03_30.cclk + { cclk := 9 : Pace }.cclk }
def w03_34 : State := wCode [xY 3 31 262143] { g := someG : Core }
def w03_35 : State := { w03_34 with cclk := w03_34.cclk + { cclk := 9 : Pace }.cclk }
def w03_36 : State := wCode [xY 4 1 262143] { g := someG : Core }
def w03_37 : State := { w03_36 with cclk := w03_36.cclk + { cclk := 9 : Pace }.cclk }
def w03_38 : State := wCode [mY true 2 2 5 4094] { g := someG : Core }
def w03_39 : State := { w03_38 with cclk := w03_38.cclk + { cclk := 9 : Pace }.cclk }
def w03_42 : State := wCode [mY false 3 2 5 4] { g := someG : Core }
def w03_43 : State := { w03_42 with cclk := w03_42.cclk + { cclk := 9 : Pace }.cclk }
def w03_44 : State := wCode [mY false 1 0 5 4] { g := someG, sb := [{ addr := 4194560, bytes := [(1 : Byte), (2 : Byte), (3 : Byte), (4 : Byte), (133 : Byte)], level := 1, seqn := 0 : StoreRec }] : Core }
def w03_45 : State := { w03_44 with cclk := w03_44.cclk + { cclk := 9 : Pace }.cclk }
def w03_49 : State := { wOnCore { div := some { dest := 7, op := 1, wide := true, a := (7 : W64), b := (0 : W64), due := 5 : DivRec } : Core } with cclk := 5 }
def w03_52 : State := { wOnCore { div := some { dest := 7, op := 3, wide := true, a := (-7 : W64), b := (2 : W64), due := 5 : DivRec } : Core } with cclk := 4 }
def w03_53 : State := wLoad 0 4194560 4 true
def w03_54 : State := wLoad 3 4194560 2 true
def w03_56 : State := { wOnCore { sb := [{ addr := 4194561, bytes := [(5 : Byte), (0 : Byte)], level := 1, seqn := 0 : StoreRec }], drainAt := 7 : Core } with cclk := 7 }
def w03_58 : State := { wOnCore { : Core } with cores := [(5, { pc := (4194304 : W64), job := some 3 : Core })] }
def w03_59 : State := { wOnCore { : Core } with cores := [(5, { pc := (4194304 : W64), job := some 3 : Core })], bays := [(1, { owner := 3, force := 3 : Bay })] }
def w03_60 : State := { wOnCore { : Core } with events := [(4 : Nat × Nat), (5 : Nat × Nat)] }
def w03_62 : State := wOnCore { latch := true, wait := CoreWait.wfe : Core }
def w03_63 : State := wOnCore { wait := CoreWait.wfe : Core }
def w03_65 : Vop := vopOf 0 4 (Opnd.cask 0 1) (Opnd.cask 1 1) (Opnd.cask 2 1) 16
def w03_66 : State := wPress [vopOf 0 4 (Opnd.cask 0 1) (Opnd.cask 1 1) (Opnd.cask 2 1) 16] { : Core }
def w03_67 : Vop := vopOf 0 4 (Opnd.cask 0 1) (Opnd.cask 1 1) (Opnd.cask 2 1) 0
def w03_68 : State := wPress [vopOf 0 4 (Opnd.cask 0 1) (Opnd.cask 1 1) (Opnd.cask 2 1) 0] { : Core }
def w03_69 : Vop := vopOf 0 4 (Opnd.link 0) (Opnd.cask 1 1) (Opnd.cask 2 1) 0
def w03_70 : State := wPress [vopOf 0 4 (Opnd.link 0) (Opnd.cask 1 1) (Opnd.cask 2 1) 0] { : Core }
def w03_71 : Vop := going (vopOf 0 4 (Opnd.cask 0 1) (Opnd.cask 1 1) (Opnd.cask 2 1) 16)
def w03_72 : State := wPress [going (vopOf 0 4 (Opnd.cask 0 1) (Opnd.cask 1 1) (Opnd.cask 2 1) 16)] { casks := [(1, (3 : CaskVal)), (2, (4 : CaskVal))] : Core }
def w03_73 : Vop := { vopOf 0 11 (Opnd.cask 0 1) (Opnd.cask 1 1) (Opnd.cask 2 1) 16 with fpc := (2031616 : W32) }
def w03_74 : Vop := going w03_73
def w03_75 : State := wPress [going w03_73] { casks := [(1, (2139095039 : CaskVal)), (2, (2139095039 : CaskVal))] : Core }
def w03_76 : Vop := { vopOf 111 4 (Opnd.cask 0 1) (Opnd.cask 1 1) (Opnd.cask 2 1) 16 with s3 := Opnd.bcast (14336 : W64) }
def w03_77 : Vop := going w03_76
def w03_78 : State := wMicro ((14337 : BitVec 160) + (14592 : BitVec 160) * (2 : BitVec 160) ^ 14 + (1 : BitVec 160) * (2 : BitVec 160) ^ 28 + (2 : BitVec 160) * (2 : BitVec 160) ^ 34 + (2 : BitVec 160) * (2 : BitVec 160) ^ 149 + (1 : BitVec 160) * (2 : BitVec 160) ^ 151) micro0
def w03_79 : State := wMicro ((14337 : BitVec 160) + (14592 : BitVec 160) * (2 : BitVec 160) ^ 14 + (8 : BitVec 160) * (2 : BitVec 160) ^ 28 + (2 : BitVec 160) * (2 : BitVec 160) ^ 149 + (3 : BitVec 160) * (2 : BitVec 160) ^ 151 + (77 : BitVec 160) * (2 : BitVec 160) ^ 39) micro0
def w03_80 : State := wMicro ((14337 : BitVec 160) + (14592 : BitVec 160) * (2 : BitVec 160) ^ 14 + (4 : BitVec 160) * (2 : BitVec 160) ^ 28 + (0 : BitVec 160) * (2 : BitVec 160) ^ 149 + (0 : BitVec 160) * (2 : BitVec 160) ^ 151 + (77 : BitVec 160) * (2 : BitVec 160) ^ 39) micro0
def w03_82 : State := wMicro ((14337 : BitVec 160) + (14592 : BitVec 160) * (2 : BitVec 160) ^ 14 + (10 : BitVec 160) * (2 : BitVec 160) ^ 28 + (1 : BitVec 160) * (2 : BitVec 160) ^ 149 + (4 : BitVec 160) * (2 : BitVec 160) ^ 151 + (77 : BitVec 160) * (2 : BitVec 160) ^ 39) micro0
def w03_83 : State := wMicro ((14337 : BitVec 160) + (14592 : BitVec 160) * (2 : BitVec 160) ^ 14 + (0 : BitVec 160) * (2 : BitVec 160) ^ 28 + (1 : BitVec 160) * (2 : BitVec 160) ^ 149 + (4 : BitVec 160) * (2 : BitVec 160) ^ 151 + (77 : BitVec 160) * (2 : BitVec 160) ^ 39) micro0
def w03_84 : State := wHandler { rpt := (4 : W32), edivd := (9223372036854775815 : W64), late := [{ code := 18, addr := 4194560, exc := false, seqn := 1 : LateFault }] : Core }
def w03_85 : State := wIrq (14 : W64) { rpt := (4 : W32) : Core }
def w03_86 : State := wIrq (9 : W64) { : Core }
def w03_87 : State := { wOnCore { shieldEnd := 9 : Core } with cclk := 9, cores := [(5, { status := (16 : W64), shieldEnd := 9, job := some 3 : Core })] }
def w03_88 : State := { wOnCore { shieldEnd := 9 : Core } with cclk := 8, cores := [(5, { status := (16 : W64), shieldEnd := 9, job := some 3 : Core })] }
def w03_90 : State := wWaits5 (CoreWait.waitax 0 (50 : W64)) (xY 17 2 0) 60 0
def w03_91 : Core := { w03_90.core ↑(5 : Fin 64) with wait := CoreWait.none }
def w03_94 : State := wWaits5 (CoreWait.waitcy (50 : W64)) (xY 18 2 0) 0 60
def w03_95 : Core := { w03_94.core ↑(5 : Fin 64) with wait := CoreWait.none }
def w03_100 : State := wS [bY 36 7 2 4] { : Core }
def w03_101 : State := { w03_100 with cclk := w03_100.cclk + { cclk := 9 : Pace }.cclk }
def w03_106 : State := wS [bY 38 8 2 2] { : Core }
def w03_107 : State := { w03_106 with cclk := w03_106.cclk + { cclk := 9 : Pace }.cclk }
def w03_110 : State := wS [bY 40 7 2 3] { : Core }
def w03_111 : State := { w03_110 with cclk := w03_110.cclk + { cclk := 9 : Pace }.cclk }
def w03_118 : State := wS [bY 44 7 2 6] { status := (64 : W64) : Core }
def w03_119 : State := { w03_118 with cclk := w03_118.cclk + { cclk := 9 : Pace }.cclk }
def w03_122 : State := wS [xC 8 2 7] { estatus := (1 : W64), ediva := (5 : W64) : Core }
def w03_123 : State := { w03_122 with cclk := w03_122.cclk + { cclk := 9 : Pace }.cclk }
def w03_128 : State := wS [xC 8 10 7] { estatus := (1 : W64), ediva := (5 : W64) : Core }
def w03_129 : State := { w03_128 with cclk := w03_128.cclk + { cclk := 9 : Pace }.cclk }
def w03_134 : State := wU [xC 8 0 7] { : Core }
def w03_135 : State := { w03_134 with cclk := w03_134.cclk + { cclk := 9 : Pace }.cclk }
def w03_136 : State := wS [xC 9 2 4] { estatus := (2 : W64), evec := (5 : W64) : Core }
def w03_137 : State := { w03_136 with cclk := w03_136.cclk + { cclk := 9 : Pace }.cclk }
def w03_138 : Core := { Claims.onward (w03_137.core ↑(5 : Fin 64)) w03_137.cclk with epc := (w03_137.core ↑(5 : Fin 64)).gr (fld (xC 9 2 4) 18 5) }
def w03_142 : State := wS [xC 9 8 4] { estatus := (2 : W64), evec := (5 : W64) : Core }
def w03_143 : State := { w03_142 with cclk := w03_142.cclk + { cclk := 9 : Pace }.cclk }
def w03_144 : State := wS [xC 9 32 4] { estatus := (2 : W64), evec := (5 : W64) : Core }
def w03_145 : State := { w03_144 with cclk := w03_144.cclk + { cclk := 9 : Pace }.cclk }
def w03_146 : State := wS [xC 9 63 4] { estatus := (2 : W64), evec := (5 : W64) : Core }
def w03_147 : State := { w03_146 with cclk := w03_146.cclk + { cclk := 9 : Pace }.cclk }
def w03_148 : Core := { (wS [xC 9 0 8] { estatus := (2 : W64) : Core }).core 5 with g := [(8, (356 : W64))] }
def w03_149 : State := { wS [xC 9 0 8] { : Core } with cores := [(5, w03_148)] }
def w03_150 : State := { w03_149 with cclk := w03_149.cclk + { cclk := 9 : Pace }.cclk }
def w03_151 : Core := { Claims.onward (w03_150.core ↑(5 : Fin 64)) w03_150.cclk with status := (fun m old => old &&& ~~~m ||| (w03_150.core ↑(5 : Fin 64)).gr (fld (xC 9 0 8) 18 5) &&& m) (381 : W64) (w03_150.core ↑(5 : Fin 64)).status }
def w03_160 : State := wS [xC 9 9 3] { : Core }
def w03_161 : State := { w03_160 with cclk := w03_160.cclk + { cclk := 9 : Pace }.cclk }
def w03_164 : State := wU [xY 10 0 77] { : Core }
def w03_165 : State := { w03_164 with cclk := w03_164.cclk + { cclk := 9 : Pace }.cclk }
def w03_166 : State := wS [xY 10 0 77] { : Core }
def w03_167 : State := { w03_166 with cclk := w03_166.cclk + { cclk := 9 : Pace }.cclk }
def w03_168 : State := wS [xY 11 0 77] { : Core }
def w03_169 : State := { w03_168 with cclk := w03_168.cclk + { cclk := 9 : Pace }.cclk }
def w03_170 : State := wU [xY 12 0 0] { : Core }
def w03_171 : State := { w03_170 with cclk := w03_170.cclk + { cclk := 9 : Pace }.cclk }
def w03_172 : State := wS [xY 12 0 0] { status := (8 : W64), estatus := (21 : W64), epc := (4194368 : W64), erpt := (4 : W64), ediva := (9 : W64), edivb := (3 : W64), edivd := (9223372036854775975 : W64), shieldHeld := 6, hstack := [true] : Core }
def w03_173 : State := { w03_172 with cclk := w03_172.cclk + { cclk := 9 : Pace }.cclk }
def w03_176 : State := wS [xY 7 0 9] { : Core }
def w03_177 : State := { w03_176 with cclk := w03_176.cclk + { cclk := 9 : Pace }.cclk }
def w03_182 : State := wS [xY 7 0 0, iY 0 7 2 3] { : Core }
def w03_183 : State := { w03_182 with cclk := w03_182.cclk + { cclk := 9 : Pace }.cclk }
def w03_184 : State := wS [xY 2 0 262143] { lc := (1 : W32) : Core }
def w03_185 : State := { w03_184 with cclk := w03_184.cclk + { cclk := 9 : Pace }.cclk }
def w03_188 : State := wS [xY 14 0 0] { : Core }
def w03_189 : State := { w03_188 with cclk := w03_188.cclk + { cclk := 9 : Pace }.cclk }
def w03_192 : State := wS [xY 13 0 0] { : Core }
def w03_193 : State := { w03_192 with cclk := w03_192.cclk + { cclk := 9 : Pace }.cclk }
def w03_194 : State := wS [xY 13 0 0] { sb := [{ addr := 4, bytes := [(1 : Byte)], level := 1, seqn := 0 : StoreRec }] : Core }
def w03_195 : State := { w03_194 with cclk := w03_194.cclk + { cclk := 9 : Pace }.cclk }
def w03_196 : State := wS [xY 16 2 0] { : Core }
def w03_197 : State := { w03_196 with cclk := w03_196.cclk + { cclk := 9 : Pace }.cclk }
def w03_198 : State := wS [xY 16 2 0] { sb := [{ addr := 4, bytes := [(1 : Byte)], level := 1, seqn := 0 : StoreRec }] : Core }
def w03_199 : State := { w03_198 with cclk := w03_198.cclk + { cclk := 9 : Pace }.cclk }
def w03_205 : State := wS [xY 15 0 0] { latch := true : Core }
def w03_206 : State := { w03_205 with cclk := w03_205.cclk + { cclk := 9 : Pace }.cclk }
def w03_209 : Vop := wVop (wS [vY 8 4 128 129 false] { seqn := 8 : Core }) [vY 8 4 128 129 false]
def w03_210 : State := wS [vY 8 4 128 129 false] { seqn := 8 : Core }
def w03_211 : State := { w03_210 with cclk := w03_210.cclk + { cclk := 9 : Pace }.cclk }
def w03_216 : State := wS [vY 124 0 64 64 false] { vctx := (4227072 : W64) : Core }
def w03_217 : State := { w03_216 with cclk := w03_216.cclk + { cclk := 9 : Pace }.cclk }
def w03_220 : State := { wS [w32 (805306368 + 125 * 2 ^ 21 + 64 * 256 + 64), xY 12 0 0] { status := (8 : W64), estatus := (4 : W64), epc := (4194368 : W64), erpt := (3 : W64), vctx := (4227072 : W64) : Core } with mem := [(4227072, (81 : BitVec 8)), (4227073, (86 : BitVec 8))] }
def w03_222 : State := { w03_220 with cclk := w03_220.cclk + { cclk := 9 : Pace }.cclk }
def w03_227 : State := wS [w32 (805306368 + 125 * 2 ^ 21 + 64 * 256 + 64), xY 12 0 0] { estatus := (4 : W64), epc := (4194368 : W64), erpt := (3 : W64), vctx := (4227072 : W64) : Core }
def w03_228 : State := { w03_227 with cclk := w03_227.cclk + { cclk := 9 : Pace }.cclk }
def w03_230 : State := { wOnCore { div := some { dest := 7, op := 2, wide := false, a := (8589934585 : W64), b := (2 : W64), due := 5 : DivRec } : Core } with cclk := 5 }
def w03_233 : LoadRec := { loadOf 4194566 4 true with split := true }
def w03_234 : State := { wLoad 0 4194560 4 true with cores := [(5, { loads := [w03_233], job := some 3 : Core })] }
def w03_235 : LoadRec := { loadOf 4194566 4 true with high := some [(3 : Byte), (132 : Byte)], split := true }
def w03_236 : State := { wLoad 0 4194560 4 true with cores := [(5, { loads := [w03_235], job := some 3 : Core })] }
def w03_240 : Vop := going (vopOf 0 2 (Opnd.cask 0 1) (Opnd.stream (lin 263882790666240 2 16 1)) (Opnd.cask 2 1) 16)
def w03_241 : State := wPress [going (vopOf 0 2 (Opnd.cask 0 1) (Opnd.stream (lin 263882790666240 2 16 1)) (Opnd.cask 2 1) 16)] { : Core }
def w03_242 : Vop := { vopOf 0 2 (Opnd.cask 0 1) (Opnd.stream (lin 4194560 2 16 1)) (Opnd.cask 2 1) 16 with mask := Opnd.cask 3 1 }
def w03_243 : Vop := going w03_242
def w03_244 : State := wPress [going w03_242] { : Core }
def w03_250 : Vop := { vopOf 25 13 (Opnd.cask 0 1) (Opnd.stream (lin 4194560 13 16 3 + BitVec.ofNat 256 (5 * 2 ^ 52 + 7 * 2 ^ 128))) (Opnd.cask 2 1) 16 with data := [] }
def w03_251 : Vop := going w03_250
def w03_252 : State := wPress [going w03_250] { : Core }
def w03_256 : Vop := { vopOf 80 2 (Opnd.cask 0 1) (Opnd.stream (lin 4194560 2 16 1 + BitVec.ofNat 256 (3 * 2 ^ 52 + (1 + 0 * 2 ^ 32) * 2 ^ 128 + (3 + 2 ^ 5 + 2 * 2 ^ 8) * 2 ^ 240))) Opnd.none 16 with data := [] }
def w03_257 : Vop := going w03_256
def w03_258 : State := wPress [going w03_256] { casks := [(3, (131328 : CaskVal))] : Core }
def w03_259 : Vop := { vopOf 80 2 (Opnd.cask 0 1) (Opnd.stream (lin 4194560 2 16 1 + BitVec.ofNat 256 (3 * 2 ^ 52 + (1 + 1 * 2 ^ 32) * 2 ^ 128 + (3 + 2 ^ 5 + 2 * 2 ^ 8) * 2 ^ 240))) Opnd.none 16 with data := [] }
def w03_260 : Vop := going w03_259
def w03_261 : State := wPress [going w03_259] { casks := [(3, (131328 : CaskVal))] : Core }
def w03_265 : State := wOnCore { wq := [{ seqn := 1, addr := 4194566, bytes := [(1 : Byte), (2 : Byte), (3 : Byte)], bitp := none, level := 1, dig := true : WWrite }] : Core }
def w03_266 : State := wOnCore { wq := [{ seqn := 1, addr := 4194566, bytes := [(1 : Byte)], bitp := some 3, level := 1 : WWrite }] : Core }
def w03_268 : State := wOnCore { wq := [{ seqn := 1, addr := 68719476736, bytes := [(1 : Byte)], bitp := none, level := 1, dig := true : WWrite }] : Core }
theorem witness_integerBundleExecutes :
    w03_0.live ∧
    (Claims.bundleReady w03_1 5 [iY 0 7 2 3]) ∧
    (∀ e ∈ w03_1.cores, e.2.stopDue = none) ∧
    (fld (iY 0 7 2 3) 28 3 = 0) ∧
    (fld (iY 0 7 2 3) 0 7 = 0) ∧
    (∀ r ∈ [fld (iY 0 7 2 3) 17 5, fld (iY 0 7 2 3) 12 5, fld (iY 0 7 2 3) 7 5], (w03_1.core 5).gPending w03_1.cclk r = false) ∧
    (fld (iY 0 7 2 3) 22 6 = (0, (w03_1.core 5).gr (fld (iY 0 7 2 3) 12 5) + (w03_1.core 5).gr (fld (iY 0 7 2 3) 7 5)).1) := by
  and_intros <;> decide +kernel
theorem witness_branchBundleExecutes :
    w03_30.live ∧
    (Claims.bundleReady w03_31 5 [xY 1 2 16]) ∧
    (∀ e ∈ w03_31.cores, e.2.stopDue = none) ∧
    (fld (xY 1 2 16) 28 3 = 5) ∧
    ((w03_31.core 5).rpt = (0 : W32)) ∧
    (∀ r ∈ [fld (xY 1 2 16) 18 5, 31], (w03_31.core 5).gPending w03_31.cclk r = false) ∧
    (fld (xY 1 2 16) 23 5 = (1, decide ((w03_31.core 5).gr (fld (xY 1 2 16) 18 5) ≠ (0 : W64))).1) ∧
    w03_34.live ∧
    (Claims.bundleReady w03_35 5 [xY 3 31 262143]) ∧
    (∀ e ∈ w03_35.cores, e.2.stopDue = none) ∧
    (fld (xY 3 31 262143) 28 3 = 5) ∧
    ((w03_35.core 5).rpt = (0 : W32)) ∧
    (∀ r ∈ [fld (xY 3 31 262143) 18 5, 31], (w03_35.core 5).gPending w03_35.cclk r = false) ∧
    (fld (xY 3 31 262143) 23 5 = 3) ∧
    w03_36.live ∧
    (Claims.bundleReady w03_37 5 [xY 4 1 262143]) ∧
    (∀ e ∈ w03_37.cores, e.2.stopDue = none) ∧
    (fld (xY 4 1 262143) 28 3 = 5) ∧
    ((w03_37.core 5).rpt = (0 : W32)) ∧
    (∀ r ∈ [fld (xY 4 1 262143) 18 5, 31], (w03_37.core 5).gPending w03_37.cclk r = false) ∧
    (fld (xY 4 1 262143) 23 5 = 4) := by
  and_intros <;> decide +kernel
theorem witness_memoryBundleExecutes :
    w03_38.live ∧
    (Claims.bundleReady w03_39 5 [mY true 2 2 5 4094]) ∧
    (∀ e ∈ w03_39.cores, e.2.stopDue = none) ∧
    (fld (mY true 2 2 5 4094) 28 3 = 2) ∧
    (fld (mY true 2 2 5 4094) 26 2 = 0) ∧
    (fld (mY true 2 2 5 4094) 22 3 < 7) ∧
    (((w03_39.core 5).gr (fld (mY true 2 2 5 4094) 12 5) + BitVec.signExtend 64 (BitVec.extractLsb' 0 12 (mY true 2 2 5 4094))).toNat % 8 + 2 ^ (fld (mY true 2 2 5 4094) 22 3 / 2) ≤ 8) ∧
    ((w03_39.core 5).rpt = (0 : W32)) ∧
    (memFault w03_39 (w03_39.core 5) ((w03_39.core 5).gr (fld (mY true 2 2 5 4094) 12 5) + BitVec.signExtend 64 (BitVec.extractLsb' 0 12 (mY true 2 2 5 4094))) (2 ^ (fld (mY true 2 2 5 4094) 22 3 / 2)) (BitVec.getLsbD (mY true 2 2 5 4094) 25) = none) ∧
    (∀ r ∈ [fld (mY true 2 2 5 4094) 17 5, fld (mY true 2 2 5 4094) 12 5], (w03_39.core 5).gPending w03_39.cclk r = false) ∧
    (BitVec.getLsbD (mY true 2 2 5 4094) 25 = true) ∧
    (fld (mY true 2 2 5 4094) 22 1 = 0) ∧
    ((w03_39.core 5).sb.length < 8) ∧
    (0 ≠ 5) ∧
    w03_42.live ∧
    (Claims.bundleReady w03_43 5 [mY false 3 2 5 4]) ∧
    (∀ e ∈ w03_43.cores, e.2.stopDue = none) ∧
    (fld (mY false 3 2 5 4) 28 3 = 2) ∧
    (fld (mY false 3 2 5 4) 26 2 = 0) ∧
    (fld (mY false 3 2 5 4) 22 3 < 7) ∧
    (((w03_43.core 5).gr (fld (mY false 3 2 5 4) 12 5) + BitVec.signExtend 64 (BitVec.extractLsb' 0 12 (mY false 3 2 5 4))).toNat % 8 + 2 ^ (fld (mY false 3 2 5 4) 22 3 / 2) ≤ 8) ∧
    ((w03_43.core 5).rpt = (0 : W32)) ∧
    (memFault w03_43 (w03_43.core 5) ((w03_43.core 5).gr (fld (mY false 3 2 5 4) 12 5) + BitVec.signExtend 64 (BitVec.extractLsb' 0 12 (mY false 3 2 5 4))) (2 ^ (fld (mY false 3 2 5 4) 22 3 / 2)) (BitVec.getLsbD (mY false 3 2 5 4) 25) = none) ∧
    (∀ r ∈ [fld (mY false 3 2 5 4) 17 5, fld (mY false 3 2 5 4) 12 5], (w03_43.core 5).gPending w03_43.cclk r = false) ∧
    (BitVec.getLsbD (mY false 3 2 5 4) 25 = false) ∧
    ((w03_43.core 5).loads.length < 8) ∧
    ((w03_43.core 5).footHold (w03_43.core 5).seqn ((w03_43.core 5).gr (fld (mY false 3 2 5 4) 12 5) + BitVec.signExtend 64 (BitVec.extractLsb' 0 12 (mY false 3 2 5 4))).toNat (2 ^ (fld (mY false 3 2 5 4) 22 3 / 2)) false = false) ∧
    (forward (w03_43.core 5) (((w03_43.core 5).gr (fld (mY false 3 2 5 4) 12 5) + BitVec.signExtend 64 (BitVec.extractLsb' 0 12 (mY false 3 2 5 4))).toNat, 2 ^ (fld (mY false 3 2 5 4) 22 3 / 2)) ≠ Fwd.wait) ∧
    (forward (w03_43.core 5) (((w03_43.core 5).gr (fld (mY false 3 2 5 4) 12 5) + BitVec.signExtend 64 (BitVec.extractLsb' 0 12 (mY false 3 2 5 4))).toNat, 2 ^ (fld (mY false 3 2 5 4) 22 3 / 2)) = Fwd.memory) ∧
    w03_44.live ∧
    (Claims.bundleReady w03_45 5 [mY false 1 0 5 4]) ∧
    (∀ e ∈ w03_45.cores, e.2.stopDue = none) ∧
    (fld (mY false 1 0 5 4) 28 3 = 2) ∧
    (fld (mY false 1 0 5 4) 26 2 = 0) ∧
    (fld (mY false 1 0 5 4) 22 3 < 7) ∧
    (((w03_45.core 5).gr (fld (mY false 1 0 5 4) 12 5) + BitVec.signExtend 64 (BitVec.extractLsb' 0 12 (mY false 1 0 5 4))).toNat % 8 + 2 ^ (fld (mY false 1 0 5 4) 22 3 / 2) ≤ 8) ∧
    ((w03_45.core 5).rpt = (0 : W32)) ∧
    (memFault w03_45 (w03_45.core 5) ((w03_45.core 5).gr (fld (mY false 1 0 5 4) 12 5) + BitVec.signExtend 64 (BitVec.extractLsb' 0 12 (mY false 1 0 5 4))) (2 ^ (fld (mY false 1 0 5 4) 22 3 / 2)) (BitVec.getLsbD (mY false 1 0 5 4) 25) = none) ∧
    (∀ r ∈ [fld (mY false 1 0 5 4) 17 5, fld (mY false 1 0 5 4) 12 5], (w03_45.core 5).gPending w03_45.cclk r = false) ∧
    (BitVec.getLsbD (mY false 1 0 5 4) 25 = false) ∧
    ((w03_45.core 5).loads.length < 8) ∧
    ((w03_45.core 5).footHold (w03_45.core 5).seqn ((w03_45.core 5).gr (fld (mY false 1 0 5 4) 12 5) + BitVec.signExtend 64 (BitVec.extractLsb' 0 12 (mY false 1 0 5 4))).toNat (2 ^ (fld (mY false 1 0 5 4) 22 3 / 2)) false = false) ∧
    (forward (w03_45.core 5) (((w03_45.core 5).gr (fld (mY false 1 0 5 4) 12 5) + BitVec.signExtend 64 (BitVec.extractLsb' 0 12 (mY false 1 0 5 4))).toNat, 2 ^ (fld (mY false 1 0 5 4) 22 3 / 2)) ≠ Fwd.wait) ∧
    (forward (w03_45.core 5) (((w03_45.core 5).gr (fld (mY false 1 0 5 4) 12 5) + BitVec.signExtend 64 (BitVec.extractLsb' 0 12 (mY false 1 0 5 4))).toNat, 2 ^ (fld (mY false 1 0 5 4) 22 3 / 2)) = Fwd.bytes (List.take (((w03_45.core 5).gr (fld (mY false 1 0 5 4) 12 5) + BitVec.signExtend 64 (BitVec.extractLsb' 0 12 (mY false 1 0 5 4))).toNat, 2 ^ (fld (mY false 1 0 5 4) 22 3 / 2)).2 (List.drop ((((w03_45.core 5).gr (fld (mY false 1 0 5 4) 12 5) + BitVec.signExtend 64 (BitVec.extractLsb' 0 12 (mY false 1 0 5 4))).toNat, 2 ^ (fld (mY false 1 0 5 4) 22 3 / 2)).1 - { addr := 4194560, bytes := [(1 : Byte), (2 : Byte), (3 : Byte), (4 : Byte), (133 : Byte)], level := 1, seqn := 0 : StoreRec }.addr) { addr := 4194560, bytes := [(1 : Byte), (2 : Byte), (3 : Byte), (4 : Byte), (133 : Byte)], level := 1, seqn := 0 : StoreRec }.bytes))) := by
  and_intros <;> decide +kernel
theorem witness_divideCompletes :
    w03_49.live ∧
    ((w03_49.core 5).div = some { dest := 7, op := 1, wide := true, a := (7 : W64), b := (0 : W64), due := 5 : DivRec }) ∧
    ({ dest := 7, op := 1, wide := true, a := (7 : W64), b := (0 : W64), due := 5 : DivRec }.due ≤ w03_49.cclk) ∧
    w03_52.live ∧
    ((w03_52.core 5).div = some { dest := 7, op := 3, wide := true, a := (-7 : W64), b := (2 : W64), due := 5 : DivRec }) ∧
    (w03_52.cclk < { dest := 7, op := 3, wide := true, a := (-7 : W64), b := (2 : W64), due := 5 : DivRec }.due) ∧
    w03_230.live ∧
    ((w03_230.core 5).div = some { dest := 7, op := 2, wide := false, a := (8589934585 : W64), b := (2 : W64), due := 5 : DivRec }) ∧
    ({ dest := 7, op := 2, wide := false, a := (8589934585 : W64), b := (2 : W64), due := 5 : DivRec }.due ≤ w03_230.cclk) := by
  and_intros <;> decide +kernel
theorem witness_scalarAccessesComplete :
    w03_53.live ∧
    ((w03_53.core 5).loads = [loadOf 4194560 4 true]) ∧
    ((loadOf 4194560 4 true).split = false) ∧
    ((loadOf 4194560 4 true).low = none) ∧
    ((loadOf 4194560 4 true).high = none) ∧
    ((loadOf 4194560 4 true).bad = none) ∧
    ((loadOf 4194560 4 true).addr % 8 + (loadOf 4194560 4 true).size ≤ 8) ∧
    (bridgeHolds w03_53 (5 / 8 : Nat) (loadOf 4194560 4 true).addr (loadOf 4194560 4 true).size = false) ∧
    ((coreRead w03_53 5 (loadOf 4194560 4 true).level (loadOf 4194560 4 true).addr (loadOf 4194560 4 true).size Check.clean).2.1 = Resp.ok ∨ (coreRead w03_53 5 (loadOf 4194560 4 true).level (loadOf 4194560 4 true).addr (loadOf 4194560 4 true).size Check.clean).2.1 = Resp.decErr) ∧
    ((w03_53.core 5).sb = []) ∧
    w03_54.live ∧
    ((w03_54.core 5).loads = [loadOf 4194560 2 true]) ∧
    ((loadOf 4194560 2 true).split = false) ∧
    ((loadOf 4194560 2 true).low = none) ∧
    ((loadOf 4194560 2 true).high = none) ∧
    ((loadOf 4194560 2 true).bad = none) ∧
    ((loadOf 4194560 2 true).addr % 8 + (loadOf 4194560 2 true).size ≤ 8) ∧
    (bridgeHolds w03_54 (5 / 8 : Nat) (loadOf 4194560 2 true).addr (loadOf 4194560 2 true).size = false) ∧
    ((coreRead w03_54 5 (loadOf 4194560 2 true).level (loadOf 4194560 2 true).addr (loadOf 4194560 2 true).size Check.clean).2.1 = Resp.ownErr ∨ (coreRead w03_54 5 (loadOf 4194560 2 true).level (loadOf 4194560 2 true).addr (loadOf 4194560 2 true).size Check.clean).2.1 = Resp.datErr) ∧
    ((w03_54.core 5).sb = []) ∧
    w03_56.live ∧
    ((w03_56.core 5).sb = [{ addr := 4194561, bytes := [(5 : Byte), (0 : Byte)], level := 1, seqn := 0 : StoreRec }]) ∧
    ((w03_56.core 5).drainAt ≤ w03_56.cclk) ∧
    ((w03_56.core 5).loads = []) ∧
    ((w03_56.core 5).footHold { addr := 4194561, bytes := [(5 : Byte), (0 : Byte)], level := 1, seqn := 0 : StoreRec }.seqn { addr := 4194561, bytes := [(5 : Byte), (0 : Byte)], level := 1, seqn := 0 : StoreRec }.addr { addr := 4194561, bytes := [(5 : Byte), (0 : Byte)], level := 1, seqn := 0 : StoreRec }.bytes.length true = false) ∧
    (bridgeHolds w03_56 (5 / 8 : Nat) { addr := 4194561, bytes := [(5 : Byte), (0 : Byte)], level := 1, seqn := 0 : StoreRec }.addr { addr := 4194561, bytes := [(5 : Byte), (0 : Byte)], level := 1, seqn := 0 : StoreRec }.bytes.length = false) ∧
    w03_234.live ∧
    ((w03_234.core 5).loads = [w03_233]) ∧
    (w03_233.split = true) ∧
    (w03_233.low = none) ∧
    (w03_233.bad = none) ∧
    (8 < w03_233.addr % 8 + w03_233.size) ∧
    (bridgeHolds w03_234 (5 / 8 : Nat) w03_233.addr (8 - w03_233.addr % 8) = false) ∧
    (coreRead w03_234 5 w03_233.level w03_233.addr (8 - w03_233.addr % 8) Check.clean = ((coreRead w03_234 5 w03_233.level w03_233.addr (8 - w03_233.addr % 8) Check.clean).1, Resp.ok, (coreRead w03_234 5 w03_233.level w03_233.addr (8 - w03_233.addr % 8) Check.clean).2.2)) ∧
    (w03_233.high = none) ∧
    ((w03_234.core 5).sb = []) ∧
    w03_236.live ∧
    ((w03_236.core 5).loads = [w03_235]) ∧
    (w03_235.split = true) ∧
    (w03_235.low = none) ∧
    (w03_235.bad = none) ∧
    (8 < w03_235.addr % 8 + w03_235.size) ∧
    (bridgeHolds w03_236 (5 / 8 : Nat) w03_235.addr (8 - w03_235.addr % 8) = false) ∧
    (coreRead w03_236 5 w03_235.level w03_235.addr (8 - w03_235.addr % 8) Check.clean = ((coreRead w03_236 5 w03_235.level w03_235.addr (8 - w03_235.addr % 8) Check.clean).1, Resp.ok, (coreRead w03_236 5 w03_235.level w03_235.addr (8 - w03_235.addr % 8) Check.clean).2.2)) ∧
    (w03_235.high ≠ none) ∧
    ((w03_236.core 5).sb = []) := by
  and_intros <;> decide +kernel
theorem witness_lineFillBringsTheLine :
    w03_58.live ∧
    (coreLive w03_58 5 = true) ∧
    (missingWord w03_58 5 = some (4194304 : W64)) ∧
    (bridgeHolds w03_58 (5 / 8 : Nat) (fld (4194304 : W64) 6 42 * 64) 64 = false) ∧
    ((memRead (if tracked (if taints (target w03_58 (fld (4194304 : W64) 6 42 * 64)) = true then taintBy w03_58 5 (w03_58.core 5).level else w03_58) 5 = true then rrtRead (if taints (target w03_58 (fld (4194304 : W64) 6 42 * 64)) = true then taintBy w03_58 5 (w03_58.core 5).level else w03_58) 5 (fld (4194304 : W64) 6 42 * 64, fld (4194304 : W64) 6 42 * 64 + 63) else if taints (target w03_58 (fld (4194304 : W64) 6 42 * 64)) = true then taintBy w03_58 5 (w03_58.core 5).level else w03_58) (coreAgent (if tracked (if taints (target w03_58 (fld (4194304 : W64) 6 42 * 64)) = true then taintBy w03_58 5 (w03_58.core 5).level else w03_58) 5 = true then rrtRead (if taints (target w03_58 (fld (4194304 : W64) 6 42 * 64)) = true then taintBy w03_58 5 (w03_58.core 5).level else w03_58) 5 (fld (4194304 : W64) 6 42 * 64, fld (4194304 : W64) 6 42 * 64 + 63) else if taints (target w03_58 (fld (4194304 : W64) 6 42 * 64)) = true then taintBy w03_58 5 (w03_58.core 5).level else w03_58) 5 (w03_58.core 5).level) (fld (4194304 : W64) 6 42 * 64) 64 Check.clean).2.1 = Resp.ok) ∧
    w03_59.live ∧
    (coreLive w03_59 5 = true) ∧
    (missingWord w03_59 5 = some (4194304 : W64)) ∧
    (bridgeHolds w03_59 (5 / 8 : Nat) (fld (4194304 : W64) 6 42 * 64) 64 = false) ∧
    ((memRead (if tracked (if taints (target w03_59 (fld (4194304 : W64) 6 42 * 64)) = true then taintBy w03_59 5 (w03_59.core 5).level else w03_59) 5 = true then rrtRead (if taints (target w03_59 (fld (4194304 : W64) 6 42 * 64)) = true then taintBy w03_59 5 (w03_59.core 5).level else w03_59) 5 (fld (4194304 : W64) 6 42 * 64, fld (4194304 : W64) 6 42 * 64 + 63) else if taints (target w03_59 (fld (4194304 : W64) 6 42 * 64)) = true then taintBy w03_59 5 (w03_59.core 5).level else w03_59) (coreAgent (if tracked (if taints (target w03_59 (fld (4194304 : W64) 6 42 * 64)) = true then taintBy w03_59 5 (w03_59.core 5).level else w03_59) 5 = true then rrtRead (if taints (target w03_59 (fld (4194304 : W64) 6 42 * 64)) = true then taintBy w03_59 5 (w03_59.core 5).level else w03_59) 5 (fld (4194304 : W64) 6 42 * 64, fld (4194304 : W64) 6 42 * 64 + 63) else if taints (target w03_59 (fld (4194304 : W64) 6 42 * 64)) = true then taintBy w03_59 5 (w03_59.core 5).level else w03_59) 5 (w03_59.core 5).level) (fld (4194304 : W64) 6 42 * 64) 64 Check.clean).2.1 = (Resp.ownErr, 5).1) := by
  and_intros <;> decide +kernel
theorem witness_eventsAndWaits :
    w03_60.live ∧
    (List.find? (fun e => e.1 == 5 && eventFree w03_60 e) w03_60.events = some (5 : Nat × Nat)) ∧
    ((w03_60.core 5).wait ≠ CoreWait.wfe) ∧
    w03_62.live ∧
    ((w03_62.core 5).wait = CoreWait.wfe) ∧
    ((w03_62.core 5).latch = true) ∧
    ((w03_62.core 5).stepping = false) ∧
    w03_63.live ∧
    ((w03_63.core 5).wait = CoreWait.wfe) ∧
    ((w03_63.core 5).latch = false) ∧
    w03_90.live ∧
    ((w03_90.core 5).wait ≠ CoreWait.wfe) ∧
    (coreLive w03_90 5 = true) ∧
    (boundaryAct w03_90 5 = none) ∧
    ((w03_90.core 5).stepping = false) ∧
    ((w03_90.core 5).rpt = (0 : W32)) ∧
    ((w03_90.core 5).level ≠ 0 ∨ BitVec.getLsbD (w03_90.core 5).status 5 = true) ∧
    (fetchBundle (w03_90.setCore 5 w03_91) ((w03_90.setCore 5 w03_91).core 5) (w03_90.core 5).pc = Fetch.words [w32 (leNat (List.take 4 (List.drop (fld (w03_90.core 5).pc 0 6) { tag := 65536, bytes := List.flatMap (fun w => leBytes (BitVec.toNat w) 4) [xY 17 2 0] ++ zeroBytes (64 - 4 * [xY 17 2 0].length) : IbLine }.bytes)))]) ∧
    (fld (w32 (leNat (List.take 4 (List.drop (fld (w03_90.core 5).pc 0 6) { tag := 65536, bytes := List.flatMap (fun w => leBytes (BitVec.toNat w) 4) [xY 17 2 0] ++ zeroBytes (64 - 4 * [xY 17 2 0].length) : IbLine }.bytes)))) 28 3 = 5) ∧
    ((w03_90.core 5).gPending w03_90.cclk (fld (w32 (leNat (List.take 4 (List.drop (fld (w03_90.core 5).pc 0 6) { tag := 65536, bytes := List.flatMap (fun w => leBytes (BitVec.toNat w) 4) [xY 17 2 0] ++ zeroBytes (64 - 4 * [xY 17 2 0].length) : IbLine }.bytes)))) 18 5) = false) ∧
    ((w03_90.core 5).wait = CoreWait.waitax 0 ((w03_90.core 5).gr (fld (w32 (leNat (List.take 4 (List.drop (fld (w03_90.core 5).pc 0 6) { tag := 65536, bytes := List.flatMap (fun w => leBytes (BitVec.toNat w) 4) [xY 17 2 0] ++ zeroBytes (64 - 4 * [xY 17 2 0].length) : IbLine }.bytes)))) 18 5))) ∧
    (fld (w32 (leNat (List.take 4 (List.drop (fld (w03_90.core 5).pc 0 6) { tag := 65536, bytes := List.flatMap (fun w => leBytes (BitVec.toNat w) 4) [xY 17 2 0] ++ zeroBytes (64 - 4 * [xY 17 2 0].length) : IbLine }.bytes)))) 23 5 = 17) ∧
    (fld (w32 (leNat (List.take 4 (List.drop (fld (w03_90.core 5).pc 0 6) { tag := 65536, bytes := List.flatMap (fun w => leBytes (BitVec.toNat w) 4) [xY 17 2 0] ++ zeroBytes (64 - 4 * [xY 17 2 0].length) : IbLine }.bytes)))) 13 5 = 0) ∧
    (fld (w32 (leNat (List.take 4 (List.drop (fld (w03_90.core 5).pc 0 6) { tag := 65536, bytes := List.flatMap (fun w => leBytes (BitVec.toNat w) 4) [xY 17 2 0] ++ zeroBytes (64 - 4 * [xY 17 2 0].length) : IbLine }.bytes)))) 0 13 = 0) ∧
    w03_94.live ∧
    ((w03_94.core 5).wait ≠ CoreWait.wfe) ∧
    (coreLive w03_94 5 = true) ∧
    (boundaryAct w03_94 5 = none) ∧
    ((w03_94.core 5).stepping = false) ∧
    ((w03_94.core 5).rpt = (0 : W32)) ∧
    ((w03_94.core 5).level ≠ 0 ∨ BitVec.getLsbD (w03_94.core 5).status 5 = true) ∧
    (fetchBundle (w03_94.setCore 5 w03_95) ((w03_94.setCore 5 w03_95).core 5) (w03_94.core 5).pc = Fetch.words [w32 (leNat (List.take 4 (List.drop (fld (w03_94.core 5).pc 0 6) { tag := 65536, bytes := List.flatMap (fun w => leBytes (BitVec.toNat w) 4) [xY 18 2 0] ++ zeroBytes (64 - 4 * [xY 18 2 0].length) : IbLine }.bytes)))]) ∧
    (fld (w32 (leNat (List.take 4 (List.drop (fld (w03_94.core 5).pc 0 6) { tag := 65536, bytes := List.flatMap (fun w => leBytes (BitVec.toNat w) 4) [xY 18 2 0] ++ zeroBytes (64 - 4 * [xY 18 2 0].length) : IbLine }.bytes)))) 28 3 = 5) ∧
    ((w03_94.core 5).gPending w03_94.cclk (fld (w32 (leNat (List.take 4 (List.drop (fld (w03_94.core 5).pc 0 6) { tag := 65536, bytes := List.flatMap (fun w => leBytes (BitVec.toNat w) 4) [xY 18 2 0] ++ zeroBytes (64 - 4 * [xY 18 2 0].length) : IbLine }.bytes)))) 18 5) = false) ∧
    ((w03_94.core 5).wait = CoreWait.waitcy ((w03_94.core 5).gr (fld (w32 (leNat (List.take 4 (List.drop (fld (w03_94.core 5).pc 0 6) { tag := 65536, bytes := List.flatMap (fun w => leBytes (BitVec.toNat w) 4) [xY 18 2 0] ++ zeroBytes (64 - 4 * [xY 18 2 0].length) : IbLine }.bytes)))) 18 5))) ∧
    (fld (w32 (leNat (List.take 4 (List.drop (fld (w03_94.core 5).pc 0 6) { tag := 65536, bytes := List.flatMap (fun w => leBytes (BitVec.toNat w) 4) [xY 18 2 0] ++ zeroBytes (64 - 4 * [xY 18 2 0].length) : IbLine }.bytes)))) 23 5 = 18) ∧
    (fld (w32 (leNat (List.take 4 (List.drop (fld (w03_94.core 5).pc 0 6) { tag := 65536, bytes := List.flatMap (fun w => leBytes (BitVec.toNat w) 4) [xY 18 2 0] ++ zeroBytes (64 - 4 * [xY 18 2 0].length) : IbLine }.bytes)))) 0 18 = 0) := by
  and_intros <;> decide +kernel
theorem witness_groupStarts :
    w03_66.live ∧
    ((w03_66.core 5).halted = false) ∧
    (List.find? (fun x => !x.started && !x.released) (w03_66.core 5).viq = some w03_65) ∧
    ((w03_66.core 5).canStart w03_65.group = true) ∧
    ((((w03_66.core 5).members w03_65.group).any fun x => decide (x.p < x.vl)) = true) ∧
    (0 ≠ 5) ∧
    w03_68.live ∧
    ((w03_68.core 5).halted = false) ∧
    (List.find? (fun x => !x.started && !x.released) (w03_68.core 5).viq = some w03_67) ∧
    ((w03_68.core 5).canStart w03_67.group = true) ∧
    ((((w03_68.core 5).members w03_67.group).all fun x => decide (x.vl ≤ x.p)) = true) ∧
    w03_70.live ∧
    ((w03_70.core 5).halted = false) ∧
    (List.find? (fun x => !x.started && !x.released) (w03_70.core 5).viq = some w03_69) ∧
    ((w03_70.core 5).canStart w03_69.group = false) := by
  and_intros <;> decide +kernel
theorem witness_pipeResultCommits :
    w03_72.live ∧
    ((w03_72.core 5).halted = false) ∧
    (BitVec.getLsbD (w03_72.core 5).status 7 = false) ∧
    ((w03_72.core 5).pipeBusy w03_71 = false) ∧
    ((w03_72.core 5).viq[0]? = some w03_71) ∧
    (List.find? (fun u => u.seqn == w03_71.seqn) (w03_72.core 5).viq = some w03_71) ∧
    (w03_71.started = true) ∧
    (w03_71.released = false) ∧
    (w03_71.fault = none) ∧
    (w03_71.isMicro = false) ∧
    (w03_71.nxt < w03_71.vl) ∧
    (w03_71.nxt = w03_71.p) ∧
    (w03_71.dst = Opnd.cask 0 1) ∧
    ((w03_72.core 5).unit w03_71 = 1) ∧
    (∀ p ∈ w03_71.opnds, ∀ (l : Nat), p.2 ≠ Opnd.link l) ∧
    ((w03_72.core 5).storesHold ((w03_72.core 5).members w03_71.group) = false) ∧
    (w03_71.held = []) ∧
    (itemOf (w03_72.core 5) w03_71 w03_71.nxt = Item.done { writes := [{ ix := 0, val := (7 : W64) : EWrite }] : ERes }) ∧
    ({ writes := [{ ix := 0, val := (7 : W64) : EWrite }] : ERes }.writes = [{ ix := w03_71.nxt, val := (7 : W64) : EWrite }]) ∧
    ({ writes := [{ ix := 0, val := (7 : W64) : EWrite }] : ERes }.trap = false ∨ w03_71.exempt = true) ∧
    w03_75.live ∧
    ((w03_75.core 5).halted = false) ∧
    (BitVec.getLsbD (w03_75.core 5).status 7 = false) ∧
    ((w03_75.core 5).pipeBusy w03_74 = false) ∧
    ((w03_75.core 5).viq[0]? = some w03_74) ∧
    (List.find? (fun u => u.seqn == w03_74.seqn) (w03_75.core 5).viq = some w03_74) ∧
    (w03_74.started = true) ∧
    (w03_74.released = false) ∧
    (w03_74.fault = none) ∧
    (w03_74.isMicro = false) ∧
    (w03_74.nxt < w03_74.vl) ∧
    (w03_74.nxt = w03_74.p) ∧
    (w03_74.dst = Opnd.cask 0 1) ∧
    ((w03_75.core 5).unit w03_74 = 1) ∧
    (∀ p ∈ w03_74.opnds, ∀ (l : Nat), p.2 ≠ Opnd.link l) ∧
    ((w03_75.core 5).storesHold ((w03_75.core 5).members w03_74.group) = false) ∧
    (w03_74.held = []) ∧
    (itemOf (w03_75.core 5) w03_74 w03_74.nxt = Item.done { writes := [{ ix := 0, val := (2139095040 : W64) : EWrite }], flags := (20 : BitVec 9), trap := true : ERes }) ∧
    ({ writes := [{ ix := 0, val := (2139095040 : W64) : EWrite }], flags := (20 : BitVec 9), trap := true : ERes }.writes = [{ ix := w03_74.nxt, val := (2139095040 : W64) : EWrite }]) ∧
    (w03_74.exempt = false) := by
  and_intros <;> first | decide +kernel | simp [Vop.opnds, going, vopOf, w03_71, w03_73, w03_74]
theorem witness_microwordCountsAndBranches :
    w03_78.live ∧
    ((w03_78.core 5).halted = false) ∧
    (BitVec.getLsbD (w03_78.core 5).status 7 = false) ∧
    ((w03_78.core 5).microVop = some w03_77) ∧
    ((w03_78.core 5).pipeBusy w03_77 = false) ∧
    (w03_77.op = 111) ∧
    (w03_77.fault = none) ∧
    ((w03_78.core 5).micro = some micro0) ∧
    ((w03_78.core 5).storesHold (List.filter Vop.isMicro (w03_78.core 5).running) = false) ∧
    (micro0.queue = []) ∧
    (micro0.pdefs = []) ∧
    (micro0.stop = false) ∧
    (micro0.kept = []) ∧
    (isStreamO w03_77.mask = false) ∧
    (∀ u ∈ (w03_78.core 5).viq, u.seqn = w03_77.seqn → u = w03_77) ∧
    (∀ o ∈ micro0.outs, micro0.cyc ≤ o.1) ∧
    (fld (uWord w03_78 micro0.upc) 71 4 = 0) ∧
    (fld (uWord w03_78 micro0.upc) 87 4 = 0) ∧
    (fld (uWord w03_78 micro0.upc) 103 5 = 0) ∧
    (fld (uWord w03_78 micro0.upc) 116 4 = 0) ∧
    (fld (uWord w03_78 micro0.upc) 124 6 = 0) ∧
    (BitVec.getLsbD (uWord w03_78 micro0.upc) 130 = false) ∧
    (fld (uWord w03_78 micro0.upc) 145 2 = 0) ∧
    (BitVec.getLsbD (uWord w03_78 micro0.upc) 36 = false) ∧
    (fld (uWord w03_78 micro0.upc) 28 6 ≠ 14) ∧
    (fld (uWord w03_78 micro0.upc) 151 3 = (1, micro0.ec[fld (uWord w03_78 micro0.upc) 149 2]?.getD (0 : W32) + w32 (tyLanes w03_77.ty)).1) ∧
    (fld (uWord w03_78 micro0.upc) 28 6 = 1) ∧
    w03_79.live ∧
    ((w03_79.core 5).halted = false) ∧
    (BitVec.getLsbD (w03_79.core 5).status 7 = false) ∧
    ((w03_79.core 5).microVop = some w03_77) ∧
    ((w03_79.core 5).pipeBusy w03_77 = false) ∧
    ((w03_79.core 5).micro = some micro0) ∧
    ((w03_79.core 5).storesHold (List.filter Vop.isMicro (w03_79.core 5).running) = false) ∧
    (∀ u ∈ (w03_79.core 5).viq, u.seqn = w03_77.seqn → u = w03_77) ∧
    (fld (uWord w03_79 micro0.upc) 71 4 = 0) ∧
    (fld (uWord w03_79 micro0.upc) 87 4 = 0) ∧
    (fld (uWord w03_79 micro0.upc) 103 5 = 0) ∧
    (fld (uWord w03_79 micro0.upc) 116 4 = 0) ∧
    (fld (uWord w03_79 micro0.upc) 124 6 = 0) ∧
    (BitVec.getLsbD (uWord w03_79 micro0.upc) 130 = false) ∧
    (fld (uWord w03_79 micro0.upc) 145 2 = 0) ∧
    (BitVec.getLsbD (uWord w03_79 micro0.upc) 36 = false) ∧
    (fld (uWord w03_79 micro0.upc) 28 6 ≠ 14) ∧
    (fld (uWord w03_79 micro0.upc) 151 3 = (3, micro0.ec[fld (uWord w03_79 micro0.upc) 149 2]?.getD (0 : W32) + mwConst (uWord w03_79 micro0.upc)).1) ∧
    (fld (uWord w03_79 micro0.upc) 28 6 = 6 + 2) ∧
    w03_80.live ∧
    ((w03_80.core 5).halted = false) ∧
    (BitVec.getLsbD (w03_80.core 5).status 7 = false) ∧
    ((w03_80.core 5).microVop = some w03_77) ∧
    ((w03_80.core 5).pipeBusy w03_77 = false) ∧
    ((w03_80.core 5).micro = some micro0) ∧
    ((w03_80.core 5).storesHold (List.filter Vop.isMicro (w03_80.core 5).running) = false) ∧
    (∀ u ∈ (w03_80.core 5).viq, u.seqn = w03_77.seqn → u = w03_77) ∧
    (fld (uWord w03_80 micro0.upc) 71 4 = 0) ∧
    (fld (uWord w03_80 micro0.upc) 87 4 = 0) ∧
    (fld (uWord w03_80 micro0.upc) 103 5 = 0) ∧
    (fld (uWord w03_80 micro0.upc) 116 4 = 0) ∧
    (fld (uWord w03_80 micro0.upc) 124 6 = 0) ∧
    (BitVec.getLsbD (uWord w03_80 micro0.upc) 130 = false) ∧
    (fld (uWord w03_80 micro0.upc) 145 2 = 0) ∧
    (BitVec.getLsbD (uWord w03_80 micro0.upc) 36 = false) ∧
    (fld (uWord w03_80 micro0.upc) 28 6 ≠ 14) ∧
    (fld (uWord w03_80 micro0.upc) 151 3 = (0, micro0.ec[fld (uWord w03_80 micro0.upc) 149 2]?.getD (0 : W32)).1) ∧
    (fld (uWord w03_80 micro0.upc) 28 6 = 2 + 2) ∧
    w03_82.live ∧
    ((w03_82.core 5).halted = false) ∧
    (BitVec.getLsbD (w03_82.core 5).status 7 = false) ∧
    ((w03_82.core 5).microVop = some w03_77) ∧
    ((w03_82.core 5).pipeBusy w03_77 = false) ∧
    ((w03_82.core 5).micro = some micro0) ∧
    ((w03_82.core 5).storesHold (List.filter Vop.isMicro (w03_82.core 5).running) = false) ∧
    (∀ u ∈ (w03_82.core 5).viq, u.seqn = w03_77.seqn → u = w03_77) ∧
    (fld (uWord w03_82 micro0.upc) 71 4 = 0) ∧
    (fld (uWord w03_82 micro0.upc) 87 4 = 0) ∧
    (fld (uWord w03_82 micro0.upc) 103 5 = 0) ∧
    (fld (uWord w03_82 micro0.upc) 116 4 = 0) ∧
    (fld (uWord w03_82 micro0.upc) 124 6 = 0) ∧
    (BitVec.getLsbD (uWord w03_82 micro0.upc) 130 = false) ∧
    (fld (uWord w03_82 micro0.upc) 145 2 = 0) ∧
    (BitVec.getLsbD (uWord w03_82 micro0.upc) 36 = false) ∧
    (fld (uWord w03_82 micro0.upc) 28 6 ≠ 14) ∧
    (fld (uWord w03_82 micro0.upc) 151 3 = (4, mwConst (uWord w03_82 micro0.upc)).1) ∧
    (fld (uWord w03_82 micro0.upc) 28 6 = 10 + 0) ∧
    w03_83.live ∧
    ((w03_83.core 5).halted = false) ∧
    (BitVec.getLsbD (w03_83.core 5).status 7 = false) ∧
    ((w03_83.core 5).microVop = some w03_77) ∧
    ((w03_83.core 5).pipeBusy w03_77 = false) ∧
    ((w03_83.core 5).micro = some micro0) ∧
    ((w03_83.core 5).storesHold (List.filter Vop.isMicro (w03_83.core 5).running) = false) ∧
    (∀ u ∈ (w03_83.core 5).viq, u.seqn = w03_77.seqn → u = w03_77) ∧
    (fld (uWord w03_83 micro0.upc) 71 4 = 0) ∧
    (fld (uWord w03_83 micro0.upc) 87 4 = 0) ∧
    (fld (uWord w03_83 micro0.upc) 103 5 = 0) ∧
    (fld (uWord w03_83 micro0.upc) 116 4 = 0) ∧
    (fld (uWord w03_83 micro0.upc) 124 6 = 0) ∧
    (BitVec.getLsbD (uWord w03_83 micro0.upc) 130 = false) ∧
    (fld (uWord w03_83 micro0.upc) 145 2 = 0) ∧
    (BitVec.getLsbD (uWord w03_83 micro0.upc) 36 = false) ∧
    (fld (uWord w03_83 micro0.upc) 28 6 ≠ 14) ∧
    (fld (uWord w03_83 micro0.upc) 151 3 = (4, mwConst (uWord w03_83 micro0.upc)).1) ∧
    (fld (uWord w03_83 micro0.upc) 28 6 = 0) := by
  and_intros <;> decide +kernel
theorem witness_exceptionEntrySavesAndGoes :
    w03_84.live ∧
    (coreLive w03_84 5 = true) ∧
    (debugBoundary w03_84 5 = none) ∧
    (BitVec.getLsbD (regGet w03_84 RegName.dbgTrctl 0) 0 = false) ∧
    (BitVec.getLsbD (w03_84.core 5).status 4 = false) ∧
    (BitVec.getLsbD (w03_84.core 5).status 3 = false) ∧
    (BitVec.getLsbD (w03_84.core 5).evec 0 = true) ∧
    (BitVec.getLsbD (w03_84.core 5).evec 1 = false) ∧
    ((w03_84.core 5).late = [{ code := 18, addr := 4194560, exc := false, seqn := 1 : LateFault }]) ∧
    ({ code := 18, addr := 4194560, exc := false, seqn := 1 : LateFault }.code < 64) ∧
    ((w03_84.core 5).level ≠ 2) ∧
    ((w03_84.core 5).viq = []) ∧
    ((w03_84.core 5).vsrd = []) ∧
    ((w03_84.core 5).fprd = []) ∧
    ((w03_84.core 5).div = none) ∧
    ((w03_84.core 5).stepping = false) := by
  and_intros <;> decide +kernel
theorem witness_interruptTakeEntersTheHandler :
    w03_85.live ∧
    (coreLive w03_85 5 = true) ∧
    (debugBoundary w03_85 5 = none) ∧
    (BitVec.getLsbD (regGet w03_85 RegName.dbgTrctl 0) 0 = false) ∧
    (BitVec.getLsbD (w03_85.core 5).status 4 = false) ∧
    (BitVec.getLsbD (w03_85.core 5).evec 0 = true) ∧
    (BitVec.getLsbD (w03_85.core 5).evec 1 = false) ∧
    ((w03_85.core 5).late = []) ∧
    ((w03_85.core 5).viq = []) ∧
    ((w03_85.core 5).vsrd = []) ∧
    ((w03_85.core 5).fprd = []) ∧
    ((w03_85.core 5).div = none) ∧
    ((w03_85.core 5).stepping = false) ∧
    ((w03_85.core 5).wait = CoreWait.none) ∧
    (takeable w03_85 5 = some (nat_lit 1)) ∧
    (0 < nat_lit 1) ∧
    w03_86.live ∧
    (coreLive w03_86 5 = true) ∧
    (debugBoundary w03_86 5 = none) ∧
    (BitVec.getLsbD (regGet w03_86 RegName.dbgTrctl 0) 0 = false) ∧
    (BitVec.getLsbD (w03_86.core 5).status 4 = false) ∧
    (BitVec.getLsbD (w03_86.core 5).evec 0 = true) ∧
    (BitVec.getLsbD (w03_86.core 5).evec 1 = false) ∧
    ((w03_86.core 5).late = []) ∧
    ((w03_86.core 5).viq = []) ∧
    ((w03_86.core 5).vsrd = []) ∧
    ((w03_86.core 5).fprd = []) ∧
    ((w03_86.core 5).div = none) ∧
    ((w03_86.core 5).stepping = false) ∧
    ((w03_86.core 5).wait = CoreWait.none) ∧
    (takeable w03_86 5 = none) := by
  and_intros <;> decide +kernel
theorem witness_shieldAndSoftwareInterrupts :
    w03_87.live ∧
    (BitVec.getLsbD (w03_87.core 5).status 4 = true) ∧
    ((w03_87.core 5).halted = false) ∧
    (0 < (w03_87.core 5).shieldEnd) ∧
    ((w03_87.core 5).shieldEnd ≤ w03_87.cclk) ∧
    (w03_87.serves RegName.rowIswi 5) ∧
    (0 < 64) ∧
    (0 ≠ 5) ∧
    w03_88.live ∧
    (BitVec.getLsbD (w03_88.core 5).status 4 = false ∨ (w03_88.core 5).halted = true ∨ w03_88.cclk < (w03_88.core 5).shieldEnd) ∧
    (w03_88.serves RegName.rowIswi 5) := by
  and_intros <;> decide +kernel
theorem witness_multiplyAndDivideIssue :
    w03_100.live ∧
    (Claims.bundleReady w03_101 5 [bY 36 7 2 4]) ∧
    (∀ e ∈ w03_101.cores, e.2.stopDue = none) ∧
    (fld (bY 36 7 2 4) 28 3 = 1) ∧
    (fld (bY 36 7 2 4) 0 7 = 0) ∧
    ((w03_101.core 5).rpt = (0 : W32)) ∧
    (∀ r ∈ [fld (bY 36 7 2 4) 17 5, fld (bY 36 7 2 4) 17 5 + 1, fld (bY 36 7 2 4) 12 5, fld (bY 36 7 2 4) 7 5], (w03_101.core 5).gPending w03_101.cclk r = false) ∧
    (fld (bY 36 7 2 4) 22 6 = (36, (w03_101.core 5).gr (fld (bY 36 7 2 4) 12 5) * (w03_101.core 5).gr (fld (bY 36 7 2 4) 7 5)).1) ∧
    w03_106.live ∧
    (Claims.bundleReady w03_107 5 [bY 38 8 2 2]) ∧
    (∀ e ∈ w03_107.cores, e.2.stopDue = none) ∧
    (fld (bY 38 8 2 2) 28 3 = 1) ∧
    (fld (bY 38 8 2 2) 0 7 = 0) ∧
    ((w03_107.core 5).rpt = (0 : W32)) ∧
    (∀ r ∈ [fld (bY 38 8 2 2) 17 5, fld (bY 38 8 2 2) 17 5 + 1, fld (bY 38 8 2 2) 12 5, fld (bY 38 8 2 2) 7 5], (w03_107.core 5).gPending w03_107.cclk r = false) ∧
    (fld (bY 38 8 2 2) 17 5 % 2 = 0) ∧
    (fld (bY 38 8 2 2) 17 5 ≠ 0) ∧
    (fld (bY 38 8 2 2) 22 6 = (38, BitVec.setWidth 128 ((w03_107.core 5).gr (fld (bY 38 8 2 2) 12 5)) * BitVec.setWidth 128 ((w03_107.core 5).gr (fld (bY 38 8 2 2) 7 5))).1) ∧
    w03_110.live ∧
    (Claims.bundleReady w03_111 5 [bY 40 7 2 3]) ∧
    (∀ e ∈ w03_111.cores, e.2.stopDue = none) ∧
    (fld (bY 40 7 2 3) 28 3 = 1) ∧
    (fld (bY 40 7 2 3) 0 7 = 0) ∧
    ((w03_111.core 5).rpt = (0 : W32)) ∧
    (∀ r ∈ [fld (bY 40 7 2 3) 17 5, fld (bY 40 7 2 3) 17 5 + 1, fld (bY 40 7 2 3) 12 5, fld (bY 40 7 2 3) 7 5], (w03_111.core 5).gPending w03_111.cclk r = false) ∧
    (fld (bY 40 7 2 3) 22 6 = 40 + 0) ∧
    ((w03_111.core 5).div = none) ∧
    (BitVec.getLsbD (w03_111.core 5).status 6 = false ∨ fld ((w03_111.core 5).gr (fld (bY 40 7 2 3) 7 5)) 0 (if 0 < 4 then 64 else 32) ≠ 0) ∧
    w03_118.live ∧
    (Claims.bundleReady w03_119 5 [bY 44 7 2 6]) ∧
    (∀ e ∈ w03_119.cores, e.2.stopDue = none) ∧
    (fld (bY 44 7 2 6) 28 3 = 1) ∧
    (fld (bY 44 7 2 6) 0 7 = 0) ∧
    ((w03_119.core 5).rpt = (0 : W32)) ∧
    (∀ r ∈ [fld (bY 44 7 2 6) 17 5, fld (bY 44 7 2 6) 17 5 + 1, fld (bY 44 7 2 6) 12 5, fld (bY 44 7 2 6) 7 5], (w03_119.core 5).gPending w03_119.cclk r = false) ∧
    (fld (bY 44 7 2 6) 22 6 = 40 + 4) ∧
    ((w03_119.core 5).div = none) ∧
    (BitVec.getLsbD (w03_119.core 5).status 6 = true) ∧
    (fld ((w03_119.core 5).gr (fld (bY 44 7 2 6) 7 5)) 0 (if 4 < 4 then 64 else 32) = 0) ∧
    (Claims.handlerOpen w03_119 (w03_119.core 5)) := by
  and_intros <;> decide +kernel
theorem witness_controlRegisterBundles :
    w03_122.live ∧
    (Claims.bundleReady w03_123 5 [xC 8 2 7]) ∧
    (∀ e ∈ w03_123.cores, e.2.stopDue = none) ∧
    (fld (xC 8 2 7) 28 3 = 5) ∧
    (fld (xC 8 2 7) 0 10 = 0) ∧
    ((w03_123.core 5).rpt = (0 : W32)) ∧
    ((w03_123.core 5).gPending w03_123.cclk (fld (xC 8 2 7) 18 5) = false) ∧
    ((w03_123.core 5).viq = []) ∧
    ((w03_123.core 5).vsrd = []) ∧
    ((w03_123.core 5).fprd = []) ∧
    (fld (xC 8 2 7) 23 5 = 8) ∧
    (fld (xC 8 2 7) 10 8 = (2, (w03_123.core 5).epc).1) ∧
    ((w03_123.core 5).level ≠ 0 ∨ (2, (w03_123.core 5).epc).1 ∈ [8, 9, 12]) ∧
    w03_128.live ∧
    (Claims.bundleReady w03_129 5 [xC 8 10 7]) ∧
    (∀ e ∈ w03_129.cores, e.2.stopDue = none) ∧
    (fld (xC 8 10 7) 28 3 = 5) ∧
    (fld (xC 8 10 7) 0 10 = 0) ∧
    ((w03_129.core 5).rpt = (0 : W32)) ∧
    ((w03_129.core 5).gPending w03_129.cclk (fld (xC 8 10 7) 18 5) = false) ∧
    ((w03_129.core 5).viq = []) ∧
    ((w03_129.core 5).vsrd = []) ∧
    ((w03_129.core 5).fprd = []) ∧
    (fld (xC 8 10 7) 23 5 = 8) ∧
    (fld (xC 8 10 7) 10 8 = (10, w64 w03_129.cclk).1) ∧
    w03_134.live ∧
    (Claims.bundleReady w03_135 5 [xC 8 0 7]) ∧
    (∀ e ∈ w03_135.cores, e.2.stopDue = none) ∧
    (fld (xC 8 0 7) 28 3 = 5) ∧
    (fld (xC 8 0 7) 0 10 = 0) ∧
    ((w03_135.core 5).rpt = (0 : W32)) ∧
    ((w03_135.core 5).gPending w03_135.cclk (fld (xC 8 0 7) 18 5) = false) ∧
    ((w03_135.core 5).viq = []) ∧
    ((w03_135.core 5).vsrd = []) ∧
    ((w03_135.core 5).fprd = []) ∧
    (fld (xC 8 0 7) 23 5 = 8 ∨ fld (xC 8 0 7) 23 5 = 9) ∧
    ((w03_135.core 5).level = 0) ∧
    (Claims.handlerOpen w03_135 (w03_135.core 5)) ∧
    w03_136.live ∧
    (Claims.bundleReady w03_137 5 [xC 9 2 4]) ∧
    (∀ e ∈ w03_137.cores, e.2.stopDue = none) ∧
    (fld (xC 9 2 4) 28 3 = 5) ∧
    (fld (xC 9 2 4) 0 10 = 0) ∧
    ((w03_137.core 5).rpt = (0 : W32)) ∧
    ((w03_137.core 5).gPending w03_137.cclk (fld (xC 9 2 4) 18 5) = false) ∧
    ((w03_137.core 5).viq = []) ∧
    ((w03_137.core 5).vsrd = []) ∧
    ((w03_137.core 5).fprd = []) ∧
    (fld (xC 9 2 4) 23 5 = 9) ∧
    (fld (xC 9 2 4) 10 8 = (2, w03_138).1) ∧
    ((w03_137.core 5).level ≠ 0) ∧
    w03_142.live ∧
    (Claims.bundleReady w03_143 5 [xC 9 8 4]) ∧
    (∀ e ∈ w03_143.cores, e.2.stopDue = none) ∧
    (fld (xC 9 8 4) 28 3 = 5) ∧
    (fld (xC 9 8 4) 0 10 = 0) ∧
    ((w03_143.core 5).rpt = (0 : W32)) ∧
    ((w03_143.core 5).gPending w03_143.cclk (fld (xC 9 8 4) 18 5) = false) ∧
    ((w03_143.core 5).viq = []) ∧
    ((w03_143.core 5).vsrd = []) ∧
    ((w03_143.core 5).fprd = []) ∧
    (fld (xC 9 8 4) 23 5 = 9) ∧
    (fld (xC 9 8 4) 10 8 = 8) ∧
    w03_144.live ∧
    (Claims.bundleReady w03_145 5 [xC 9 32 4]) ∧
    (∀ e ∈ w03_145.cores, e.2.stopDue = none) ∧
    (fld (xC 9 32 4) 28 3 = 5) ∧
    (fld (xC 9 32 4) 0 10 = 0) ∧
    ((w03_145.core 5).rpt = (0 : W32)) ∧
    ((w03_145.core 5).gPending w03_145.cclk (fld (xC 9 32 4) 18 5) = false) ∧
    ((w03_145.core 5).viq = []) ∧
    ((w03_145.core 5).vsrd = []) ∧
    ((w03_145.core 5).fprd = []) ∧
    (fld (xC 9 32 4) 23 5 = 9) ∧
    ((w03_145.core 5).level ≠ 0) ∧
    (fld (xC 9 32 4) 10 8 = 32 + 0) ∧
    w03_146.live ∧
    (Claims.bundleReady w03_147 5 [xC 9 63 4]) ∧
    (∀ e ∈ w03_147.cores, e.2.stopDue = none) ∧
    (fld (xC 9 63 4) 28 3 = 5) ∧
    (fld (xC 9 63 4) 0 10 = 0) ∧
    ((w03_147.core 5).rpt = (0 : W32)) ∧
    ((w03_147.core 5).gPending w03_147.cclk (fld (xC 9 63 4) 18 5) = false) ∧
    ((w03_147.core 5).viq = []) ∧
    ((w03_147.core 5).vsrd = []) ∧
    ((w03_147.core 5).fprd = []) ∧
    (fld (xC 9 63 4) 23 5 = 9) ∧
    ((w03_147.core 5).level ≠ 0) ∧
    (fld (xC 9 63 4) 10 8 = 48 + 15) ∧
    w03_149.live ∧
    (Claims.bundleReady w03_150 5 [xC 9 0 8]) ∧
    (∀ e ∈ w03_150.cores, e.2.stopDue = none) ∧
    (fld (xC 9 0 8) 28 3 = 5) ∧
    (fld (xC 9 0 8) 0 10 = 0) ∧
    ((w03_150.core 5).rpt = (0 : W32)) ∧
    ((w03_150.core 5).gPending w03_150.cclk (fld (xC 9 0 8) 18 5) = false) ∧
    ((w03_150.core 5).viq = []) ∧
    ((w03_150.core 5).vsrd = []) ∧
    ((w03_150.core 5).fprd = []) ∧
    (fld (xC 9 0 8) 23 5 = 9) ∧
    (fld (xC 9 0 8) 10 8 = (0, w03_151).1) ∧
    ((w03_150.core 5).level = 1) ∧
    (fld ((w03_150.core 5).gr (fld (xC 9 0 8) 18 5)) 0 2 = 0) ∧
    (BitVec.getLsbD ((w03_150.core 5).gr (fld (xC 9 0 8) 18 5)) 4 = false) ∧
    w03_160.live ∧
    (Claims.bundleReady w03_161 5 [xC 9 9 3]) ∧
    (∀ e ∈ w03_161.cores, e.2.stopDue = none) ∧
    (fld (xC 9 9 3) 28 3 = 5) ∧
    (fld (xC 9 9 3) 0 10 = 0) ∧
    ((w03_161.core 5).rpt = (0 : W32)) ∧
    ((w03_161.core 5).gPending w03_161.cclk (fld (xC 9 9 3) 18 5) = false) ∧
    ((w03_161.core 5).viq = []) ∧
    ((w03_161.core 5).vsrd = []) ∧
    ((w03_161.core 5).fprd = []) ∧
    (fld (xC 9 9 3) 23 5 = 9) ∧
    (fld (xC 9 9 3) 10 8 = 9) ∧
    (fld ((w03_161.core 5).gr (fld (xC 9 9 3) 18 5)) 0 3 < 5) := by
  and_intros <;> decide +kernel
theorem witness_systemBundles :
    w03_164.live ∧
    (Claims.bundleReady w03_165 5 [xY 10 0 77]) ∧
    (∀ e ∈ w03_165.cores, e.2.stopDue = none) ∧
    (fld (xY 10 0 77) 28 3 = 5) ∧
    (fld (xY 10 0 77) 16 7 = 0) ∧
    ((w03_165.core 5).rpt = (0 : W32)) ∧
    ((w03_165.core 5).div = none) ∧
    (fld (xY 10 0 77) 23 5 = 10) ∧
    ((w03_165.core 5).level = 0) ∧
    (Claims.handlerOpen w03_165 (w03_165.core 5)) ∧
    w03_166.live ∧
    (Claims.bundleReady w03_167 5 [xY 10 0 77]) ∧
    (∀ e ∈ w03_167.cores, e.2.stopDue = none) ∧
    ((w03_167.core 5).rpt = (0 : W32)) ∧
    ((w03_167.core 5).div = none) ∧
    ((w03_167.core 5).level = 1) ∧
    (fld (xY 10 0 77) 0 16 ≠ 65280) ∧
    (BitVec.getLsbD (regGet w03_167 RegName.dbgTrctl 0) 0 = false) ∧
    w03_168.live ∧
    (Claims.bundleReady w03_169 5 [xY 11 0 77]) ∧
    (∀ e ∈ w03_169.cores, e.2.stopDue = none) ∧
    (fld (xY 11 0 77) 28 3 = 5) ∧
    (fld (xY 11 0 77) 16 7 = 0) ∧
    ((w03_169.core 5).rpt = (0 : W32)) ∧
    ((w03_169.core 5).div = none) ∧
    (fld (xY 11 0 77) 23 5 = 11) ∧
    (BitVec.getLsbD (regGet w03_169 RegName.dbgCtrl 5) 3 = false) ∧
    (Claims.handlerOpen w03_169 (w03_169.core 5)) ∧
    w03_170.live ∧
    (Claims.bundleReady w03_171 5 [xY 12 0 0]) ∧
    (∀ e ∈ w03_171.cores, e.2.stopDue = none) ∧
    (fld (xY 12 0 0) 28 3 = 5) ∧
    (fld (xY 12 0 0) 16 7 = 0) ∧
    ((w03_171.core 5).rpt = (0 : W32)) ∧
    ((w03_171.core 5).div = none) ∧
    (fld (xY 12 0 0) 23 5 = 12) ∧
    (fld (xY 12 0 0) 0 16 = 0) ∧
    ((w03_171.core 5).level = 0) ∧
    (Claims.handlerOpen w03_171 (w03_171.core 5)) ∧
    w03_172.live ∧
    (Claims.bundleReady w03_173 5 [xY 12 0 0]) ∧
    (∀ e ∈ w03_173.cores, e.2.stopDue = none) ∧
    ((w03_173.core 5).rpt = (0 : W32)) ∧
    ((w03_173.core 5).div = none) ∧
    ((w03_173.core 5).level ≠ 0) ∧
    (levelOf (w03_173.core 5).estatus ≤ (w03_173.core 5).level) ∧
    ((w03_173.core 5).viq = []) ∧
    ((w03_173.core 5).vsrd = []) ∧
    ((w03_173.core 5).fprd = []) ∧
    (BitVec.getLsbD (w03_173.core 5).status 7 = false) ∧
    ((w03_173.core 5).jendBack = none) ∧
    (BitVec.getLsbD (w03_173.core 5).estatus 4 = true → 0 < (w03_173.core 5).shieldHeld) := by
  and_intros <;> decide +kernel
theorem witness_loopAndEventBundles :
    w03_176.live ∧
    (Claims.bundleReady w03_177 5 [xY 7 0 9]) ∧
    (∀ e ∈ w03_177.cores, e.2.stopDue = none) ∧
    (fld (xY 7 0 9) 28 3 = 5) ∧
    ((w03_177.core 5).rpt = (0 : W32)) ∧
    ((w03_177.core 5).gPending w03_177.cclk (fld (xY 7 0 9) 18 5) = false) ∧
    (fld (xY 7 0 9) 23 5 = 7) ∧
    (fld (xY 7 0 9) 16 6 = 0) ∧
    ((if BitVec.getLsbD (xY 7 0 9) 22 = true then (w03_177.core 5).lc else w32 (fld (xY 7 0 9) 0 16)) ≠ (0 : W32)) ∧
    w03_182.live ∧
    (Claims.bundleReady w03_183 5 [xY 7 0 0]) ∧
    (∀ e ∈ w03_183.cores, e.2.stopDue = none) ∧
    (fld (xY 7 0 0) 28 3 = 5) ∧
    ((w03_183.core 5).rpt = (0 : W32)) ∧
    ((w03_183.core 5).gPending w03_183.cclk (fld (xY 7 0 0) 18 5) = false) ∧
    (fld (xY 7 0 0) 23 5 = 7) ∧
    (fld (xY 7 0 0) 16 6 = 0) ∧
    ((if BitVec.getLsbD (xY 7 0 0) 22 = true then (w03_183.core 5).lc else w32 (fld (xY 7 0 0) 0 16)) = (0 : W32)) ∧
    (fetchBundle w03_183 (Claims.onward (w03_183.core 5) w03_183.cclk) ((w03_183.core 5).pc + (4 : W64)) = Fetch.words ([] ++ [w32 (leNat (List.take 4 (List.drop (fld ((w03_183.core 5).pc + (4 : W64)) 0 6) { tag := 65536, bytes := List.flatMap (fun w => leBytes (BitVec.toNat w) 4) [xY 7 0 0, iY 0 7 2 3] ++ zeroBytes (64 - 4 * [xY 7 0 0, iY 0 7 2 3].length) : IbLine }.bytes)))])) ∧
    w03_184.live ∧
    (Claims.bundleReady w03_185 5 [xY 2 0 262143]) ∧
    (∀ e ∈ w03_185.cores, e.2.stopDue = none) ∧
    (fld (xY 2 0 262143) 28 3 = 5) ∧
    ((w03_185.core 5).rpt = (0 : W32)) ∧
    ((w03_185.core 5).gPending w03_185.cclk (fld (xY 2 0 262143) 18 5) = false) ∧
    (fld (xY 2 0 262143) 23 5 = 2) ∧
    (fld (xY 2 0 262143) 18 5 = 0) ∧
    w03_188.live ∧
    (Claims.bundleReady w03_189 5 [xY 14 0 0]) ∧
    (∀ e ∈ w03_189.cores, e.2.stopDue = none) ∧
    (fld (xY 14 0 0) 28 3 = 5) ∧
    ((w03_189.core 5).rpt = (0 : W32)) ∧
    ((w03_189.core 5).gPending w03_189.cclk (fld (xY 14 0 0) 18 5) = false) ∧
    (fld (xY 14 0 0) 23 5 = 14) ∧
    (fld (xY 14 0 0) 0 23 = 0) ∧
    w03_192.live ∧
    (Claims.bundleReady w03_193 5 [xY 13 0 0]) ∧
    (∀ e ∈ w03_193.cores, e.2.stopDue = none) ∧
    (fld (xY 13 0 0) 28 3 = 5) ∧
    ((w03_193.core 5).rpt = (0 : W32)) ∧
    ((w03_193.core 5).gPending w03_193.cclk (fld (xY 13 0 0) 18 5) = false) ∧
    (fld (xY 13 0 0) 23 5 = 13) ∧
    (fld (xY 13 0 0) 0 23 = 0) ∧
    ((w03_193.core 5).viq = []) ∧
    ((w03_193.core 5).job = some 3) ∧
    (inOrder w03_193 5 = true) ∧
    ((w03_193.core 5).links = []) ∧
    (BitVec.getLsbD (regGet w03_193 RegName.dbgTrctl 0) 0 = false) ∧
    (0 ≠ 5) ∧
    w03_194.live ∧
    (Claims.bundleReady w03_195 5 [xY 13 0 0]) ∧
    (∀ e ∈ w03_195.cores, e.2.stopDue = none) ∧
    ((w03_195.core 5).rpt = (0 : W32)) ∧
    ((w03_195.core 5).gPending w03_195.cclk (fld (xY 13 0 0) 18 5) = false) ∧
    ((w03_195.core 5).viq = []) ∧
    (inOrder w03_195 5 = false) ∧
    w03_196.live ∧
    (Claims.bundleReady w03_197 5 [xY 16 2 0]) ∧
    (∀ e ∈ w03_197.cores, e.2.stopDue = none) ∧
    (fld (xY 16 2 0) 28 3 = 5) ∧
    ((w03_197.core 5).rpt = (0 : W32)) ∧
    ((w03_197.core 5).gPending w03_197.cclk (fld (xY 16 2 0) 18 5) = false) ∧
    ((w03_197.core 5).level ≠ 0 ∨ BitVec.getLsbD (w03_197.core 5).status 5 = true) ∧
    (fld (xY 16 2 0) 23 5 = 16) ∧
    (fld (xY 16 2 0) 0 18 = 0) ∧
    (inOrder w03_197 5 = true) ∧
    w03_198.live ∧
    (Claims.bundleReady w03_199 5 [xY 16 2 0]) ∧
    (∀ e ∈ w03_199.cores, e.2.stopDue = none) ∧
    ((w03_199.core 5).rpt = (0 : W32)) ∧
    ((w03_199.core 5).gPending w03_199.cclk (fld (xY 16 2 0) 18 5) = false) ∧
    ((w03_199.core 5).level ≠ 0 ∨ BitVec.getLsbD (w03_199.core 5).status 5 = true) ∧
    (inOrder w03_199 5 = false) ∧
    w03_205.live ∧
    (Claims.bundleReady w03_206 5 [xY 15 0 0]) ∧
    (∀ e ∈ w03_206.cores, e.2.stopDue = none) ∧
    (fld (xY 15 0 0) 28 3 = 5) ∧
    ((w03_206.core 5).rpt = (0 : W32)) ∧
    ((w03_206.core 5).gPending w03_206.cclk (fld (xY 15 0 0) 18 5) = false) ∧
    ((w03_206.core 5).level ≠ 0 ∨ BitVec.getLsbD (w03_206.core 5).status 5 = true) ∧
    (fld (xY 15 0 0) 23 5 = 15) ∧
    (fld (xY 15 0 0) 0 23 = 0) := by
  and_intros <;> decide +kernel
theorem witness_vectorBundles :
    w03_210.live ∧
    (∀ e ∈ w03_211.cores, e.2.stopDue = none) ∧
    (fld (vY 8 4 128 129 false) 28 3 = 3) ∧
    ((w03_211.core 5).rpt = (0 : W32)) ∧
    (BitVec.getLsbD (w03_211.core 5).status 7 = false) ∧
    (Claims.bundleReady w03_211 5 ([vY 8 4 128 129 false], false, xDefault).1) ∧
    (isVecOp (vY 8 4 128 129 false) = true) ∧
    (BitVec.getLsbD (vY 8 4 128 129 false) 16 = ([vY 8 4 128 129 false], false, xDefault).2.1) ∧
    (([vY 8 4 128 129 false], false, xDefault).2.1 = true → fld (w32 (3221225472 + 130 * 2 ^ 20 + 64 * 2 ^ 12 + 64 * 2 ^ 4)) 28 3 = 4) ∧
    ((w03_211.core 5).viqUsed < 32) ∧
    (∀ r ∈ sylReads (vY 8 4 128 129 false) ++ sylWrites (vY 8 4 128 129 false), (w03_211.core 5).gPending w03_211.cclk r = false) ∧
    (vecAt ((w03_211.core 5).touch (w03_211.core 5).pc ([vY 8 4 128 129 false], false, xDefault).1.length) ([vY 8 4 128 129 false], false, xDefault).1 (vY 8 4 128 129 false) = VIssue.ok w03_209) ∧
    w03_216.live ∧
    (∀ e ∈ w03_217.cores, e.2.stopDue = none) ∧
    (fld (vY 124 0 64 64 false) 28 3 = 3) ∧
    ((w03_217.core 5).rpt = (0 : W32)) ∧
    (BitVec.getLsbD (w03_217.core 5).status 7 = false) ∧
    (Claims.bundleReady w03_217 5 [vY 124 0 64 64 false]) ∧
    (fld (vY 124 0 64 64 false) 21 7 = 124) ∧
    (saveIllegal (vY 124 0 64 64 false) = none) ∧
    ((w03_217.core 5).level ≠ 0) ∧
    ((w03_217.core 5).viq = []) ∧
    ((w03_217.core 5).vsrd = []) ∧
    ((w03_217.core 5).fprd = []) ∧
    ((w03_217.core 5).sb = []) ∧
    (vsaveFault w03_217 (w03_217.core 5) = none) ∧
    (bridgeHolds w03_217 (5 / 8 : Nat) (BitVec.toNat (w03_217.core 5).vctx) 9536 = false) ∧
    w03_220.live ∧
    (∀ e ∈ w03_222.cores, e.2.stopDue = none) ∧
    (fld (w32 (805306368 + 125 * 2 ^ 21 + 64 * 256 + 64)) 28 3 = 3) ∧
    ((w03_222.core 5).rpt = (0 : W32)) ∧
    (BitVec.getLsbD (w03_222.core 5).status 7 = false) ∧
    (Claims.bundleReady w03_222 5 [w32 (805306368 + 125 * 2 ^ 21 + 64 * 256 + 64), xY 12 0 0]) ∧
    (fld (w32 (805306368 + 125 * 2 ^ 21 + 64 * 256 + 64)) 21 7 = 125) ∧
    (saveIllegal (w32 (805306368 + 125 * 2 ^ 21 + 64 * 256 + 64)) = none) ∧
    (fld (xY 12 0 0) 28 3 = 5) ∧
    (fld (xY 12 0 0) 23 5 = 12) ∧
    (fld (xY 12 0 0) 0 23 = 0) ∧
    ((w03_222.core 5).level ≠ 0) ∧
    (levelOf (w03_222.core 5).estatus ≤ (w03_222.core 5).level) ∧
    ((w03_222.core 5).viq = []) ∧
    ((w03_222.core 5).sb = []) ∧
    (BitVec.getLsbD (w03_222.core 5).edivd 63 = false) ∧
    (bridgeHolds w03_222 (5 / 8 : Nat) (BitVec.toNat (w03_222.core 5).vctx) 9536 = false) ∧
    ((Claims.loaded (vrestoreDo (w03_222.setCore 5 ((w03_222.core 5).touch (w03_222.core 5).pc 2)) 5 (levelOf (w03_222.core 5).estatus) (levelOf (w03_222.core 5).estatus == 0 || levelOf (w03_222.core 5).estatus == 1 && !(List.drop 1 (w03_222.core 5).hstack).any id) { cclk := 9 : Pace }.chk).2).isSome = true) ∧
    w03_227.live ∧
    (∀ e ∈ w03_228.cores, e.2.stopDue = none) ∧
    ((w03_228.core 5).rpt = (0 : W32)) ∧
    (BitVec.getLsbD (w03_228.core 5).status 7 = false) ∧
    (Claims.bundleReady w03_228 5 [w32 (805306368 + 125 * 2 ^ 21 + 64 * 256 + 64), xY 12 0 0]) ∧
    ((w03_228.core 5).level ≠ 0) ∧
    (levelOf (w03_228.core 5).estatus ≤ (w03_228.core 5).level) ∧
    ((w03_228.core 5).viq = []) ∧
    ((w03_228.core 5).sb = []) ∧
    (BitVec.getLsbD (w03_228.core 5).edivd 63 = false) ∧
    (bridgeHolds w03_228 (5 / 8 : Nat) (BitVec.toNat (w03_228.core 5).vctx) 9536 = false) ∧
    (Claims.failsAt (vrestoreDo (w03_228.setCore 5 ((w03_228.core 5).touch (w03_228.core 5).pc 2)) 5 (levelOf (w03_228.core 5).estatus) (levelOf (w03_228.core 5).estatus == 0 || levelOf (w03_228.core 5).estatus == 1 && !(List.drop 1 (w03_228.core 5).hstack).any id) { cclk := 9 : Pace }.chk).2 = some 0) ∧
    (Claims.handlerOpen (vrestoreDo (w03_228.setCore 5 ((w03_228.core 5).touch (w03_228.core 5).pc 2)) 5 (levelOf (w03_228.core 5).estatus) (levelOf (w03_228.core 5).estatus == 0 || levelOf (w03_228.core 5).estatus == 1 && !(List.drop 1 (w03_228.core 5).hstack).any id) { cclk := 9 : Pace }.chk).1 ((vrestoreDo (w03_228.setCore 5 ((w03_228.core 5).touch (w03_228.core 5).pc 2)) 5 (levelOf (w03_228.core 5).estatus) (levelOf (w03_228.core 5).estatus == 0 || levelOf (w03_228.core 5).estatus == 1 && !(List.drop 1 (w03_228.core 5).hstack).any id) { cclk := 9 : Pace }.chk).1.core 5)) ∧
    (((vrestoreDo (w03_228.setCore 5 ((w03_228.core 5).touch (w03_228.core 5).pc 2)) 5 (levelOf (w03_228.core 5).estatus) (levelOf (w03_228.core 5).estatus == 0 || levelOf (w03_228.core 5).estatus == 1 && !(List.drop 1 (w03_228.core 5).hstack).any id) { cclk := 9 : Pace }.chk).1.core 5).wait = CoreWait.none) ∧
    (((vrestoreDo (w03_228.setCore 5 ((w03_228.core 5).touch (w03_228.core 5).pc 2)) 5 (levelOf (w03_228.core 5).estatus) (levelOf (w03_228.core 5).estatus == 0 || levelOf (w03_228.core 5).estatus == 1 && !(List.drop 1 (w03_228.core 5).hstack).any id) { cclk := 9 : Pace }.chk).1.core 5).stepping = false) ∧
    (BitVec.getLsbD ((vrestoreDo (w03_228.setCore 5 ((w03_228.core 5).touch (w03_228.core 5).pc 2)) 5 (levelOf (w03_228.core 5).estatus) (levelOf (w03_228.core 5).estatus == 0 || levelOf (w03_228.core 5).estatus == 1 && !(List.drop 1 (w03_228.core 5).hstack).any id) { cclk := 9 : Pace }.chk).1.core 5).status 4 = false) := by
  and_intros <;> decide +kernel
theorem witness_streamElementArrives :
    w03_241.live ∧
    ((w03_241.core 5).halted = false) ∧
    (BitVec.getLsbD (w03_241.core 5).status 7 = false) ∧
    ((w03_241.core 5).viq[0]? = some w03_240) ∧
    ((1 : Fin 4) ≠ (0 : Fin 4)) ∧
    (w03_240.opnd 1 = Opnd.stream (lin 263882790666240 2 16 1)) ∧
    (elementwise w03_240 1 = true) ∧
    ((w03_241.core 5).portBusy w03_240 1 = false) ∧
    (w03_240.nxt ≤ 1) ∧
    (w03_240.started = true) ∧
    (w03_240.released = false) ∧
    (w03_240.fault = none) ∧
    ((w03_241.core 5).startAt w03_240 ≤ 1) ∧
    (1 < w03_240.need 1) ∧
    (w03_240.op ≠ 111) ∧
    (byWords w03_241 w03_240 = false) ∧
    (List.lookup (1, 1) w03_240.data = none) ∧
    (orderedHold (w03_241.core 5) w03_240 1 = false) ∧
    ((w03_241.core 5).storesHold ((w03_241.core 5).members w03_240.group) = false) ∧
    (w03_240.isMicro = false ∨ (w03_241.core 5).micro = none ∧ (w03_241.core 5).wq = []) ∧
    ((w03_241.core 5).enabled w03_240 1 = Got.val (1 : W64) [] false) ∧
    (fld (lin 263882790666240 2 16 1) 52 4 = 0) ∧
    (BitVec.getLsbD (1 : W64) 0 = true) ∧
    (placeOf (w03_241.core 5) w03_240 1 (lin 263882790666240 2 16 1) 1 = Place.at (sdAddr (lin 263882790666240 2 16 1) 1) (tyBytes (sdType (lin 263882790666240 2 16 1))) none false) ∧
    (elemFault w03_241 (w03_241.core 5) w03_240.priv 1 (sdAddr (lin 263882790666240 2 16 1) 1) (tyBytes (sdType (lin 263882790666240 2 16 1))) mpuR = some (pFault 32 (1 * 16 + 4) (iw64 (sdAddr (lin 263882790666240 2 16 1) 1)))) ∧
    w03_244.live ∧
    ((w03_244.core 5).halted = false) ∧
    (BitVec.getLsbD (w03_244.core 5).status 7 = false) ∧
    ((w03_244.core 5).viq[0]? = some w03_243) ∧
    (w03_243.opnd 1 = Opnd.stream (lin 4194560 2 16 1)) ∧
    (elementwise w03_243 1 = true) ∧
    ((w03_244.core 5).portBusy w03_243 1 = false) ∧
    (w03_243.nxt ≤ 1) ∧
    (w03_243.started = true) ∧
    (w03_243.released = false) ∧
    (w03_243.fault = none) ∧
    ((w03_244.core 5).startAt w03_243 ≤ 1) ∧
    (1 < w03_243.need 1) ∧
    (w03_243.op ≠ 111) ∧
    (byWords w03_244 w03_243 = false) ∧
    (List.lookup (1, 1) w03_243.data = none) ∧
    (orderedHold (w03_244.core 5) w03_243 1 = false) ∧
    ((w03_244.core 5).storesHold ((w03_244.core 5).members w03_243.group) = false) ∧
    (w03_243.isMicro = false ∨ (w03_244.core 5).micro = none ∧ (w03_244.core 5).wq = []) ∧
    ((w03_244.core 5).enabled w03_243 1 = Got.val (0 : W64) [] false) ∧
    (fld (lin 4194560 2 16 1) 52 4 = 0) ∧
    (BitVec.getLsbD (0 : W64) 0 = false) ∧
    w03_252.live ∧
    ((w03_252.core 5).halted = false) ∧
    (BitVec.getLsbD (w03_252.core 5).status 7 = false) ∧
    ((w03_252.core 5).viq[0]? = some w03_251) ∧
    (w03_251.opnd 1 = Opnd.stream (lin 4194560 13 16 3 + BitVec.ofNat 256 (5 * 2 ^ 52 + 7 * 2 ^ 128))) ∧
    (elementwise w03_251 1 = true) ∧
    ((w03_252.core 5).portBusy w03_251 1 = false) ∧
    (w03_251.nxt ≤ 1) ∧
    (w03_251.started = true) ∧
    (w03_251.released = false) ∧
    (w03_251.fault = none) ∧
    ((w03_252.core 5).startAt w03_251 ≤ 1) ∧
    (1 < w03_251.need 1) ∧
    (w03_251.op ≠ 111) ∧
    (byWords w03_252 w03_251 = false) ∧
    (List.lookup (1, 1) w03_251.data = none) ∧
    (orderedHold (w03_252.core 5) w03_251 1 = false) ∧
    ((w03_252.core 5).storesHold ((w03_252.core 5).members w03_251.group) = false) ∧
    (w03_251.isMicro = false ∨ (w03_252.core 5).micro = none ∧ (w03_252.core 5).wq = []) ∧
    ((w03_252.core 5).enabled w03_251 1 = Got.val (1 : W64) [] false) ∧
    (fld (lin 4194560 13 16 3 + BitVec.ofNat 256 (5 * 2 ^ 52 + 7 * 2 ^ 128)) 52 4 = 5) ∧
    (placeOf (w03_252.core 5) w03_251 1 (lin 4194560 13 16 3 + BitVec.ofNat 256 (5 * 2 ^ 52 + 7 * 2 ^ 128)) 1 = Place.at (sdAddr (lin 4194560 13 16 3 + BitVec.ofNat 256 (5 * 2 ^ 52 + 7 * 2 ^ 128)) 1 / (8 : Int)) 1 (some (sdAddr (lin 4194560 13 16 3 + BitVec.ofNat 256 (5 * 2 ^ 52 + 7 * 2 ^ 128)) 1 % (8 : Int)).toNat) false) ∧
    (elemFault w03_252 (w03_252.core 5) w03_251.priv 1 (sdAddr (lin 4194560 13 16 3 + BitVec.ofNat 256 (5 * 2 ^ 52 + 7 * 2 ^ 128)) 1 / (8 : Int)) 1 mpuR = none) ∧
    (bridgeHolds w03_252 (5 / 8 : Nat) (sdAddr (lin 4194560 13 16 3 + BitVec.ofNat 256 (5 * 2 ^ 52 + 7 * 2 ^ 128)) 1 / (8 : Int)).toNat 1 = false) ∧
    (elemRead 5 w03_251.priv Check.clean (accHalves (sdAddr (lin 4194560 13 16 3 + BitVec.ofNat 256 (5 * 2 ^ 52 + 7 * 2 ^ 128)) 1 / (8 : Int)).toNat 1) (if ((accHalves (sdAddr (lin 4194560 13 16 3 + BitVec.ofNat 256 (5 * 2 ^ 52 + 7 * 2 ^ 128)) 1 / (8 : Int)).toNat 1).any fun h => taints (target w03_252 h.1)) = true then taintBy w03_252 5 w03_251.priv else w03_252) = ((elemRead 5 w03_251.priv Check.clean (accHalves (sdAddr (lin 4194560 13 16 3 + BitVec.ofNat 256 (5 * 2 ^ 52 + 7 * 2 ^ 128)) 1 / (8 : Int)).toNat 1) (if ((accHalves (sdAddr (lin 4194560 13 16 3 + BitVec.ofNat 256 (5 * 2 ^ 52 + 7 * 2 ^ 128)) 1 / (8 : Int)).toNat 1).any fun h => taints (target w03_252 h.1)) = true then taintBy w03_252 5 w03_251.priv else w03_252)).1, none, (elemRead 5 w03_251.priv Check.clean (accHalves (sdAddr (lin 4194560 13 16 3 + BitVec.ofNat 256 (5 * 2 ^ 52 + 7 * 2 ^ 128)) 1 / (8 : Int)).toNat 1) (if ((accHalves (sdAddr (lin 4194560 13 16 3 + BitVec.ofNat 256 (5 * 2 ^ 52 + 7 * 2 ^ 128)) 1 / (8 : Int)).toNat 1).any fun h => taints (target w03_252 h.1)) = true then taintBy w03_252 5 w03_251.priv else w03_252)).2.2)) ∧
    (((elemRead 5 w03_251.priv Check.clean (accHalves (sdAddr (lin 4194560 13 16 3 + BitVec.ofNat 256 (5 * 2 ^ 52 + 7 * 2 ^ 128)) 1 / (8 : Int)).toNat 1) (if ((accHalves (sdAddr (lin 4194560 13 16 3 + BitVec.ofNat 256 (5 * 2 ^ 52 + 7 * 2 ^ 128)) 1 / (8 : Int)).toNat 1).any fun h => taints (target w03_252 h.1)) = true then taintBy w03_252 5 w03_251.priv else w03_252)).1.core 5).wq = (w03_252.core 5).wq) ∧
    (((elemRead 5 w03_251.priv Check.clean (accHalves (sdAddr (lin 4194560 13 16 3 + BitVec.ofNat 256 (5 * 2 ^ 52 + 7 * 2 ^ 128)) 1 / (8 : Int)).toNat 1) (if ((accHalves (sdAddr (lin 4194560 13 16 3 + BitVec.ofNat 256 (5 * 2 ^ 52 + 7 * 2 ^ 128)) 1 / (8 : Int)).toNat 1).any fun h => taints (target w03_252 h.1)) = true then taintBy w03_252 5 w03_251.priv else w03_252)).1.core 5).micro = (w03_252.core 5).micro) ∧
    w03_258.live ∧
    ((w03_258.core 5).halted = false) ∧
    (BitVec.getLsbD (w03_258.core 5).status 7 = false) ∧
    ((w03_258.core 5).viq[0]? = some w03_257) ∧
    (w03_257.opnd 1 = Opnd.stream (lin 4194560 2 16 1 + BitVec.ofNat 256 (3 * 2 ^ 52 + (1 + 0 * 2 ^ 32) * 2 ^ 128 + (3 + 2 ^ 5 + 2 * 2 ^ 8) * 2 ^ 240))) ∧
    (elementwise w03_257 1 = true) ∧
    ((w03_258.core 5).portBusy w03_257 1 = false) ∧
    (w03_257.nxt ≤ 1) ∧
    (w03_257.started = true) ∧
    (w03_257.released = false) ∧
    (w03_257.fault = none) ∧
    ((w03_258.core 5).startAt w03_257 ≤ 1) ∧
    (1 < w03_257.need 1) ∧
    (w03_257.op ≠ 111) ∧
    (byWords w03_258 w03_257 = false) ∧
    (List.lookup (1, 1) w03_257.data = none) ∧
    (orderedHold (w03_258.core 5) w03_257 1 = false) ∧
    ((w03_258.core 5).storesHold ((w03_258.core 5).members w03_257.group) = false) ∧
    (w03_257.isMicro = false ∨ (w03_258.core 5).micro = none ∧ (w03_258.core 5).wq = []) ∧
    ((w03_258.core 5).enabled w03_257 1 = Got.val (1 : W64) [] false) ∧
    (placeOf (w03_258.core 5) w03_257 1 (lin 4194560 2 16 1 + BitVec.ofNat 256 (3 * 2 ^ 52 + (1 + 0 * 2 ^ 32) * 2 ^ 128 + (3 + 2 ^ 5 + 2 * 2 ^ 8) * 2 ^ 240)) 1 = Place.fault (pFault 32 (1 * 16 + 2) (iw64 (indexVal w03_257 (lin 4194560 2 16 1 + BitVec.ofNat 256 (3 * 2 ^ 52 + (1 + 0 * 2 ^ 32) * 2 ^ 128 + (3 + 2 ^ 5 + 2 * 2 ^ 8) * 2 ^ 240)) (caskElem (w03_258.core 5) (ixReg (lin 4194560 2 16 1 + BitVec.ofNat 256 (3 * 2 ^ 52 + (1 + 0 * 2 ^ 32) * 2 ^ 128 + (3 + 2 ^ 5 + 2 * 2 ^ 8) * 2 ^ 240))) (tyBits (ixType (lin 4194560 2 16 1 + BitVec.ofNat 256 (3 * 2 ^ 52 + (1 + 0 * 2 ^ 32) * 2 ^ 128 + (3 + 2 ^ 5 + 2 * 2 ^ 8) * 2 ^ 240)))) 1))) (w03_257.rankOf 1))) ∧
    w03_261.live ∧
    ((w03_261.core 5).halted = false) ∧
    (BitVec.getLsbD (w03_261.core 5).status 7 = false) ∧
    ((w03_261.core 5).viq[0]? = some w03_260) ∧
    (w03_260.opnd 1 = Opnd.stream (lin 4194560 2 16 1 + BitVec.ofNat 256 (3 * 2 ^ 52 + (1 + 1 * 2 ^ 32) * 2 ^ 128 + (3 + 2 ^ 5 + 2 * 2 ^ 8) * 2 ^ 240))) ∧
    (elementwise w03_260 1 = true) ∧
    ((w03_261.core 5).portBusy w03_260 1 = false) ∧
    (w03_260.nxt ≤ 1) ∧
    (w03_260.started = true) ∧
    (w03_260.released = false) ∧
    (w03_260.fault = none) ∧
    ((w03_261.core 5).startAt w03_260 ≤ 1) ∧
    (1 < w03_260.need 1) ∧
    (w03_260.op ≠ 111) ∧
    (byWords w03_261 w03_260 = false) ∧
    (List.lookup (1, 1) w03_260.data = none) ∧
    (orderedHold (w03_261.core 5) w03_260 1 = false) ∧
    ((w03_261.core 5).storesHold ((w03_261.core 5).members w03_260.group) = false) ∧
    (w03_260.isMicro = false ∨ (w03_261.core 5).micro = none ∧ (w03_261.core 5).wq = []) ∧
    ((w03_261.core 5).enabled w03_260 1 = Got.val (1 : W64) [] false) ∧
    (placeOf (w03_261.core 5) w03_260 1 (lin 4194560 2 16 1 + BitVec.ofNat 256 (3 * 2 ^ 52 + (1 + 1 * 2 ^ 32) * 2 ^ 128 + (3 + 2 ^ 5 + 2 * 2 ^ 8) * 2 ^ 240)) 1 = Place.none) := by
  and_intros <;> decide +kernel
theorem witness_vectorWriteIsAccepted :
    w03_265.live ∧
    ((w03_265.core 5).wq = [{ seqn := 1, addr := 4194566, bytes := [(1 : Byte), (2 : Byte), (3 : Byte)], bitp := none, level := 1, dig := true : WWrite }]) ∧
    (0 < { seqn := 1, addr := 4194566, bytes := [(1 : Byte), (2 : Byte), (3 : Byte)], bitp := none, level := 1, dig := true : WWrite }.bytes.length) ∧
    ({ seqn := 1, addr := 4194566, bytes := [(1 : Byte), (2 : Byte), (3 : Byte)], bitp := none, level := 1, dig := true : WWrite }.bytes.length ≤ 8) ∧
    (bridgeHolds w03_265 (5 / 8 : Nat) { seqn := 1, addr := 4194566, bytes := [(1 : Byte), (2 : Byte), (3 : Byte)], bitp := none, level := 1, dig := true : WWrite }.addr { seqn := 1, addr := 4194566, bytes := [(1 : Byte), (2 : Byte), (3 : Byte)], bitp := none, level := 1, dig := true : WWrite }.bytes.length = false) ∧
    (8 < { seqn := 1, addr := 4194566, bytes := [(1 : Byte), (2 : Byte), (3 : Byte)], bitp := none, level := 1, dig := true : WWrite }.addr % 8 + { seqn := 1, addr := 4194566, bytes := [(1 : Byte), (2 : Byte), (3 : Byte)], bitp := none, level := 1, dig := true : WWrite }.bytes.length) ∧
    w03_266.live ∧
    ((w03_266.core 5).wq = [{ seqn := 1, addr := 4194566, bytes := [(1 : Byte)], bitp := some 3, level := 1 : WWrite }]) ∧
    (0 < { seqn := 1, addr := 4194566, bytes := [(1 : Byte)], bitp := some 3, level := 1 : WWrite }.bytes.length) ∧
    ({ seqn := 1, addr := 4194566, bytes := [(1 : Byte)], bitp := some 3, level := 1 : WWrite }.bytes.length ≤ 8) ∧
    (bridgeHolds w03_266 (5 / 8 : Nat) { seqn := 1, addr := 4194566, bytes := [(1 : Byte)], bitp := some 3, level := 1 : WWrite }.addr { seqn := 1, addr := 4194566, bytes := [(1 : Byte)], bitp := some 3, level := 1 : WWrite }.bytes.length = false) ∧
    ({ seqn := 1, addr := 4194566, bytes := [(1 : Byte)], bitp := some 3, level := 1 : WWrite }.bytes.length = 1) ∧
    w03_268.live ∧
    ((w03_268.core 5).wq = [{ seqn := 1, addr := 68719476736, bytes := [(1 : Byte)], bitp := none, level := 1, dig := true : WWrite }]) ∧
    (0 < { seqn := 1, addr := 68719476736, bytes := [(1 : Byte)], bitp := none, level := 1, dig := true : WWrite }.bytes.length) ∧
    ({ seqn := 1, addr := 68719476736, bytes := [(1 : Byte)], bitp := none, level := 1, dig := true : WWrite }.bytes.length ≤ 8) ∧
    (bridgeHolds w03_268 (5 / 8 : Nat) { seqn := 1, addr := 68719476736, bytes := [(1 : Byte)], bitp := none, level := 1, dig := true : WWrite }.addr { seqn := 1, addr := 68719476736, bytes := [(1 : Byte)], bitp := none, level := 1, dig := true : WWrite }.bytes.length = false) ∧
    ({ seqn := 1, addr := 68719476736, bytes := [(1 : Byte)], bitp := none, level := 1, dig := true : WWrite }.addr % 8 + { seqn := 1, addr := 68719476736, bytes := [(1 : Byte)], bitp := none, level := 1, dig := true : WWrite }.bytes.length ≤ 8) := by
  and_intros <;> decide +kernel

def w12_1 : State := wBay 3 3
def w12_3 : State := wBayBusy BayPower.on BayPower.off
def w12_5 : State := wMarked 3 3
def w12_7 : State := wBay 3 15
def w12_8 : State := wBayBusy BayPower.on BayPower.ret
def w12_12 : State := wBayBusy BayPower.off BayPower.off
def w12_13 : State := regPut wHbmBusy RegName.hbmCfg 0 (1 : W64)
def w12_17 : State := regPut run RegName.celScrubCtrl 0 (0 : W64)
def w12_18 : State := regPut (wBay 3 3) RegName.celOelog 0 ((2 : W64) ^ 63)
def w12_19 : State := { wBay 63 0 with bridges := [(0, { stopped := true : Bridge })] }
theorem witness_cellarReadAnswers :
    w12_1.live ∧
    ((3 : Fin 16) ≠ (10 : Fin 16)) ∧
    ((3 : Fin 16) ≠ (11 : Fin 16)) ∧
    (bridgeHolds w12_1 3 12582912 (min 64 (64 - 12582912 % 64)) = false) ∧
    (bayOn w12_1 (12582912 / 2 ^ 22) = true) ∧
    ((3 : Fin 16) = (15 : Fin 16) ∨ (w12_1.bay (12582912 / 2 ^ 22)).force = ownerCode 3) ∧
    (∀ (w : Nat), isPoison w12_1 w = false) ∧
    w12_18.live ∧
    ((4 : Fin 16) ≠ (10 : Fin 16)) ∧
    ((4 : Fin 16) ≠ (11 : Fin 16)) ∧
    (bridgeHolds w12_18 4 12582975 (min 64 (64 - 12582975 % 64)) = false) ∧
    (bayOn w12_18 (12582975 / 2 ^ 22) = false ∨ ¬((4 : Fin 16) = (15 : Fin 16) ∨ (w12_18.bay (12582975 / 2 ^ 22)).force = ownerCode 4)) ∧
    (BitVec.getLsbD (regGet w12_18 RegName.celOelog (12582975 / 2 ^ 25)) 63 = true) ∧
    w12_19.live ∧
    ((0 : Fin 16) ≠ (10 : Fin 16)) ∧
    ((0 : Fin 16) ≠ (11 : Fin 16)) ∧
    (bridgeHolds w12_19 0 264241160 (min 8 (64 - 264241160 % 64)) = true) := by
  and_intros <;> first | decide +kernel | (intro w; rfl)
theorem witness_cellarReadFindsError :
    w12_1.live ∧
    ((3 : Fin 16) ≠ (10 : Fin 16)) ∧
    ((3 : Fin 16) ≠ (11 : Fin 16)) ∧
    (bayOn w12_1 (12582920 / 2 ^ 22) = true) ∧
    ((3 : Fin 16) = (15 : Fin 16) ∨ (w12_1.bay (12582920 / 2 ^ 22)).force = ownerCode 3) ∧
    (12582920 % 64 + 8 ≤ 64) ∧
    (bridgeHolds w12_1 3 12582920 8 = false) ∧
    (((unitsOf 8 12582920 8).any fun w => isPoison w12_1 w || { ue := [1572865] : Check }.ue.contains w) = true) ∧
    (BitVec.toNat (regGet w12_1 RegName.celUecnt (12582920 / 2 ^ 25)) ≤ 4294967295) ∧
    (12582920 % 64 + 16 ≤ 64) ∧
    (bridgeHolds w12_1 3 12582920 16 = false) ∧
    (∀ w ∈ unitsOf 8 12582920 16, isPoison w12_1 w = false) ∧
    (BitVec.toNat (regGet w12_1 RegName.celCecnt (12582920 / 2 ^ 25)) ≤ 4294967295) := by
  and_intros <;> decide +kernel
theorem witness_cellarWriteStores :
    w12_5.live ∧
    ((3 : Fin 16) ≠ (12 : Fin 16)) ∧
    ((3 : Fin 16) ≠ (13 : Fin 16)) ∧
    (bridgeHolds w12_5 3 12582920 (List.take (64 - 12582920 % 64) [(1 : Byte), (2 : Byte), (3 : Byte), (4 : Byte), (5 : Byte), (6 : Byte), (7 : Byte), (0 : Byte)]).length = false) ∧
    (bayOn w12_5 (12582920 / 2 ^ 22) = true) ∧
    ((3 : Fin 16) = (15 : Fin 16) ∨ (w12_5.bay (12582920 / 2 ^ 22)).force = ownerCode 3) ∧
    (∀ w ∈ unitsOf 8 12582920 (List.take (64 - 12582920 % 64) [(1 : Byte), (2 : Byte), (3 : Byte), (4 : Byte), (5 : Byte), (6 : Byte), (7 : Byte), (0 : Byte)]).length, isPoison w12_5 w = true → w ∈ unitsWhole 8 12582920 (List.take (64 - 12582920 % 64) [(1 : Byte), (2 : Byte), (3 : Byte), (4 : Byte), (5 : Byte), (6 : Byte), (7 : Byte), (0 : Byte)]).length) ∧
    ((4 : Fin 16) ≠ (12 : Fin 16)) ∧
    ((4 : Fin 16) ≠ (13 : Fin 16)) ∧
    (bridgeHolds w12_5 4 12582968 (List.take (64 - 12582968 % 64) [(1 : Byte), (2 : Byte), (3 : Byte), (4 : Byte), (5 : Byte), (6 : Byte), (7 : Byte), (0 : Byte), (9 : Byte)]).length = false) ∧
    (bayOn w12_5 (12582968 / 2 ^ 22) = false ∨ ¬((4 : Fin 16) = (15 : Fin 16) ∨ (w12_5.bay (12582968 / 2 ^ 22)).force = ownerCode 4)) := by
  and_intros <;> decide +kernel
theorem witness_ownershipIsCompareAndSet :
    w12_1.live ∧
    (w12_1.serves RegName.celOwn 3) ∧
    (bridgeDown w12_1 = true → ∀ (r l : Nat), OwnAgent.core 3 1 = OwnAgent.core r l → r < 4) ∧
    (OwnAgent.core 3 1 = OwnAgent.cellarer ∨ OwnAgent.core 3 1 = OwnAgent.handover ∨ ∃ r l, OwnAgent.core 3 1 = OwnAgent.core r l ∧ 1 ≤ l ∧ ((w12_1.bay 3).owner = r ∨ (w12_1.bay 3).passed = some (r, w12_1.tick) ∧ 3 = r)) ∧
    (¬(11 ≤ 7 ∧ 7 ≤ 14)) ∧
    (if (3 : Fin 16) = (14 : Fin 16) then OwnAgent.core 3 1 = OwnAgent.cellarer else 3 = (w12_1.bay 3).owner) ∧
    (bridgeDown w12_1 = true → ∀ (r l : Nat), OwnAgent.host = OwnAgent.core r l → r < 4) ∧
    (¬((OwnAgent.host = OwnAgent.cellarer ∨ OwnAgent.host = OwnAgent.handover ∨ ∃ r l, OwnAgent.host = OwnAgent.core r l ∧ 1 ≤ l ∧ ((w12_1.bay 3).owner = r ∨ (w12_1.bay 3).passed = some (r, w12_1.tick) ∧ 4 = r)) ∧ ¬(11 ≤ 15 ∧ 15 ≤ 14) ∧ if (4 : Fin 16) = (14 : Fin 16) then OwnAgent.host = OwnAgent.cellarer else 4 = (w12_1.bay 3).owner)) := by
  and_intros <;> first | decide +kernel | exact Or.inr (Or.inr ⟨3, 1, rfl, by decide, by decide +kernel⟩) |
    (rintro ⟨h | h | ⟨r, l, h, _⟩, _⟩ <;> cases h)
theorem witness_bayOwnerAndPower :
    wComing.live ∧
    (updateWaits wComing 2 = false) ∧
    ((wComing.bay 2).coming = [(3, none), (4, none)]) ∧
    (wComing.serves RegName.celBpwr 2) ∧
    ((wComing.bay 2).owner ≠ 15 ∨ (wComing.bay 2).busy = true) ∧
    w12_7.live ∧
    (updateWaits w12_7 3 = false) ∧
    (w12_7.serves RegName.celBpwr 3) ∧
    ((w12_7.bay 3).owner = 15) ∧
    ((w12_7.bay 3).busy = false) ∧
    ((1 : Fin 4) ≠ (3 : Fin 4)) ∧
    (bayPowerOf 1 ≠ (w12_7.bay 3).power) ∧
    w12_8.live ∧
    (updateWaits w12_8 63 = false) ∧
    (w12_8.serves RegName.celBpwr 63) ∧
    ((w12_8.bay 63).owner ≠ 15 ∨ (w12_8.bay 63).busy = true) ∧
    ((w12_8.bay 63).busy = true) ∧
    ((w12_8.bay 63).power ≠ BayPower.off) ∧
    ((w12_8.bay 63).fromP ≠ BayPower.off) := by
  and_intros <;> decide +kernel
theorem witness_bayPowerOffLosesContents :
    w12_3.live ∧
    (updateWaits w12_3 63 = false) ∧
    ((w12_3.bay 63).busy = true) ∧
    ((w12_3.bay 63).power = BayPower.off ∨ (w12_3.bay 63).fromP = BayPower.off) ∧
    (0 ≠ 63) := by
  and_intros <;> decide +kernel
theorem witness_scrubberVisits :
    run.live ∧
    (BitVec.getLsbD (regGet run RegName.celScrubCtrl 0) 0 = true) ∧
    (run.poison = []) ∧
    (scrubNext run 7 (tget 0 run.scrubPos 7) = some (tget 0 run.scrubPos 7)) ∧
    (tget 0 run.scrubPos 7 < 8192) ∧
    (exec (Instr.scrubRead (7 : Fin 8) lnNil lnNil) run = Host.Outcome.next (if inReset run = true then run else scrubVisit run 7 { ce := lnNil, ue := lnNil : Check })) ∧
    w12_17.live ∧
    (BitVec.getLsbD (regGet w12_17 RegName.celScrubCtrl 0) 0 = false) ∧
    (exec (Instr.scrubRead (7 : Fin 8) lnNil lnNil) w12_17 = Host.Outcome.next (if inReset w12_17 = true then w12_17 else scrubVisit w12_17 7 { ce := lnNil, ue := lnNil : Check })) ∧
    wSliceOff.live ∧
    (BitVec.getLsbD (regGet wSliceOff RegName.celScrubCtrl 0) 0 = true) ∧
    (scrubNext wSliceOff 7 (tget 0 wSliceOff.scrubPos 7) = none) ∧
    (exec (Instr.scrubRead (7 : Fin 8) lnNil lnNil) wSliceOff = Host.Outcome.next (if inReset wSliceOff = true then wSliceOff else scrubVisit wSliceOff 7 { ce := lnNil, ue := lnNil : Check })) := by
  and_intros <;> first | decide +kernel | exact rfl
theorem witness_scrubberSkipsBaysThatAreNotOn :
    (8191 < 8192) ∧
    (∃ k < 8, bayOn w12_12 (7 * 8 + k) = true) ∧
    (5 < 8192) ∧
    (∀ k < 8, bayOn wSliceOff (7 * 8 + k) = false) := by
  and_intros <;> decide +kernel
theorem witness_hbmReadsAndWrites :
    wHbm.live ∧
    (hasPath 0 8 = true) ∧
    (target wHbm 68719476737 = Target.hbm) ∧
    (bridgeHolds wHbm 0 68719476737 (min 100 (64 - 68719476737 % 64)) = false) ∧
    (bridgeHolds wHbm 0 68719476737 (List.take (64 - 68719476737 % 64) [(1 : Byte), (2 : Byte), (3 : Byte)]).length = false) ∧
    (isPoison wHbm ((68719476737 / 64 : Nat) * 8) = false) ∧
    ((List.take (64 - 68719476737 % 64) [(1 : Byte), (2 : Byte), (3 : Byte)]).length = 64 ∨ List.take (64 - 68719476737 % 64) [(1 : Byte), (2 : Byte), (3 : Byte)] = [] ∨ isPoison wHbm ((68719476737 / 64 : Nat) * 8) = false) ∧
    ((List.take (64 - 68719476737 % 64) [(1 : Byte), (2 : Byte), (3 : Byte)]).length < 64) ∧
    wHbmMarked.live ∧
    (target wHbmMarked 68719476737 = Target.hbm) ∧
    (bridgeHolds wHbmMarked 0 68719476737 (min 100 (64 - 68719476737 % 64)) = false) ∧
    (bridgeHolds wHbmMarked 0 68719476737 (List.take (64 - 68719476737 % 64) [(1 : Byte), (2 : Byte), (3 : Byte)]).length = false) ∧
    (isPoison wHbmMarked ((68719476737 / 64 : Nat) * 8) = true) ∧
    (List.take (64 - 68719476737 % 64) [(1 : Byte), (2 : Byte), (3 : Byte)] ≠ []) ∧
    (target wHbmMarked 68719476736 = Target.hbm) ∧
    (bridgeHolds wHbmMarked 0 68719476736 (min 10 (64 - 68719476736 % 64)) = false) ∧
    (bridgeHolds wHbmMarked 0 68719476736 (List.take (64 - 68719476736 % 64) (List.replicate 64 (7 : Byte))).length = false) ∧
    (isPoison wHbmMarked ((68719476736 / 64 : Nat) * 8) = true) ∧
    ((List.take (64 - 68719476736 % 64) (List.replicate 64 (7 : Byte))).length = 64 ∨ List.take (64 - 68719476736 % 64) (List.replicate 64 (7 : Byte)) = [] ∨ isPoison wHbmMarked ((68719476736 / 64 : Nat) * 8) = false) ∧
    ((List.take (64 - 68719476736 % 64) (List.replicate 64 (7 : Byte))).length = 64) := by
  and_intros <;> decide +kernel
theorem witness_hbmTraining :
    wHbm.live ∧
    (wHbm.serves RegName.hbmCtrl 0) ∧
    (BitVec.getLsbD (regGet wHbm RegName.hbmStat 0) 0 = false) ∧
    w12_13.live ∧
    (BitVec.getLsbD (regGet w12_13 RegName.hbmStat 0) 0 = true) ∧
    (tget false w12_13.hbmHard 1 = true) ∧
    (0 < 4) := by
  and_intros <;> decide +kernel
theorem witness_hbmCareAndLogs :
    wSoft.live ∧
    (target wSoft 68719476736 = Target.hbm) ∧
    (0 < fld (regGet wSoft RegName.hbmPprThr 0) 0 16) ∧
    (fld (regGet wSoft RegName.hbmPprThr 0) 0 16 ≤ tget 0 wSoft.hbmRows (hbmRow wSoft 68719476736)) ∧
    (tget false wSoft.hbmSoft (hbmRow wSoft 68719476736) = false) ∧
    (wSoft.serves RegName.hbmLogclr 2) ∧
    (wSoft.serves RegName.celLogclr 7) := by
  and_intros <;> decide +kernel
theorem witness_defaultTargetAnswers :
    wHbm.live ∧
    (target wHbm 2147483648 = Target.none) ∧
    run.live ∧
    (target run 4227858432 = Target.rom) ∧
    (hasPath 0 13 = true) ∧
    (bridgeHolds run 0 4227858432 1 = false) := by
  and_intros <;> decide +kernel

def w14_0 : State := { run with buckets := [(0, 5), (16, 4095), (47, 9)] }
def w14_1 : State := regPut (regPut w14_0 RegName.trRl 0 (16793599 : W64)) RegName.trRl 44 (16781313 : W64)
def w14_3 : State := wArb []
def w14_4 : State := wArb [(0, false), (3, true), (5, true), (15, false)]
def w14_9 : State := wRl (16781313 : W64) 300
def w14_10 : State := parked (wRl (16781313 : W64) 300)
def w14_11 : State := parked (wRl (16781313 : W64) 30)
def w14_12 : State := wRl (50335745 : W64) 255
def w14_13 : State := wRl (16781313 : W64) 255
def w14_14 : State := wBridge 3 false
def w14_15 : State := wBridge 14 false
def w14_16 : State := wBridge 15 false
def w14_17 : State := wBridge 16 true
theorem witness_bucketsRefill :
    w14_1.live ∧
    (0 < 16) ∧
    (0 < 15) := by
  and_intros <;> decide +kernel
theorem witness_grantTakesHighestPriority :
    w14_3.live ∧
    (∀ e ∈ (w14_3.arbiter 9).waiting, e.master < 16) ∧
    (∀ m < 16, (w14_3.trPort m).queue = []) ∧
    (List.filter (mayPass w14_3 9) (heads 9 (w14_3.arbiter 9).waiting) = [] ∨ (w14_3.arbiter 9).room + capacity w14_3 9 < 8) ∧
    w14_4.live ∧
    (∀ e ∈ (w14_4.arbiter 9).waiting, e.master < 16) ∧
    (∀ m < 16, (w14_4.trPort m).queue = []) ∧
    (List.filter (mayPass w14_4 9) (heads 9 (w14_4.arbiter 9).waiting) ≠ []) ∧
    (8 ≤ (w14_4.arbiter 9).room + capacity w14_4 9) := by
  and_intros <;> decide +kernel
theorem witness_requestLeavesItsPort :
    w14_9.live ∧
    (0 < 8) ∧
    (target w14_9 (hbmAddr 0).toNat = Target.hbm) ∧
    (8 = 8 + hbmStack w14_9 (64 * ((hbmAddr 0).toNat / 64))) ∧
    (masterDie 0 = (8 - 8) / 2) ∧
    (8 < 12) ∧
    ((w14_9.row 0).inReset = false) ∧
    ((w14_9.trPort 0).tags.length < 5184) ∧
    (∀ k < 16, (w14_9.trPort k).queue = []) ∧
    ((w14_9.arbiter 8).waiting = []) ∧
    ((w14_9.bridge 0).owed = []) ∧
    ((w14_9.bridge 1).owed = []) ∧
    (BitVec.getLsbD (regGet w14_9 RegName.trRl (15 * 0 + 8)) 24 = true ∧ fld (regGet w14_9 RegName.trRl (15 * 0 + 8)) 0 12 ≠ 0 ∧ fld (regGet w14_9 RegName.trRl (15 * 0 + 8)) 12 12 ≠ 0) ∧
    (256 ≤ tget 0 w14_9.buckets (16 * 0 + 8)) ∧
    (¬(w14_9.arbiter 8).park = 0) ∧
    w14_10.live ∧
    (target w14_10 (hbmAddr 0).toNat = Target.hbm) ∧
    (8 = 8 + hbmStack w14_10 (64 * ((hbmAddr 0).toNat / 64))) ∧
    ((w14_10.row 0).inReset = false) ∧
    ((w14_10.trPort 0).tags.length < 5184) ∧
    (∀ k < 16, (w14_10.trPort k).queue = []) ∧
    ((w14_10.arbiter 8).waiting = []) ∧
    ((w14_10.bridge 0).owed = []) ∧
    ((w14_10.bridge 1).owed = []) ∧
    (BitVec.getLsbD (regGet w14_10 RegName.trRl (15 * 0 + 8)) 24 = true ∧ fld (regGet w14_10 RegName.trRl (15 * 0 + 8)) 0 12 ≠ 0 ∧ fld (regGet w14_10 RegName.trRl (15 * 0 + 8)) 12 12 ≠ 0) ∧
    (256 ≤ tget 0 w14_10.buckets (16 * 0 + 8)) ∧
    ((w14_10.arbiter 8).park = 0) ∧
    w14_11.live ∧
    (target w14_11 (hbmAddr 0).toNat = Target.hbm) ∧
    (8 = 8 + hbmStack w14_11 (64 * ((hbmAddr 0).toNat / 64))) ∧
    ((w14_11.row 0).inReset = false) ∧
    ((w14_11.trPort 0).tags.length < 5184) ∧
    (∀ k < 16, (w14_11.trPort k).queue = []) ∧
    ((w14_11.arbiter 8).waiting = []) ∧
    ((w14_11.bridge 0).owed = []) ∧
    ((w14_11.bridge 1).owed = []) ∧
    (¬(BitVec.getLsbD (regGet w14_11 RegName.trRl (15 * 0 + 8)) 24 = true ∧ fld (regGet w14_11 RegName.trRl (15 * 0 + 8)) 0 12 ≠ 0 ∧ fld (regGet w14_11 RegName.trRl (15 * 0 + 8)) 12 12 ≠ 0) ∨ tget 0 w14_11.buckets (16 * 0 + 8) < 256 ∧ BitVec.getLsbD (regGet w14_11 RegName.trRl (15 * 0 + 8)) 25 = false) ∧
    ((w14_11.arbiter 8).park = 0) ∧
    w14_12.live ∧
    (target w14_12 (hbmAddr 1).toNat = Target.hbm) ∧
    (9 = 8 + hbmStack w14_12 (64 * ((hbmAddr 1).toNat / 64))) ∧
    (masterDie 0 = (9 - 8) / 2) ∧
    (9 < 12) ∧
    ((w14_12.row 0).inReset = false) ∧
    ((w14_12.trPort 0).tags.length < 5184) ∧
    (∀ k < 16, (w14_12.trPort k).queue = []) ∧
    ((w14_12.arbiter 9).waiting = []) ∧
    ((w14_12.bridge 0).owed = []) ∧
    ((w14_12.bridge 1).owed = []) ∧
    (BitVec.getLsbD (regGet w14_12 RegName.trRl (15 * 0 + 8)) 24 = true ∧ fld (regGet w14_12 RegName.trRl (15 * 0 + 8)) 0 12 ≠ 0 ∧ fld (regGet w14_12 RegName.trRl (15 * 0 + 8)) 12 12 ≠ 0) ∧
    (tget 0 w14_12.buckets (16 * 0 + 8) < 256) ∧
    (BitVec.getLsbD (regGet w14_12 RegName.trRl (15 * 0 + 8)) 25 = true) ∧
    w14_13.live ∧
    (target w14_13 (hbmAddr 1).toNat = Target.hbm) ∧
    (9 = 8 + hbmStack w14_13 (64 * ((hbmAddr 1).toNat / 64))) ∧
    ((w14_13.row 0).inReset = false) ∧
    ((w14_13.trPort 0).tags.length < 5184) ∧
    (∀ k < 16, (w14_13.trPort k).queue = []) ∧
    ((w14_13.arbiter 9).waiting = []) ∧
    ((w14_13.bridge 0).owed = []) ∧
    ((w14_13.bridge 1).owed = []) ∧
    (¬(BitVec.getLsbD (regGet w14_13 RegName.trRl (15 * 0 + 8)) 24 = true ∧ fld (regGet w14_13 RegName.trRl (15 * 0 + 8)) 0 12 ≠ 0 ∧ fld (regGet w14_13 RegName.trRl (15 * 0 + 8)) 12 12 ≠ 0) ∨ tget 0 w14_13.buckets (16 * 0 + 8) < 256 ∧ BitVec.getLsbD (regGet w14_13 RegName.trRl (15 * 0 + 8)) 25 = false) ∧
    (¬(w14_13.arbiter 9).park = 0) := by
  and_intros <;> decide +kernel
theorem witness_bridgeReplayAndLogs :
    w14_14.live ∧
    ((w14_14.bridge true.toNat).stopped = false) ∧
    (w14_14.serves RegName.trLogclr 0) ∧
    w14_15.live ∧
    ((w14_15.bridge true.toNat).stopped = false) ∧
    ((w14_15.bridge true.toNat).fails < 15) ∧
    (w14_15.serves RegName.trLogclr 0) ∧
    w14_16.live ∧
    ((w14_16.bridge true.toNat).stopped = false) ∧
    ((w14_16.bridge true.toNat).fails = 15) ∧
    (w14_16.serves RegName.trLogclr 0) ∧
    w14_17.live ∧
    ((w14_17.bridge true.toNat).stopped = true) ∧
    (w14_17.serves RegName.trLogclr 0) := by
  and_intros <;> decide +kernel

def w15_1 : OutReq := { wRead with sent := false }
def w15_2 : OutReq := { wRead with id := 9, kind := OutKind.record 3 (4 : W32), sent := false }
def w15_3 : State := wLink { out := [wRead, w15_1, w15_2], reads := [{ status := 0, data := [(1 : Byte)] : HostReply }] : Link }
def w15_4 : OutReq := { w15_1 with sent := true, res := some (OutRes.fail 4) }
def w15_11 : State := { wBooted 1 with link := { rate := 1 : Link } }
def w15_12 : State := wBooted 1
def w15_13 : State := regPut (regPut (wBooted 1) RegName.glbBadaccLog 0 ((2 : W64) ^ 63)) RegName.glbBadaccCnt 0 (4294967295 : W64)
def w15_14 : State := wBooted 2
def w15_15 : State := wMsix false { msixEn := true : Link }
def w15_16 : State := wMsix true { msixEn := true : Link }
def w15_18 : State := wRing 8191 { state := RingState.running, started := [{ seqNo := (3 : W32), bytes := [], start := (0 : W64), mcver := (0 : W32) : Started }] : Machine.Ring }
def w15_20 : Power := { (wBooted 1).power with seen := some ((4 : Byte), (5 : Byte)) }
def w15_21 : State := { wBooted 1 with power := w15_20 }
def w15_22 : State := regPut (wBooted 1) RegName.glbRasRow 0 (240 : W64)
def w15_23 : State := regPut (wMsix false { msixEn := true : Link }) RegName.pwrBoot 0 (5 : W64)
def w15_24 : Power := { run.power with tHot := (5 : Byte), pkg := (6 : W16) }
def w15_25 : State := { run with power := w15_24 }
theorem witness_linkTrainsToCommonRate :
    run.live ∧
    (run.link.out = []) ∧
    (run.link.rate = 0) := by
  and_intros <;> decide +kernel
theorem witness_linkDownLosesRequests :
    w15_3.live ∧
    (w15_3.link.rate ≠ 0) ∧
    ((if wRead.id = w15_1.id then w15_4 else wRead) ∈ (after (exec Instr.linkDown w15_3)).link.out) ∧
    ((if w15_1.id = w15_1.id then w15_4 else w15_1) ∈ (after (exec Instr.linkDown w15_3)).link.out) := by
  and_intros <;> decide +kernel
theorem witness_bar0Reads :
    w15_11.live ∧
    (w15_11.link.rate ≠ 0) ∧
    (w15_11.link.mse = false) ∧
    wAsked.live ∧
    (wAsked.link.rate ≠ 0) ∧
    (wAsked.link.mse = true) ∧
    (wAsked.link.cfg.d3 = false) ∧
    (bridgeDown wAsked = false) ∧
    ((regRow RegName.axCfg).wide = false) ∧
    ((regRow RegName.axCfg).rc = false) ∧
    (1 < (regRow RegName.axCfg).count * (regRow RegName.axCfg).banks) ∧
    (20971648 = regOff RegName.axCfg 1) ∧
    (wAsked.serves RegName.axCfg 1) ∧
    (bar0Serves wAsked 20971648 = true) ∧
    (∀ b ∈ ([] : List (Option Byte)), b.isSome = true) ∧
    (wAsked.link.reads = [{ status := 0, data := [(1 : Byte)] : HostReply }]) := by
  and_intros <;> decide +kernel
theorem witness_bar2ReachesTheCellar :
    w15_12.live ∧
    (w15_12.link.rate ≠ 0) ∧
    (w15_12.link.mse = true) ∧
    (w15_12.link.cfg.d3 = false) ∧
    (bridgeDown w15_12 = false) ∧
    (w15_12.otp.lcs < 2) ∧
    (bayOn w15_12 (8 / 2 ^ 22) = true) ∧
    (w15_12.poison = []) ∧
    ((w15_12.die 0).doze = false) ∧
    (0 < 8) ∧
    (8 % 64 + 8 ≤ 64) ∧
    (w15_12.link.mps < (List.replicate 129 (3 : Byte)).length) ∧
    ([(5 : Byte), (0 : Byte), (9 : Byte)].length ≤ w15_12.link.mps) ∧
    ([(5 : Byte), (0 : Byte), (9 : Byte)] ≠ []) ∧
    (8 % 8 + [(5 : Byte), (0 : Byte), (9 : Byte)].length ≤ 8) ∧
    w15_14.live ∧
    (w15_14.link.rate ≠ 0) ∧
    (w15_14.link.mse = true) ∧
    (w15_14.link.cfg.d3 = false) ∧
    (bridgeDown w15_14 = false) ∧
    (2 ≤ w15_14.otp.lcs) := by
  and_intros <;> decide +kernel
theorem witness_bar0RejectsOtherTlps :
    w15_13.live ∧
    (w15_13.link.rate ≠ 0) ∧
    (w15_13.link.mse = true) ∧
    (w15_13.link.cfg.d3 = false) ∧
    (bridgeDown w15_13 = false) ∧
    (¬(16 = 4 ∧ 20971648 % 4 = 0 ∨ 16 = 8 ∧ 20971648 % 8 = 0)) ∧
    (BitVec.getLsbD (regGet w15_13 RegName.glbBadaccLog 0) 63 = true) := by
  and_intros <;> decide +kernel
theorem witness_inboundProblemsAndCommand :
    w15_12.live ∧
    (w15_12.link.rate ≠ 0) ∧
    (bit w15_12.link.aer.mask 0 = false) ∧
    (w15_12.link.aer.log.length < 4) ∧
    (cfgReady w15_12 = true) ∧
    (∀ q ∈ w15_12.link.out, q.sent = true) ∧
    wAsked.live ∧
    (wAsked.link.rate ≠ 0) ∧
    (bit wAsked.link.aer.mask 0 = false) ∧
    (wAsked.link.aer.log.length < 4) ∧
    (cfgReady wAsked = false) := by
  and_intros <;> decide +kernel
theorem witness_outboundReadsAreAnswered :
    wAsked.live ∧
    (wAsked.link.rate ≠ 0) ∧
    (∀ x ∈ wAsked.link.out, x.sent = true) ∧
    (List.filter (fun x => x.id == 7 + 0) wAsked.link.out = [wRead]) ∧
    (wRead.isWrite = false) ∧
    (wRead.res = none) ∧
    (wRead.kind ≠ OutKind.orphan) ∧
    (wRead.len ≤ (joinParts (insertPart (0, [(1 : Byte), (2 : Byte), (3 : Byte), (4 : Byte)]) wRead.parts)).length) ∧
    ((joinParts (insertPart (1, [(1 : Byte), (2 : Byte), (3 : Byte), (4 : Byte)]) wRead.parts)).length < wRead.len) ∧
    (wRead.parts = []) ∧
    ([(1 : Byte), (2 : Byte), (3 : Byte), (4 : Byte)].length = wRead.len) ∧
    (∀ x ∈ wAsked.link.out, x.id ≠ 9 + 0) := by
  and_intros <;> decide +kernel
theorem witness_msixMessage :
    w15_15.live ∧
    (List.find? (fun x => x.vector == 3) w15_15.msixReq = some { vector := 3, addr := (4294967304 : W64), data := (77 : W32) : MsixMsg }) ∧
    (w15_15.link.msixEn = true) ∧
    (w15_15.link.fmask = false) ∧
    ((w15_15.entry 3).masked = false) ∧
    (w15_15.link.rate ≠ 0) ∧
    (w15_15.link.mayIssue = true) ∧
    (w15_15.link.posted = none) ∧
    ((w15_15.die 0).doze = false) ∧
    (bootHolds w15_15 = false) ∧
    (w15_15.link.out = []) ∧
    w15_16.live ∧
    (List.find? (fun x => x.vector == 3) w15_16.msixReq = some { vector := 3, addr := (4294967304 : W64), data := (77 : W32) : MsixMsg }) ∧
    (w15_16.link.msixEn = false ∨ w15_16.link.fmask = true ∨ (w15_16.entry 3).masked = true) := by
  and_intros <;> decide +kernel
theorem witness_msixEntriesAndUnmask :
    w15_16.live ∧
    (reaches w15_16 (msixBase + 16 * 3) = true) ∧
    (BitVec.getLsbD (4294967295 : W32) 0 = true) ∧
    (tget false w15_16.pba 3 = true) ∧
    (w15_16.link.msixEn = true) ∧
    (w15_16.link.fmask = false) ∧
    (w15_16.link.rate ≠ 0) ∧
    (w15_16.link.mayIssue = true) ∧
    (w15_16.link.posted = none) ∧
    (bootHolds w15_16 = false) ∧
    (w15_16.link.out = []) ∧
    w15_15.live ∧
    (reaches w15_15 (msixBase + 16 * 3) = true) ∧
    (tget false w15_15.pba 3 = false) ∧
    (w15_15.pba = []) ∧
    (cfgReady w15_15 = false) ∧
    w15_23.live ∧
    (reaches w15_23 (msixBase + 16 * 3) = true) ∧
    (tget false w15_23.pba 3 = false) ∧
    (w15_23.pba = []) ∧
    (cfgReady w15_23 = true) := by
  and_intros <;> decide +kernel
theorem witness_functionLevelResetScope :
    w15_18.live ∧
    (∀ (r : Nat), ∀ e ∈ (w15_18.ring r).started, dType e.bytes ∉ [5, 6, 7, 8]) ∧
    (∀ e ∈ w15_18.ingests, e.2.owed = []) ∧
    (∀ e ∈ w15_18.egresses, e.2.owed = []) := by
  and_intros <;> first | decide +kernel | (intro r
                                           by_cases h : 8191 = r
                                           · subst h; decide +kernel
                                           · intro e he
                                             have hr : w15_18.ring r = {} := by show tget ({} : Machine.Ring) [(8191, _)] r = {}; simp [tget, h]
                                             rw [hr] at he; cases he)
theorem witness_smbusPortAnswers :
    (w15_12.power.porst = false) ∧
    ({ kind := SmbKind.sendByte : SmbTransaction }.kind = SmbKind.writeByte ∨ { kind := SmbKind.sendByte : SmbTransaction }.kind = SmbKind.sendByte) ∧
    (fld (regGet w15_12 RegName.pwrBoot 0) 0 3 = 5) ∧
    w15_12.live ∧
    (w15_12.serves RegName.glbBadaccClr 0) ∧
    (wHeld.power.porst = true ∨ { kind := SmbKind.readByte : SmbTransaction }.addr ≠ BitVec.ofNat 7 (88 + fld (regGet wHeld RegName.pwrStrap 0) 1 2)) ∧
    (w15_21.power.porst = false) ∧
    (w15_21.power.seen = some ((4 : Byte), (5 : Byte))) ∧
    ((49 : Byte) ∉ [(0 : Byte), (1 : Byte), (2 : Byte), (16 : Byte), (17 : Byte), (32 : Byte), (33 : Byte), (48 : Byte)]) ∧
    (fld (regGet w15_21 RegName.pwrBoot 0) 0 3 = 5) ∧
    w15_21.live ∧
    (w15_21.serves RegName.glbBadaccClr 0) ∧
    (w15_22.power.porst = false) ∧
    (fld (regGet w15_22 RegName.pwrBoot 0) 0 3 = 5) ∧
    (fld (regGet w15_22 RegName.glbRasRow 0) 0 4 ≠ 15) ∧
    w15_22.live ∧
    (w15_22.serves RegName.glbBadaccClr 0) ∧
    (w15_25.power.porst = false) ∧
    (fld (regGet w15_25 RegName.pwrBoot 0) 0 3 ≠ 5) ∧
    w15_25.live ∧
    (w15_25.serves RegName.glbBadaccClr 0) := by
  and_intros <;> decide +kernel

def w16_1 : State := (regPut (wBooted 2) RegName.rkRCidx 8191 (4660 : W64))
def w16_2 : State := wRun 5 { state := RingState.running : Machine.Ring }
def w16_3 : State := wRun 5 { state := RingState.stopped : Machine.Ring }
def w16_4 : State := wRun 5 { : Machine.Ring }
def w16_6 : Link := { (wBooted 1).link with out := [wRead] }
def w16_7 : State := { wBooted 1 with link := w16_6, poll := { running := true : Poll } }
def w16_9 : State := { regPut (regPut (wBooted 1) RegName.rkPoll 0 (258 : W64)) RegName.rkCmdstat 0 (1 : W64) with tick := 108, poll := { count := 15, start := 9 : Poll } }
def w16_11 : State := wPoll (OutKind.groups 4 3) (3 : W64) { groups := [4, 5, 6] : Poll }
def w16_14 : State := wPoll (OutKind.doors 4 3) (38654705673 : W64) { doors := [5] : Poll }
def w16_19 : State := { regPut (wFetched none) RegName.rkRPidx 5 (8 : W64) with link := (wBooted 1).link }
def w16_20 : OutReq := { { id := w16_19.link.nextId, kind := OutKind.fetch (↑(5 : Fin 8192)) (w16_19.ring ↑(5 : Fin 8192)).next (fetchCount w16_19 ↑(5 : Fin 8192)), addr := (regGet w16_19 RegName.rkRSqbase ↑(5 : Fin 8192) + w64 (64 * (BitVec.toNat (w16_19.ring ↑(5 : Fin 8192)).next % ringSlots w16_19 ↑(5 : Fin 8192))), min (64 * fetchCount w16_19 ↑(5 : Fin 8192)) (min w16_19.link.mrrs (4096 - BitVec.toNat (regGet w16_19 RegName.rkRSqbase ↑(5 : Fin 8192) + w64 (64 * (BitVec.toNat (w16_19.ring ↑(5 : Fin 8192)).next % ringSlots w16_19 ↑(5 : Fin 8192)))) % 4096))).1, len := (regGet w16_19 RegName.rkRSqbase ↑(5 : Fin 8192) + w64 (64 * (BitVec.toNat (w16_19.ring ↑(5 : Fin 8192)).next % ringSlots w16_19 ↑(5 : Fin 8192))), min (64 * fetchCount w16_19 ↑(5 : Fin 8192)) (min w16_19.link.mrrs (4096 - BitVec.toNat (regGet w16_19 RegName.rkRSqbase ↑(5 : Fin 8192) + w64 (64 * (BitVec.toNat (w16_19.ring ↑(5 : Fin 8192)).next % ringSlots w16_19 ↑(5 : Fin 8192)))) % 4096))).2 : OutReq } with sent := true }
def w16_23 : State := wFetched (some (OutRes.data (List.map (BitVec.ofNat 8) (List.range 128))))
def w16_24 : State := wFetched (some (OutRes.fail 4))
def w16_25 : State := wHead (wDesc [(0, (3 : Byte))])
def w16_28 : State := wHead (wDesc [(0, (11 : Byte))])
def w16_31 : State := wToken 8191 RingState.running 15
def w16_34 : State := wWait [1, 5] jobDesc
def w16_36 : State := wWait [1] (moveDesc (4 : Byte))
def w16_37 : State := wJob { stamp := (4660 : W64) : Job } jobDesc
def w16_38 : State := wJob { stamp := (4660 : W64) : Job } (jobDesc.set 18 (0 : Byte))
def w16_39 : State := wJob wOver jobDesc
def w16_42 : State := wMove (8 : Byte) 2
def w16_43 : State := wMove (8 : Byte) 8
def w16_44 : State := wHandover 0 false { : Bay }
def w16_45 : Started := { wStarted (7 : W32) (wDesc [(0, (4 : Byte)), (2, (2 : Byte)), (8, (131 : Byte)), (9, (60 : Byte)), (10, (3 : Byte)), (11, (61 : Byte))]) with prog := 0, busy := false }
def w16_46 : State := wHandover 0 true { owner := 2, force := 2 : Bay }
def w16_47 : Started := { wStarted (7 : W32) (wDesc [(0, (4 : Byte)), (2, (2 : Byte)), (8, (131 : Byte)), (9, (60 : Byte)), (10, (3 : Byte)), (11, (61 : Byte))]) with prog := 0, busy := true }
def w16_48 : State := wHandover 1 false { owner := 2, force := 2 : Bay }
def w16_49 : Started := { wStarted (7 : W32) (wDesc [(0, (4 : Byte)), (2, (2 : Byte)), (8, (131 : Byte)), (9, (60 : Byte)), (10, (3 : Byte)), (11, (61 : Byte))]) with prog := 1, busy := false }
def w16_50 : State := wHandover 1 true { owner := 2, force := 2 : Bay }
def w16_51 : Started := { wStarted (7 : W32) (wDesc [(0, (4 : Byte)), (2, (2 : Byte)), (8, (131 : Byte)), (9, (60 : Byte)), (10, (3 : Byte)), (11, (61 : Byte))]) with prog := 1, busy := true }
def w16_52 : State := wWaits (9 : W64) (2 : W64) RingState.running
def w16_53 : State := wWaits (8 : W64) (2 : W64) RingState.stopped
def w16_54 : State := wWaits (9 : W64) (3 : W64) RingState.running
def w16_56 : State := wRecord (771 : W64) (2 : W64) 0 (0 : Byte)
def w16_57 : Started := { wStarted (7 : W32) (wDesc [(0, (3 : Byte)), (1, (0 : Byte))]) with done := some ({ status := 0 : Outcome }, (8192 : W64), List.replicate 32 (7 : Byte)) }
def w16_58 : State := wRecord (899 : W64) (2 : W64) 0 (0 : Byte)
def w16_59 : State := wRecord (899 : W64) (2 : W64) 1 (0 : Byte)
def w16_62 : State := { wRecord (899 : W64) (258 : W64) 1 (0 : Byte) with tick := 500 }
def w16_64 : State := regPut (wRun 5 { state := RingState.stopped : Machine.Ring }) RegName.rkCmdstat 0 (1 : W64)
def w16_65 : State := regPut (wRun 5 { state := RingState.resetting : Machine.Ring }) RegName.rkCmdstat 0 (1 : W64)
def w16_66 : State := (wRun 5 { state := RingState.running : Machine.Ring }).setRing 3 { state := RingState.running, started := [wStarted (7 : W32) (wDesc [(0, (10 : Byte)), (2, (5 : Byte)), (4, (9 : Byte)), (8, (2 : Byte))])] : Machine.Ring }
def w16_69 : OutReq := { wRead with kind := OutKind.moveRead 2 }
def w16_70 : Link := { (wMove (40 : Byte) 0).link with out := [w16_69] }
def w16_71 : State := { wMove (40 : Byte) 0 with link := w16_70 }
def w16_72 : State := (wEgDesc []).1
def w16_73 : State := (wEgDesc [(9, { state := EgState.sending : Egress })]).1
def w16_78 : State := wHead2 (wDesc [(0, (3 : Byte)), (1, (2 : Byte))]) { : Machine.Ring }
def w16_83 : State := wHead (wDesc [(0, (5 : Byte)), (4, (2 : Byte))])
def w16_89 : State := { wHead2 (moveDesc (4 : Byte)) { metAt := some 4, engine := some 3 : Machine.Ring } with engines := [(3, { busy := true, ring := 5, seqNo := (7 : W32), claim := true : Engine })] }
def w16_90 : State := wJobHead 1
def w16_91 : State := wJobHead 2
def w16_92 : State := regPut (wJobHead 2) RegName.glbRasRow 0 (16 : W64)
def w16_93 : State := { wMove (8 : Byte) 2 with link := (wBooted 1).link, rings := [(5, { state := RingState.running, started := [wStarted (7 : W32) ((moveDesc (8 : Byte)).set 2 (2 : Byte))] : Machine.Ring })] }
def w16_94 : State := { wMove (8 : Byte) 2 with rings := [(5, { state := RingState.running, started := [wStarted (7 : W32) ((moveDesc (8 : Byte)).set 2 (1 : Byte))] : Machine.Ring })] }
def w16_95 : OutReq := { wRead with kind := OutKind.moveRead 2, len := 6, res := some (OutRes.data [(1 : Byte), (2 : Byte), (3 : Byte), (4 : Byte), (5 : Byte), (6 : Byte)]) }
def w16_96 : Link := { (wBooted 1).link with out := [w16_95] }
def w16_97 : State := { wMove (8 : Byte) 2 with link := w16_96, rings := [(5, { state := RingState.running, started := [wStarted (7 : W32) ((moveDesc (8 : Byte)).set 2 (1 : Byte))] : Machine.Ring })] }
def w16_98 : State := (wObj (wDesc [(0, (5 : Byte)), (2, (3 : Byte)), (4, (2 : Byte)), (8, (1 : Byte)), (16, (1 : Byte))]) 0).1
def w16_101 : State := (wObj (wDesc [(0, (6 : Byte)), (2, (3 : Byte)), (4, (1 : Byte))]) 0).1
def w16_102 : State := { (wObj (wDesc [(0, (6 : Byte)), (2, (3 : Byte)), (4, (2 : Byte))]) 0).1 with timers := [(3, { run := true : Timer })] }
def w16_104 : State := { (wObj (wDesc [(0, (6 : Byte)), (2, (3 : Byte)), (4, (4 : Byte))]) 0).1 with timers := [(3, { run := true, down := true, cnt := (8 : W32), pscnt := 7 : Timer })] }
def w16_105 : State := (wObj (wDesc [(0, (7 : Byte)), (2, (3 : Byte)), (4, (1 : Byte)), (8, (2 : Byte)), (20, (64 : Byte))]) 0).1
def w16_107 : State := (wObj (wDesc [(0, (7 : Byte)), (2, (3 : Byte)), (4, (1 : Byte)), (8, (1 : Byte)), (16, (255 : Byte))]) 0).1
theorem witness_ringEnableStarts :
    w16_1.live ∧
    (w16_1.serves RegName.rkRCfg 8191) ∧
    (w16_1.otp.lcs < 3) ∧
    ((w16_1.ring 8191).state = RingState.disabled) ∧
    (fld (17 : W32) 0 5 ≠ 0) ∧
    (fld (17 : W32) 0 5 ≤ 17) ∧
    (0 ≠ 8191) := by
  and_intros <;> decide +kernel
theorem witness_ringSetupIsFrozen :
    w16_2.live ∧
    (w16_2.serves (RingReg.epoch, RegName.rkREpoch).2 5) ∧
    (w16_2.serves (RingReg.sqbase, RegName.rkRSqbase).2 5) ∧
    (w16_2.serves (RingReg.cqbase, RegName.rkRCqbase).2 5) ∧
    (w16_2.serves (RingReg.cidx, RegName.rkRCidx).2 5) ∧
    (w16_2.serves RegName.rkRCfg 5) ∧
    ((w16_2.ring 5).state ≠ RingState.disabled) ∧
    (w16_2.serves RegName.rkRMod 5) ∧
    w16_4.live ∧
    (w16_4.serves (RingReg.epoch, RegName.rkREpoch).2 5) ∧
    (w16_4.serves (RingReg.sqbase, RegName.rkRSqbase).2 5) ∧
    (w16_4.serves (RingReg.cqbase, RegName.rkRCqbase).2 5) ∧
    (w16_4.serves (RingReg.cidx, RegName.rkRCidx).2 5) ∧
    (w16_4.serves RegName.rkRCfg 5) ∧
    ((w16_4.ring 5).state = RingState.disabled) ∧
    (fld (regMerge (regRow RegName.rkRCfg) (regGet w16_4 RegName.rkRCfg 5) (384 : W64)) 0 5 = 0) ∧
    (w16_4.serves RegName.rkRMod 5) := by
  and_intros <;> decide +kernel
theorem witness_pollStarts :
    w16_7.live ∧
    (∀ q ∈ w16_7.link.out, q.sent = true) ∧
    (Instr.poll = Instr.pollCommand → w16_7.serves RegName.rkCmd 0 ∧ BitVec.getLsbD (regGet w16_7 RegName.rkCmdstat 0) 0 = false) ∧
    (Instr.poll = Instr.pollIntervalExpiry → pollIntv w16_7 ≠ 0 ∧ w16_7.poll.start + 50 * pollIntv w16_7 ≤ w16_7.tick) ∧
    (w16_7.poll.running = true) ∧
    (Instr.pollCommand = Instr.pollCommand → w16_7.serves RegName.rkCmd 0 ∧ BitVec.getLsbD (regGet w16_7 RegName.rkCmdstat 0) 0 = false) ∧
    (Instr.pollCommand = Instr.pollIntervalExpiry → pollIntv w16_7 ≠ 0 ∧ w16_7.poll.start + 50 * pollIntv w16_7 ≤ w16_7.tick) ∧
    (¬(pollIntv w16_7 ≠ 0 ∧ w16_7.poll.start + 50 * pollIntv w16_7 ≤ w16_7.tick)) ∧
    w16_9.live ∧
    (∀ q ∈ w16_9.link.out, q.sent = true) ∧
    (Instr.poll = Instr.pollCommand → w16_9.serves RegName.rkCmd 0 ∧ BitVec.getLsbD (regGet w16_9 RegName.rkCmdstat 0) 0 = false) ∧
    (Instr.poll = Instr.pollIntervalExpiry → pollIntv w16_9 ≠ 0 ∧ w16_9.poll.start + 50 * pollIntv w16_9 ≤ w16_9.tick) ∧
    (w16_9.poll.running = false) ∧
    (¬(pollIntv w16_9 ≠ 0 ∧ w16_9.poll.start + 50 * pollIntv w16_9 ≤ w16_9.tick)) ∧
    (w16_9.serves RegName.rkCmd 0) ∧
    (BitVec.getLsbD (regGet w16_9 RegName.rkCmdstat 0) 0 = true) := by
  and_intros <;> decide +kernel
theorem witness_groupWordSelectsDoorbells :
    w16_11.live ∧
    (∀ q ∈ w16_11.link.out, q.sent = true) ∧
    (w16_11.poll.running = true) ∧
    (5 ∈ w16_11.poll.groups) ∧
    (6 ∈ w16_11.poll.groups) ∧
    (6 ≠ 5) ∧
    (findOut w16_11 (coversGroup 5) = some { id := 7, kind := OutKind.groups 4 3, addr := (4096 : W64), len := 24, sent := true, res := some (OutRes.data (List.replicate 8 (0 : Byte) ++ leBytes 3 8 ++ List.replicate 8 (1 : Byte))) : OutReq }) ∧
    (0 ≠ 5) := by
  and_intros <;> decide +kernel
theorem witness_doorbellWordIsChecked :
    w16_14.live ∧
    (∀ q ∈ w16_14.link.out, q.sent = true) ∧
    (w16_14.poll.running = true) ∧
    (5 ∈ w16_14.poll.doors) ∧
    (findOut w16_14 (coversDoor 5) = some { id := 7, kind := OutKind.doors 4 3, addr := (4096 : W64), len := 24, sent := true, res := some (OutRes.data (List.replicate 8 (0 : Byte) ++ leBytes 38654705673 8 ++ List.replicate 8 (1 : Byte))) : OutReq }) ∧
    (Fin.ofNat 8192 0 ≠ (5 : Fin 8192)) := by
  and_intros <;> decide +kernel
theorem witness_descriptorsAreFetched :
    w16_19.live ∧
    ((w16_19.ring 5).state = RingState.running ∨ (w16_19.ring 5).state = RingState.stopped) ∧
    (0 < fetchCount w16_19 5) ∧
    (w16_19.link.rate ≠ 0) ∧
    (w16_19.link.mayIssue = true) ∧
    ((w16_19.die 0).doze = false) ∧
    (bootHolds w16_19 = false) ∧
    (w16_19.link.out = []) ∧
    (64 ≤ w16_19.link.mrrs) ∧
    ((if { id := w16_19.link.nextId, kind := OutKind.fetch 5 (w16_19.ring 5).next (fetchCount w16_19 5), addr := (regGet w16_19 RegName.rkRSqbase 5 + w64 (64 * (BitVec.toNat (w16_19.ring 5).next % ringSlots w16_19 5)), min (64 * fetchCount w16_19 5) (min w16_19.link.mrrs (4096 - BitVec.toNat (regGet w16_19 RegName.rkRSqbase 5 + w64 (64 * (BitVec.toNat (w16_19.ring 5).next % ringSlots w16_19 5))) % 4096))).1, len := (regGet w16_19 RegName.rkRSqbase 5 + w64 (64 * (BitVec.toNat (w16_19.ring 5).next % ringSlots w16_19 5)), min (64 * fetchCount w16_19 5) (min w16_19.link.mrrs (4096 - BitVec.toNat (regGet w16_19 RegName.rkRSqbase 5 + w64 (64 * (BitVec.toNat (w16_19.ring 5).next % ringSlots w16_19 5))) % 4096))).2 : OutReq }.id = { id := w16_19.link.nextId, kind := OutKind.fetch 5 (w16_19.ring 5).next (fetchCount w16_19 5), addr := (regGet w16_19 RegName.rkRSqbase 5 + w64 (64 * (BitVec.toNat (w16_19.ring 5).next % ringSlots w16_19 5)), min (64 * fetchCount w16_19 5) (min w16_19.link.mrrs (4096 - BitVec.toNat (regGet w16_19 RegName.rkRSqbase 5 + w64 (64 * (BitVec.toNat (w16_19.ring 5).next % ringSlots w16_19 5))) % 4096))).1, len := (regGet w16_19 RegName.rkRSqbase 5 + w64 (64 * (BitVec.toNat (w16_19.ring 5).next % ringSlots w16_19 5)), min (64 * fetchCount w16_19 5) (min w16_19.link.mrrs (4096 - BitVec.toNat (regGet w16_19 RegName.rkRSqbase 5 + w64 (64 * (BitVec.toNat (w16_19.ring 5).next % ringSlots w16_19 5))) % 4096))).2 : OutReq }.id then w16_20 else { id := w16_19.link.nextId, kind := OutKind.fetch 5 (w16_19.ring 5).next (fetchCount w16_19 5), addr := (regGet w16_19 RegName.rkRSqbase 5 + w64 (64 * (BitVec.toNat (w16_19.ring 5).next % ringSlots w16_19 5)), min (64 * fetchCount w16_19 5) (min w16_19.link.mrrs (4096 - BitVec.toNat (regGet w16_19 RegName.rkRSqbase 5 + w64 (64 * (BitVec.toNat (w16_19.ring 5).next % ringSlots w16_19 5))) % 4096))).1, len := (regGet w16_19 RegName.rkRSqbase 5 + w64 (64 * (BitVec.toNat (w16_19.ring 5).next % ringSlots w16_19 5)), min (64 * fetchCount w16_19 5) (min w16_19.link.mrrs (4096 - BitVec.toNat (regGet w16_19 RegName.rkRSqbase 5 + w64 (64 * (BitVec.toNat (w16_19.ring 5).next % ringSlots w16_19 5))) % 4096))).2 : OutReq }) ∈ (after (exec (Instr.descriptorFetch (5 : Fin 8192)) w16_19)).link.out) ∧
    (64 * fetchCount w16_19 5 ≤ w16_19.link.mrrs) ∧
    (BitVec.toNat (regGet w16_19 RegName.rkRSqbase 5 + w64 (64 * (BitVec.toNat (w16_19.ring 5).next % 2 ^ (fld (regGet w16_19 RegName.rkRCfg 5) 0 5 - 1)))) % 4096 + 64 * fetchCount w16_19 5 ≤ 4096) ∧
    w16_23.live ∧
    ((w16_23.ring 5).state = RingState.running ∨ (w16_23.ring 5).state = RingState.stopped) ∧
    (w16_23.link.out = [{ id := 7, kind := OutKind.fetch 5 (7 : W32) 2, addr := (4096 : W64), len := 128, sent := true, res := some (OutRes.data (List.map (BitVec.ofNat 8) (List.range 128))) : OutReq }]) ∧
    ({ id := 7, kind := OutKind.fetch 5 (7 : W32) 2, addr := (4096 : W64), len := 128, sent := true, res := some (OutRes.data (List.map (BitVec.ofNat 8) (List.range 128))) : OutReq }.kind = OutKind.fetch 5 (7 : W32) 2) ∧
    ((List.map (BitVec.ofNat 8) (List.range 128)).length = { id := 7, kind := OutKind.fetch 5 (7 : W32) 2, addr := (4096 : W64), len := 128, sent := true, res := some (OutRes.data (List.map (BitVec.ofNat 8) (List.range 128))) : OutReq }.len) ∧
    w16_24.live ∧
    ((w16_24.ring 5).state = RingState.running ∨ (w16_24.ring 5).state = RingState.stopped) ∧
    (w16_24.link.out = [{ id := 7, kind := OutKind.fetch 5 (7 : W32) 2, addr := (4096 : W64), len := 128, sent := true, res := some (OutRes.fail 4) : OutReq }]) ∧
    ({ id := 7, kind := OutKind.fetch 5 (7 : W32) 2, addr := (4096 : W64), len := 128, sent := true, res := some (OutRes.fail 4) : OutReq }.kind = OutKind.fetch 5 (7 : W32) 2) := by
  and_intros <;> decide +kernel
theorem witness_descriptorStart :
    w16_25.live ∧
    (recovering w16_25 = false) ∧
    ((w16_25.ring 5).state = RingState.running) ∧
    ((w16_25.ring 5).checked = false) ∧
    ((w16_25.ring 5).fetched = [{ seqNo := (7 : W32), bytes := wDesc [(0, (3 : Byte))] : Desc }]) ∧
    ((w16_25.ring 5).started = []) ∧
    (descBad w16_25 5 { seqNo := (7 : W32), bytes := wDesc [(0, (3 : Byte))] : Desc }.bytes = none) ∧
    (jobsOff w16_25 = false) ∧
    (¬(dLcond { seqNo := (7 : W32), bytes := wDesc [(0, (3 : Byte))] : Desc }.bytes = 2 ∨ dLcond { seqNo := (7 : W32), bytes := wDesc [(0, (3 : Byte))] : Desc }.bytes = 3 ∧ (w16_25.ring 5).used = false) ∨ (w16_25.ring 5).tokens ≠ []) ∧
    (¬(dType { seqNo := (7 : W32), bytes := wDesc [(0, (3 : Byte))] : Desc }.bytes = 1 ∧ jobUnservable w16_25 { seqNo := (7 : W32), bytes := wDesc [(0, (3 : Byte))] : Desc }.bytes = false ∧ jobHolds w16_25 (jobId 5 { seqNo := (7 : W32), bytes := wDesc [(0, (3 : Byte))] : Desc }.seqNo) { seqNo := (7 : W32), bytes := wDesc [(0, (3 : Byte))] : Desc }.bytes = false ∨ dType { seqNo := (7 : W32), bytes := wDesc [(0, (3 : Byte))] : Desc }.bytes = 2 ∧ (w16_25.ring 5).engine = none)) ∧
    (dType { seqNo := (7 : W32), bytes := wDesc [(0, (3 : Byte))] : Desc }.bytes = 3 ∨ dType { seqNo := (7 : W32), bytes := wDesc [(0, (3 : Byte))] : Desc }.bytes = 9 ∨ dType { seqNo := (7 : W32), bytes := wDesc [(0, (3 : Byte))] : Desc }.bytes = 4 ∧ dByte { seqNo := (7 : W32), bytes := wDesc [(0, (3 : Byte))] : Desc }.bytes 2 = 0 ∨ 5 ≤ dType { seqNo := (7 : W32), bytes := wDesc [(0, (3 : Byte))] : Desc }.bytes ∧ dType { seqNo := (7 : W32), bytes := wDesc [(0, (3 : Byte))] : Desc }.bytes ≤ 8 ∧ oMask { seqNo := (7 : W32), bytes := wDesc [(0, (3 : Byte))] : Desc }.bytes = 0 ∧ oOp { seqNo := (7 : W32), bytes := wDesc [(0, (3 : Byte))] : Desc }.bytes = 0) ∧
    w16_28.live ∧
    (recovering w16_28 = false) ∧
    ((w16_28.ring 5).state = RingState.running) ∧
    ((w16_28.ring 5).checked = false) ∧
    ((w16_28.ring 5).fetched = [{ seqNo := (7 : W32), bytes := wDesc [(0, (11 : Byte))] : Desc }]) ∧
    ((w16_28.ring 5).started = []) ∧
    (descBad w16_28 5 { seqNo := (7 : W32), bytes := wDesc [(0, (11 : Byte))] : Desc }.bytes = some 1) ∧
    w16_78.live ∧
    (recovering w16_78 = false) ∧
    ((w16_78.ring 5).state = RingState.running) ∧
    ((w16_78.ring 5).checked = false) ∧
    ((w16_78.ring 5).fetched = [{ seqNo := (7 : W32), bytes := wDesc [(0, (3 : Byte)), (1, (2 : Byte))] : Desc }]) ∧
    ((w16_78.ring 5).started = []) ∧
    (descBad w16_78 5 { seqNo := (7 : W32), bytes := wDesc [(0, (3 : Byte)), (1, (2 : Byte))] : Desc }.bytes = none) ∧
    (jobsOff w16_78 = false) ∧
    (dLcond { seqNo := (7 : W32), bytes := wDesc [(0, (3 : Byte)), (1, (2 : Byte))] : Desc }.bytes = 2 ∨ dLcond { seqNo := (7 : W32), bytes := wDesc [(0, (3 : Byte)), (1, (2 : Byte))] : Desc }.bytes = 3 ∧ (w16_78.ring 5).used = false) ∧
    ((w16_78.ring 5).tokens = []) ∧
    w16_83.live ∧
    (recovering w16_83 = false) ∧
    ((w16_83.ring 5).state = RingState.running) ∧
    ((w16_83.ring 5).checked = false) ∧
    ((w16_83.ring 5).fetched = [{ seqNo := (7 : W32), bytes := wDesc [(0, (5 : Byte)), (4, (2 : Byte))] : Desc }]) ∧
    ((w16_83.ring 5).started = []) ∧
    (descBad w16_83 5 { seqNo := (7 : W32), bytes := wDesc [(0, (5 : Byte)), (4, (2 : Byte))] : Desc }.bytes = none) ∧
    (jobsOff w16_83 = false) ∧
    (¬(dLcond { seqNo := (7 : W32), bytes := wDesc [(0, (5 : Byte)), (4, (2 : Byte))] : Desc }.bytes = 2 ∨ dLcond { seqNo := (7 : W32), bytes := wDesc [(0, (5 : Byte)), (4, (2 : Byte))] : Desc }.bytes = 3 ∧ (w16_83.ring 5).used = false) ∨ (w16_83.ring 5).tokens ≠ []) ∧
    (¬(dType { seqNo := (7 : W32), bytes := wDesc [(0, (5 : Byte)), (4, (2 : Byte))] : Desc }.bytes = 1 ∧ jobUnservable w16_83 { seqNo := (7 : W32), bytes := wDesc [(0, (5 : Byte)), (4, (2 : Byte))] : Desc }.bytes = false ∧ jobHolds w16_83 (jobId 5 { seqNo := (7 : W32), bytes := wDesc [(0, (5 : Byte)), (4, (2 : Byte))] : Desc }.seqNo) { seqNo := (7 : W32), bytes := wDesc [(0, (5 : Byte)), (4, (2 : Byte))] : Desc }.bytes = false ∨ dType { seqNo := (7 : W32), bytes := wDesc [(0, (5 : Byte)), (4, (2 : Byte))] : Desc }.bytes = 2 ∧ (w16_83.ring 5).engine = none)) ∧
    (3 < dType { seqNo := (7 : W32), bytes := wDesc [(0, (5 : Byte)), (4, (2 : Byte))] : Desc }.bytes) ∧
    (¬(dType { seqNo := (7 : W32), bytes := wDesc [(0, (5 : Byte)), (4, (2 : Byte))] : Desc }.bytes = 3 ∨ dType { seqNo := (7 : W32), bytes := wDesc [(0, (5 : Byte)), (4, (2 : Byte))] : Desc }.bytes = 9 ∨ dType { seqNo := (7 : W32), bytes := wDesc [(0, (5 : Byte)), (4, (2 : Byte))] : Desc }.bytes = 4 ∧ dByte { seqNo := (7 : W32), bytes := wDesc [(0, (5 : Byte)), (4, (2 : Byte))] : Desc }.bytes 2 = 0 ∨ 5 ≤ dType { seqNo := (7 : W32), bytes := wDesc [(0, (5 : Byte)), (4, (2 : Byte))] : Desc }.bytes ∧ dType { seqNo := (7 : W32), bytes := wDesc [(0, (5 : Byte)), (4, (2 : Byte))] : Desc }.bytes ≤ 8 ∧ oMask { seqNo := (7 : W32), bytes := wDesc [(0, (5 : Byte)), (4, (2 : Byte))] : Desc }.bytes = 0 ∧ oOp { seqNo := (7 : W32), bytes := wDesc [(0, (5 : Byte)), (4, (2 : Byte))] : Desc }.bytes = 0)) ∧
    w16_89.live ∧
    (recovering w16_89 = false) ∧
    ((w16_89.ring 5).state = RingState.running) ∧
    ((w16_89.ring 5).checked = false) ∧
    ((w16_89.ring 5).fetched = [{ seqNo := (7 : W32), bytes := moveDesc (4 : Byte) : Desc }]) ∧
    ((w16_89.ring 5).started = []) ∧
    (descBad w16_89 5 { seqNo := (7 : W32), bytes := moveDesc (4 : Byte) : Desc }.bytes = none) ∧
    (jobsOff w16_89 = false) ∧
    (¬(dLcond { seqNo := (7 : W32), bytes := moveDesc (4 : Byte) : Desc }.bytes = 2 ∨ dLcond { seqNo := (7 : W32), bytes := moveDesc (4 : Byte) : Desc }.bytes = 3 ∧ (w16_89.ring 5).used = false) ∨ (w16_89.ring 5).tokens ≠ []) ∧
    (¬(dType { seqNo := (7 : W32), bytes := moveDesc (4 : Byte) : Desc }.bytes = 1 ∧ jobUnservable w16_89 { seqNo := (7 : W32), bytes := moveDesc (4 : Byte) : Desc }.bytes = false ∧ jobHolds w16_89 (jobId 5 { seqNo := (7 : W32), bytes := moveDesc (4 : Byte) : Desc }.seqNo) { seqNo := (7 : W32), bytes := moveDesc (4 : Byte) : Desc }.bytes = false ∨ dType { seqNo := (7 : W32), bytes := moveDesc (4 : Byte) : Desc }.bytes = 2 ∧ (w16_89.ring 5).engine = none)) ∧
    (dType { seqNo := (7 : W32), bytes := moveDesc (4 : Byte) : Desc }.bytes = 2) ∧
    ((w16_89.ring 5).engine = some 3) ∧
    w16_90.live ∧
    (recovering w16_90 = false) ∧
    ((w16_90.ring 5).state = RingState.running) ∧
    ((w16_90.ring 5).checked = false) ∧
    ((w16_90.ring 5).fetched = [{ seqNo := (7 : W32), bytes := jobDesc : Desc }]) ∧
    ((w16_90.ring 5).started = []) ∧
    (descBad w16_90 5 { seqNo := (7 : W32), bytes := jobDesc : Desc }.bytes = none) ∧
    (jobsOff w16_90 = false) ∧
    (¬(dLcond { seqNo := (7 : W32), bytes := jobDesc : Desc }.bytes = 2 ∨ dLcond { seqNo := (7 : W32), bytes := jobDesc : Desc }.bytes = 3 ∧ (w16_90.ring 5).used = false) ∨ (w16_90.ring 5).tokens ≠ []) ∧
    (dType { seqNo := (7 : W32), bytes := jobDesc : Desc }.bytes = 1 ∧ jobUnservable w16_90 { seqNo := (7 : W32), bytes := jobDesc : Desc }.bytes = false ∧ jobHolds w16_90 (jobId 5 { seqNo := (7 : W32), bytes := jobDesc : Desc }.seqNo) { seqNo := (7 : W32), bytes := jobDesc : Desc }.bytes = false ∨ dType { seqNo := (7 : W32), bytes := jobDesc : Desc }.bytes = 2 ∧ (w16_90.ring 5).engine = none) ∧
    w16_91.live ∧
    (recovering w16_91 = false) ∧
    ((w16_91.ring 5).state = RingState.running) ∧
    ((w16_91.ring 5).checked = false) ∧
    ((w16_91.ring 5).fetched = [{ seqNo := (7 : W32), bytes := jobDesc : Desc }]) ∧
    ((w16_91.ring 5).started = []) ∧
    (descBad w16_91 5 { seqNo := (7 : W32), bytes := jobDesc : Desc }.bytes = none) ∧
    (jobsOff w16_91 = false) ∧
    (¬(dLcond { seqNo := (7 : W32), bytes := jobDesc : Desc }.bytes = 2 ∨ dLcond { seqNo := (7 : W32), bytes := jobDesc : Desc }.bytes = 3 ∧ (w16_91.ring 5).used = false) ∨ (w16_91.ring 5).tokens ≠ []) ∧
    (¬(dType { seqNo := (7 : W32), bytes := jobDesc : Desc }.bytes = 1 ∧ jobUnservable w16_91 { seqNo := (7 : W32), bytes := jobDesc : Desc }.bytes = false ∧ jobHolds w16_91 (jobId 5 { seqNo := (7 : W32), bytes := jobDesc : Desc }.seqNo) { seqNo := (7 : W32), bytes := jobDesc : Desc }.bytes = false ∨ dType { seqNo := (7 : W32), bytes := jobDesc : Desc }.bytes = 2 ∧ (w16_91.ring 5).engine = none)) ∧
    (dType { seqNo := (7 : W32), bytes := jobDesc : Desc }.bytes = 1) ∧
    (jobUnservable w16_91 { seqNo := (7 : W32), bytes := jobDesc : Desc }.bytes = false) ∧
    w16_92.live ∧
    (recovering w16_92 = false) ∧
    ((w16_92.ring 5).state = RingState.running) ∧
    ((w16_92.ring 5).checked = false) ∧
    ((w16_92.ring 5).fetched = [{ seqNo := (7 : W32), bytes := jobDesc : Desc }]) ∧
    ((w16_92.ring 5).started = []) ∧
    (descBad w16_92 5 { seqNo := (7 : W32), bytes := jobDesc : Desc }.bytes = none) ∧
    (jobsOff w16_92 = false) ∧
    (¬(dLcond { seqNo := (7 : W32), bytes := jobDesc : Desc }.bytes = 2 ∨ dLcond { seqNo := (7 : W32), bytes := jobDesc : Desc }.bytes = 3 ∧ (w16_92.ring 5).used = false) ∨ (w16_92.ring 5).tokens ≠ []) ∧
    (¬(dType { seqNo := (7 : W32), bytes := jobDesc : Desc }.bytes = 1 ∧ jobUnservable w16_92 { seqNo := (7 : W32), bytes := jobDesc : Desc }.bytes = false ∧ jobHolds w16_92 (jobId 5 { seqNo := (7 : W32), bytes := jobDesc : Desc }.seqNo) { seqNo := (7 : W32), bytes := jobDesc : Desc }.bytes = false ∨ dType { seqNo := (7 : W32), bytes := jobDesc : Desc }.bytes = 2 ∧ (w16_92.ring 5).engine = none)) ∧
    (jobUnservable w16_92 { seqNo := (7 : W32), bytes := jobDesc : Desc }.bytes = true) := by
  and_intros <;> decide +kernel
theorem witness_launchTokens :
    w16_31.live ∧
    (dueAction w16_31 3 ActKind.ring = some { due := 60, alarm := 3, kind := ActKind.ring, stamp := (5 : W64), axis := 1, k := (9 : W64), word := w32 8191, base := (0 : W64) : Machine.Action }) ∧
    ({ due := 60, alarm := 3, kind := ActKind.ring, stamp := (5 : W64), axis := 1, k := (9 : W64), word := w32 8191, base := (0 : W64) : Machine.Action } ∈ dueActions w16_31 3 ActKind.ring fun a => fld a.word 0 13) := by
  and_intros <;> decide +kernel
theorem witness_reservationOrder :
    w16_34.live ∧
    (jobsOff w16_34 = false) ∧
    (coreFree w16_34 1 = true) ∧
    (List.find? (fun p => p.1 == 1) (assignCores w16_34 (rerunWaiters w16_34 ++ waiters w16_34 1) (List.filter (coreFree w16_34) (List.range 64))) = some (1, (nat_lit 1, jobId (5, { state := RingState.running, fetched := [{ seqNo := (7 : W32), bytes := jobDesc : Desc }], metAt := some 3 : Machine.Ring }).1 { seqNo := (7 : W32), bytes := jobDesc : Desc }.seqNo).2)) ∧
    w16_36.live ∧
    (jobsOff w16_36 = false) ∧
    (coreFree w16_36 5 = false) ∧
    ((w16_36.engine 3).busy = false) ∧
    (List.find? (fun w => (w16_36.ring w.1).engine.isNone) (waiters w16_36 2) = some (((ringClass w16_36 (5, { state := RingState.running, fetched := [{ seqNo := (7 : W32), bytes := moveDesc (4 : Byte) : Desc }], metAt := some 3 : Machine.Ring }).1 * 2 ^ 192 + 3) * 8192 + (5, { state := RingState.running, fetched := [{ seqNo := (7 : W32), bytes := moveDesc (4 : Byte) : Desc }], metAt := some 3 : Machine.Ring }).1, (5, { state := RingState.running, fetched := [{ seqNo := (7 : W32), bytes := moveDesc (4 : Byte) : Desc }], metAt := some 3 : Machine.Ring }).1, { seqNo := (7 : W32), bytes := moveDesc (4 : Byte) : Desc }.seqNo, { seqNo := (7 : W32), bytes := moveDesc (4 : Byte) : Desc }.bytes).2.1, ((ringClass w16_36 (5, { state := RingState.running, fetched := [{ seqNo := (7 : W32), bytes := moveDesc (4 : Byte) : Desc }], metAt := some 3 : Machine.Ring }).1 * 2 ^ 192 + 3) * 8192 + (5, { state := RingState.running, fetched := [{ seqNo := (7 : W32), bytes := moveDesc (4 : Byte) : Desc }], metAt := some 3 : Machine.Ring }).1, (5, { state := RingState.running, fetched := [{ seqNo := (7 : W32), bytes := moveDesc (4 : Byte) : Desc }], metAt := some 3 : Machine.Ring }).1, { seqNo := (7 : W32), bytes := moveDesc (4 : Byte) : Desc }.seqNo, { seqNo := (7 : W32), bytes := moveDesc (4 : Byte) : Desc }.bytes).2.2.1, ((ringClass w16_36 (5, { state := RingState.running, fetched := [{ seqNo := (7 : W32), bytes := moveDesc (4 : Byte) : Desc }], metAt := some 3 : Machine.Ring }).1 * 2 ^ 192 + 3) * 8192 + (5, { state := RingState.running, fetched := [{ seqNo := (7 : W32), bytes := moveDesc (4 : Byte) : Desc }], metAt := some 3 : Machine.Ring }).1, (5, { state := RingState.running, fetched := [{ seqNo := (7 : W32), bytes := moveDesc (4 : Byte) : Desc }], metAt := some 3 : Machine.Ring }).1, { seqNo := (7 : W32), bytes := moveDesc (4 : Byte) : Desc }.seqNo, { seqNo := (7 : W32), bytes := moveDesc (4 : Byte) : Desc }.bytes).2.2.2)) := by
  and_intros <;> decide +kernel
theorem witness_jobStartsItsCores :
    wReady.live ∧
    (jobsOff wReady = false) ∧
    ((wReady.job (jobId 5 (7 : W32))).bytes ≠ []) ∧
    ((wReady.job (jobId 5 (7 : W32))).running = false) ∧
    (jPair (wReady.job (jobId 5 (7 : W32))).bytes = false) ∧
    (jobUnservable wReady (wReady.job (jobId 5 (7 : W32))).bytes = false) ∧
    (jobHolds wReady (jobId 5 (7 : W32)) (wReady.job (jobId 5 (7 : W32))).bytes = true) ∧
    (∀ n ∈ List.filter (fun n => (wReady.core n).reserved == some (jobId 5 (7 : W32)) && (jSet (wReady.job (jobId 5 (7 : W32))).bytes).contains n) (List.range 64), coreReady wReady n = true ∧ (wReady.core n).haltPend = false) ∧
    ((List.filter (fun n => (wReady.core n).reserved == some (jobId 5 (7 : W32)) && (jSet (wReady.job (jobId 5 (7 : W32))).bytes).contains n) (List.range 64))[0]? = some (nat_lit 0)) ∧
    (0 < 4) := by
  and_intros <;> decide +kernel
theorem witness_launchStampIsWritten :
    w16_37.live ∧
    ((w16_37.job (jobId 5 { seqNo := (7 : W32) : Launched }.seqNo)).running = true) ∧
    ((w16_37.job (jobId 5 { seqNo := (7 : W32) : Launched }.seqNo)).stamped = false) ∧
    ((w16_37.job (jobId 5 { seqNo := (7 : W32) : Launched }.seqNo)).cores = [0, 1]) ∧
    (0 < 64) ∧
    ((w16_37.core 0).partner = false) ∧
    (0 < jPblk (w16_37.job (jobId 5 { seqNo := (7 : W32) : Launched }.seqNo)).bytes) ∧
    (jPblk (w16_37.job (jobId 5 { seqNo := (7 : W32) : Launched }.seqNo)).bytes < 2 ^ 28) ∧
    (jPblk (w16_37.job (jobId 5 { seqNo := (7 : W32) : Launched }.seqNo)).bytes % 8 = 0) ∧
    (bayOn w16_37 (jPblk (w16_37.job (jobId 5 { seqNo := (7 : W32) : Launched }.seqNo)).bytes / 2 ^ 22) = true) ∧
    ((w16_37.bay (jPblk (w16_37.job (jobId 5 { seqNo := (7 : W32) : Launched }.seqNo)).bytes / 2 ^ 22)).force = (0 / 8 : Nat)) ∧
    (w16_37.poison = []) ∧
    (bridgeHolds w16_37 (0 / 8 : Nat) (jPblk (w16_37.job (jobId 5 { seqNo := (7 : W32) : Launched }.seqNo)).bytes) 8 = false) ∧
    w16_38.live ∧
    ((w16_38.job (jobId 5 { seqNo := (7 : W32) : Launched }.seqNo)).running = true) ∧
    ((w16_38.job (jobId 5 { seqNo := (7 : W32) : Launched }.seqNo)).stamped = false) ∧
    ((w16_38.job (jobId 5 { seqNo := (7 : W32) : Launched }.seqNo)).cores = [0, 1]) ∧
    ((w16_38.core 0).partner = false) ∧
    (jPblk (w16_38.job (jobId 5 { seqNo := (7 : W32) : Launched }.seqNo)).bytes = 0) := by
  and_intros <;> decide +kernel
theorem witness_jobCompletes :
    w16_39.live ∧
    ((w16_39.job (jobId 5 (7 : W32))).ring = 5) ∧
    ((w16_39.job (jobId 5 (7 : W32))).seqNo = (7 : W32)) ∧
    ((w16_39.job (jobId 5 (7 : W32))).running = true) ∧
    ((w16_39.job (jobId 5 (7 : W32))).err = none) ∧
    ((w16_39.job (jobId 5 (7 : W32))).abort = none) ∧
    ((w16_39.job (jobId 5 (7 : W32))).fail = none) ∧
    ((w16_39.job (jobId 5 (7 : W32))).rerun = none) ∧
    (jPair (w16_39.job (jobId 5 (7 : W32))).bytes = false) ∧
    ((w16_39.job (jobId 5 (7 : W32))).partners = []) ∧
    (∀ k < (w16_39.job (jobId 5 (7 : W32))).cores.length, (rankOf (w16_39.job (jobId 5 (7 : W32))).ranks k).ended = true) ∧
    (∀ n ∈ (w16_39.job (jobId 5 (7 : W32))).cores, (w16_39.core n).sb = [] ∧ (w16_39.core n).wq = [] ∧ ownComing w16_39 n = false ∧ (w16_39.core n).stopDue = none) ∧
    ((w16_39.ring 5).started = [wStarted (7 : W32) jobDesc]) ∧
    ((wStarted (7 : W32) jobDesc).seqNo = (7 : W32)) ∧
    ((wStarted (7 : W32) jobDesc).stale = false) ∧
    ((wStarted (7 : W32) jobDesc).done = none) ∧
    (0 < 64) := by
  and_intros <;> decide +kernel
theorem witness_moveCopies :
    w16_42.live ∧
    ((w16_42.engine 2).busy = true) ∧
    ((w16_42.engine 2).claim = false) ∧
    ((w16_42.engine 2).err = none) ∧
    (findStarted w16_42 (w16_42.engine 2).ring (w16_42.engine 2).seqNo = some (wStarted (7 : W32) (moveDesc (8 : Byte)))) ∧
    ((wStarted (7 : W32) (moveDesc (8 : Byte))).done = none) ∧
    (bridgeDown w16_42 = false) ∧
    ((w16_42.ring (w16_42.engine 2).ring).state ≠ RingState.resetting) ∧
    (mvSrch (wStarted (7 : W32) (moveDesc (8 : Byte))).bytes = false) ∧
    (mvDsth (wStarted (7 : W32) (moveDesc (8 : Byte))).bytes = false) ∧
    (0 < mvLen (wStarted (7 : W32) (moveDesc (8 : Byte))).bytes - (w16_42.engine 2).pos) ∧
    ((mvSrc (wStarted (7 : W32) (moveDesc (8 : Byte))).bytes + (w16_42.engine 2).pos) % 64 + (mvLen (wStarted (7 : W32) (moveDesc (8 : Byte))).bytes - (w16_42.engine 2).pos) ≤ 64) ∧
    ((mvDst (wStarted (7 : W32) (moveDesc (8 : Byte))).bytes + (w16_42.engine 2).pos) % 64 + (mvLen (wStarted (7 : W32) (moveDesc (8 : Byte))).bytes - (w16_42.engine 2).pos) ≤ 64) ∧
    (mvSrc (wStarted (7 : W32) (moveDesc (8 : Byte))).bytes + (w16_42.engine 2).pos < 2 ^ 28) ∧
    (mvDst (wStarted (7 : W32) (moveDesc (8 : Byte))).bytes + (w16_42.engine 2).pos < 2 ^ 28) ∧
    (bayOn w16_42 ((mvSrc (wStarted (7 : W32) (moveDesc (8 : Byte))).bytes + (w16_42.engine 2).pos) / 2 ^ 22) = true) ∧
    (bayOn w16_42 ((mvDst (wStarted (7 : W32) (moveDesc (8 : Byte))).bytes + (w16_42.engine 2).pos) / 2 ^ 22) = true) ∧
    ((w16_42.bay ((mvSrc (wStarted (7 : W32) (moveDesc (8 : Byte))).bytes + (w16_42.engine 2).pos) / 2 ^ 22)).force = 8) ∧
    ((w16_42.bay ((mvDst (wStarted (7 : W32) (moveDesc (8 : Byte))).bytes + (w16_42.engine 2).pos) / 2 ^ 22)).force = 8) ∧
    (w16_42.poison = []) ∧
    w16_43.live ∧
    ((w16_43.engine 2).busy = true) ∧
    ((w16_43.engine 2).claim = false) ∧
    ((w16_43.engine 2).err = none) ∧
    (findStarted w16_43 (w16_43.engine 2).ring (w16_43.engine 2).seqNo = some (wStarted (7 : W32) (moveDesc (8 : Byte)))) ∧
    (bridgeDown w16_43 = false) ∧
    ((w16_43.ring (w16_43.engine 2).ring).state ≠ RingState.resetting) ∧
    (mvLen (wStarted (7 : W32) (moveDesc (8 : Byte))).bytes ≤ (w16_43.engine 2).pos) ∧
    (∀ q ∈ w16_43.link.out, q.kind ≠ OutKind.moveData 2) ∧
    w16_93.live ∧
    ((w16_93.engine 2).busy = true) ∧
    ((w16_93.engine 2).claim = false) ∧
    ((w16_93.engine 2).err = none) ∧
    (findStarted w16_93 (w16_93.engine 2).ring (w16_93.engine 2).seqNo = some (wStarted (7 : W32) ((moveDesc (8 : Byte)).set 2 (2 : Byte)))) ∧
    ((wStarted (7 : W32) ((moveDesc (8 : Byte)).set 2 (2 : Byte))).done = none) ∧
    (bridgeDown w16_93 = false) ∧
    ((w16_93.ring (w16_93.engine 2).ring).state ≠ RingState.resetting) ∧
    (0 < mvLen (wStarted (7 : W32) ((moveDesc (8 : Byte)).set 2 (2 : Byte))).bytes - (w16_93.engine 2).pos) ∧
    ((mvSrc (wStarted (7 : W32) ((moveDesc (8 : Byte)).set 2 (2 : Byte))).bytes + (w16_93.engine 2).pos) % 64 + (mvLen (wStarted (7 : W32) ((moveDesc (8 : Byte)).set 2 (2 : Byte))).bytes - (w16_93.engine 2).pos) ≤ 64) ∧
    ((mvDst (wStarted (7 : W32) ((moveDesc (8 : Byte)).set 2 (2 : Byte))).bytes + (w16_93.engine 2).pos) % 64 + (mvLen (wStarted (7 : W32) ((moveDesc (8 : Byte)).set 2 (2 : Byte))).bytes - (w16_93.engine 2).pos) ≤ 64) ∧
    (w16_93.link.rate ≠ 0) ∧
    (w16_93.link.mayIssue = true) ∧
    ((w16_93.die 0).doze = false) ∧
    (bootHolds w16_93 = false) ∧
    (w16_93.link.posted = none) ∧
    (64 ≤ w16_93.link.mrrs) ∧
    (64 ≤ w16_93.link.mps) ∧
    (w16_93.poison = []) ∧
    (mvSrch (wStarted (7 : W32) ((moveDesc (8 : Byte)).set 2 (2 : Byte))).bytes = false) ∧
    (mvDsth (wStarted (7 : W32) ((moveDesc (8 : Byte)).set 2 (2 : Byte))).bytes = true) ∧
    (w16_93.link.out = []) ∧
    (mvSrc (wStarted (7 : W32) ((moveDesc (8 : Byte)).set 2 (2 : Byte))).bytes + (w16_93.engine 2).pos < 2 ^ 28) ∧
    (bayOn w16_93 ((mvSrc (wStarted (7 : W32) ((moveDesc (8 : Byte)).set 2 (2 : Byte))).bytes + (w16_93.engine 2).pos) / 2 ^ 22) = true) ∧
    ((w16_93.bay ((mvSrc (wStarted (7 : W32) ((moveDesc (8 : Byte)).set 2 (2 : Byte))).bytes + (w16_93.engine 2).pos) / 2 ^ 22)).force = 8) ∧
    w16_94.live ∧
    ((w16_94.engine 2).busy = true) ∧
    ((w16_94.engine 2).claim = false) ∧
    ((w16_94.engine 2).err = none) ∧
    (findStarted w16_94 (w16_94.engine 2).ring (w16_94.engine 2).seqNo = some (wStarted (7 : W32) ((moveDesc (8 : Byte)).set 2 (1 : Byte)))) ∧
    ((wStarted (7 : W32) ((moveDesc (8 : Byte)).set 2 (1 : Byte))).done = none) ∧
    (bridgeDown w16_94 = false) ∧
    ((w16_94.ring (w16_94.engine 2).ring).state ≠ RingState.resetting) ∧
    (0 < mvLen (wStarted (7 : W32) ((moveDesc (8 : Byte)).set 2 (1 : Byte))).bytes - (w16_94.engine 2).pos) ∧
    ((mvSrc (wStarted (7 : W32) ((moveDesc (8 : Byte)).set 2 (1 : Byte))).bytes + (w16_94.engine 2).pos) % 64 + (mvLen (wStarted (7 : W32) ((moveDesc (8 : Byte)).set 2 (1 : Byte))).bytes - (w16_94.engine 2).pos) ≤ 64) ∧
    ((mvDst (wStarted (7 : W32) ((moveDesc (8 : Byte)).set 2 (1 : Byte))).bytes + (w16_94.engine 2).pos) % 64 + (mvLen (wStarted (7 : W32) ((moveDesc (8 : Byte)).set 2 (1 : Byte))).bytes - (w16_94.engine 2).pos) ≤ 64) ∧
    (w16_94.link.rate ≠ 0) ∧
    (w16_94.link.mayIssue = true) ∧
    ((w16_94.die 0).doze = false) ∧
    (bootHolds w16_94 = false) ∧
    (w16_94.link.posted = none) ∧
    (64 ≤ w16_94.link.mrrs) ∧
    (64 ≤ w16_94.link.mps) ∧
    (w16_94.poison = []) ∧
    (mvSrch (wStarted (7 : W32) ((moveDesc (8 : Byte)).set 2 (1 : Byte))).bytes = true) ∧
    (mvDsth (wStarted (7 : W32) ((moveDesc (8 : Byte)).set 2 (1 : Byte))).bytes = false) ∧
    (w16_94.link.out = []) ∧
    w16_97.live ∧
    ((w16_97.engine 2).busy = true) ∧
    ((w16_97.engine 2).claim = false) ∧
    ((w16_97.engine 2).err = none) ∧
    (findStarted w16_97 (w16_97.engine 2).ring (w16_97.engine 2).seqNo = some (wStarted (7 : W32) ((moveDesc (8 : Byte)).set 2 (1 : Byte)))) ∧
    (bridgeDown w16_97 = false) ∧
    ((w16_97.ring (w16_97.engine 2).ring).state ≠ RingState.resetting) ∧
    (0 < mvLen (wStarted (7 : W32) ((moveDesc (8 : Byte)).set 2 (1 : Byte))).bytes - (w16_97.engine 2).pos) ∧
    ((mvSrc (wStarted (7 : W32) ((moveDesc (8 : Byte)).set 2 (1 : Byte))).bytes + (w16_97.engine 2).pos) % 64 + (mvLen (wStarted (7 : W32) ((moveDesc (8 : Byte)).set 2 (1 : Byte))).bytes - (w16_97.engine 2).pos) ≤ 64) ∧
    ((mvDst (wStarted (7 : W32) ((moveDesc (8 : Byte)).set 2 (1 : Byte))).bytes + (w16_97.engine 2).pos) % 64 + (mvLen (wStarted (7 : W32) ((moveDesc (8 : Byte)).set 2 (1 : Byte))).bytes - (w16_97.engine 2).pos) ≤ 64) ∧
    (w16_97.link.rate ≠ 0) ∧
    (w16_97.link.mayIssue = true) ∧
    ((w16_97.die 0).doze = false) ∧
    (bootHolds w16_97 = false) ∧
    (w16_97.link.posted = none) ∧
    (64 ≤ w16_97.link.mrrs) ∧
    (64 ≤ w16_97.link.mps) ∧
    (w16_97.poison = []) ∧
    (w16_97.link.out = [w16_95]) ∧
    (w16_95.kind = OutKind.moveRead 2) ∧
    (w16_95.res = some (OutRes.data [(1 : Byte), (2 : Byte), (3 : Byte), (4 : Byte), (5 : Byte), (6 : Byte)])) ∧
    ([(1 : Byte), (2 : Byte), (3 : Byte), (4 : Byte), (5 : Byte), (6 : Byte)].length = mvLen (wStarted (7 : W32) ((moveDesc (8 : Byte)).set 2 (1 : Byte))).bytes - (w16_97.engine 2).pos) ∧
    (mvDst (wStarted (7 : W32) ((moveDesc (8 : Byte)).set 2 (1 : Byte))).bytes + (w16_97.engine 2).pos < 2 ^ 28) ∧
    (bayOn w16_97 ((mvDst (wStarted (7 : W32) ((moveDesc (8 : Byte)).set 2 (1 : Byte))).bytes + (w16_97.engine 2).pos) / 2 ^ 22) = true) ∧
    ((w16_97.bay ((mvDst (wStarted (7 : W32) ((moveDesc (8 : Byte)).set 2 (1 : Byte))).bytes + (w16_97.engine 2).pos) / 2 ^ 22)).force = 8) := by
  and_intros <;> decide +kernel
theorem witness_handoverMakesItsEntries :
    w16_44.live ∧
    ((w16_44.ring 5).started = [w16_45]) ∧
    (w16_45.stale = false) ∧
    (w16_45.done = none) ∧
    (dType w16_45.bytes = 4) ∧
    ((w16_44.ring 5).state ≠ RingState.resetting) ∧
    (ownResult (w16_44.bay (dWord w16_45.bytes (8 + 2 * w16_45.prog) 2 % 64)).owner (overtaken w16_44 (dWord w16_45.bytes (8 + 2 * w16_45.prog) 2 % 64)) (dWord w16_45.bytes (8 + 2 * w16_45.prog) 2 / 64 % 16) (dWord w16_45.bytes (8 + 2 * w16_45.prog) 2 / 1024 % 16) OwnAgent.handover = 0) ∧
    w16_46.live ∧
    ((w16_46.ring 5).started = [w16_47]) ∧
    (w16_47.stale = false) ∧
    (w16_47.done = none) ∧
    (dType w16_47.bytes = 4) ∧
    ((w16_46.ring 5).state ≠ RingState.resetting) ∧
    ((w16_46.bay (dWord w16_47.bytes (8 + 2 * w16_47.prog) 2 % 64)).coming = []) ∧
    (w16_47.prog + 1 < dByte w16_47.bytes 2) ∧
    w16_48.live ∧
    ((w16_48.ring 5).started = [w16_49]) ∧
    (w16_49.stale = false) ∧
    (w16_49.done = none) ∧
    (dType w16_49.bytes = 4) ∧
    ((w16_48.ring 5).state ≠ RingState.resetting) ∧
    (ownResult (w16_48.bay (dWord w16_49.bytes (8 + 2 * w16_49.prog) 2 % 64)).owner (overtaken w16_48 (dWord w16_49.bytes (8 + 2 * w16_49.prog) 2 % 64)) (dWord w16_49.bytes (8 + 2 * w16_49.prog) 2 / 64 % 16) (dWord w16_49.bytes (8 + 2 * w16_49.prog) 2 / 1024 % 16) OwnAgent.handover ≠ 0) ∧
    w16_50.live ∧
    ((w16_50.ring 5).started = [w16_51]) ∧
    (w16_51.stale = false) ∧
    (w16_51.done = none) ∧
    (dType w16_51.bytes = 4) ∧
    ((w16_50.ring 5).state ≠ RingState.resetting) ∧
    ((w16_50.bay (dWord w16_51.bytes (8 + 2 * w16_51.prog) 2 % 64)).coming = []) ∧
    (dByte w16_51.bytes 2 ≤ w16_51.prog + 1) := by
  and_intros <;> decide +kernel
theorem witness_objectsAndWaits :
    wObject.live ∧
    ((wObject.ring 5).started = [wStarted (7 : W32) (wDesc [(0, (5 : Byte)), (2, (3 : Byte)), (4, (2 : Byte))])]) ∧
    ((wStarted (7 : W32) (wDesc [(0, (5 : Byte)), (2, (3 : Byte)), (4, (2 : Byte))])).stale = false) ∧
    ((wStarted (7 : W32) (wDesc [(0, (5 : Byte)), (2, (3 : Byte)), (4, (2 : Byte))])).done = none) ∧
    (bridgeDown wObject = false) ∧
    (dType (wStarted (7 : W32) (wDesc [(0, (5 : Byte)), (2, (3 : Byte)), (4, (2 : Byte))])).bytes = 5) ∧
    (oOp (wStarted (7 : W32) (wDesc [(0, (5 : Byte)), (2, (3 : Byte)), (4, (2 : Byte))])).bytes = 2) ∧
    (oMask (wStarted (7 : W32) (wDesc [(0, (5 : Byte)), (2, (3 : Byte)), (4, (2 : Byte))])).bytes = 0) ∧
    ((wObject.alarm (oObj (wStarted (7 : W32) (wDesc [(0, (5 : Byte)), (2, (3 : Byte)), (4, (2 : Byte))])).bytes)).mark = none) ∧
    ((wObject.die (objDie (wStarted (7 : W32) (wDesc [(0, (5 : Byte)), (2, (3 : Byte)), (4, (2 : Byte))])).bytes)).doze = false) ∧
    (0 ≠ oObj (wStarted (7 : W32) (wDesc [(0, (5 : Byte)), (2, (3 : Byte)), (4, (2 : Byte))])).bytes) ∧
    w16_52.live ∧
    ((w16_52.ring 5).started = [wStarted (7 : W32) (wDesc [(0, (10 : Byte)), (2, (6 : Byte)), (4, (9 : Byte)), (8, (2 : Byte))])]) ∧
    ((wStarted (7 : W32) (wDesc [(0, (10 : Byte)), (2, (6 : Byte)), (4, (9 : Byte)), (8, (2 : Byte))])).stale = false) ∧
    ((wStarted (7 : W32) (wDesc [(0, (10 : Byte)), (2, (6 : Byte)), (4, (9 : Byte)), (8, (2 : Byte))])).done = none) ∧
    (bridgeDown w16_52 = false) ∧
    (dType (wStarted (7 : W32) (wDesc [(0, (10 : Byte)), (2, (6 : Byte)), (4, (9 : Byte)), (8, (2 : Byte))])).bytes = 10) ∧
    (((w16_52.ring (dWord (wStarted (7 : W32) (wDesc [(0, (10 : Byte)), (2, (6 : Byte)), (4, (9 : Byte)), (8, (2 : Byte))])).bytes 2 2 % 8192)).state = RingState.running ∨ (w16_52.ring (dWord (wStarted (7 : W32) (wDesc [(0, (10 : Byte)), (2, (6 : Byte)), (4, (9 : Byte)), (8, (2 : Byte))])).bytes 2 2 % 8192)).state = RingState.stopped) ∧ BitVec.setWidth 32 (regGet w16_52 RegName.rkREpoch (dWord (wStarted (7 : W32) (wDesc [(0, (10 : Byte)), (2, (6 : Byte)), (4, (9 : Byte)), (8, (2 : Byte))])).bytes 2 2 % 8192)) = w32 (dWord (wStarted (7 : W32) (wDesc [(0, (10 : Byte)), (2, (6 : Byte)), (4, (9 : Byte)), (8, (2 : Byte))])).bytes 8 4)) ∧
    ((0 : Int) ≤ (BitVec.setWidth 32 (regGet w16_52 RegName.rkRDone (dWord (wStarted (7 : W32) (wDesc [(0, (10 : Byte)), (2, (6 : Byte)), (4, (9 : Byte)), (8, (2 : Byte))])).bytes 2 2 % 8192)) - w32 (dWord (wStarted (7 : W32) (wDesc [(0, (10 : Byte)), (2, (6 : Byte)), (4, (9 : Byte)), (8, (2 : Byte))])).bytes 4 4)).toInt) ∧
    w16_53.live ∧
    ((w16_53.ring 5).started = [wStarted (7 : W32) (wDesc [(0, (10 : Byte)), (2, (6 : Byte)), (4, (9 : Byte)), (8, (2 : Byte))])]) ∧
    (bridgeDown w16_53 = false) ∧
    (((w16_53.ring (dWord (wStarted (7 : W32) (wDesc [(0, (10 : Byte)), (2, (6 : Byte)), (4, (9 : Byte)), (8, (2 : Byte))])).bytes 2 2 % 8192)).state = RingState.running ∨ (w16_53.ring (dWord (wStarted (7 : W32) (wDesc [(0, (10 : Byte)), (2, (6 : Byte)), (4, (9 : Byte)), (8, (2 : Byte))])).bytes 2 2 % 8192)).state = RingState.stopped) ∧ BitVec.setWidth 32 (regGet w16_53 RegName.rkREpoch (dWord (wStarted (7 : W32) (wDesc [(0, (10 : Byte)), (2, (6 : Byte)), (4, (9 : Byte)), (8, (2 : Byte))])).bytes 2 2 % 8192)) = w32 (dWord (wStarted (7 : W32) (wDesc [(0, (10 : Byte)), (2, (6 : Byte)), (4, (9 : Byte)), (8, (2 : Byte))])).bytes 8 4)) ∧
    (¬(0 : Int) ≤ (BitVec.setWidth 32 (regGet w16_53 RegName.rkRDone (dWord (wStarted (7 : W32) (wDesc [(0, (10 : Byte)), (2, (6 : Byte)), (4, (9 : Byte)), (8, (2 : Byte))])).bytes 2 2 % 8192)) - w32 (dWord (wStarted (7 : W32) (wDesc [(0, (10 : Byte)), (2, (6 : Byte)), (4, (9 : Byte)), (8, (2 : Byte))])).bytes 4 4)).toInt) ∧
    w16_54.live ∧
    ((w16_54.ring 5).started = [wStarted (7 : W32) (wDesc [(0, (10 : Byte)), (2, (6 : Byte)), (4, (9 : Byte)), (8, (2 : Byte))])]) ∧
    (bridgeDown w16_54 = false) ∧
    (¬(((w16_54.ring (dWord (wStarted (7 : W32) (wDesc [(0, (10 : Byte)), (2, (6 : Byte)), (4, (9 : Byte)), (8, (2 : Byte))])).bytes 2 2 % 8192)).state = RingState.running ∨ (w16_54.ring (dWord (wStarted (7 : W32) (wDesc [(0, (10 : Byte)), (2, (6 : Byte)), (4, (9 : Byte)), (8, (2 : Byte))])).bytes 2 2 % 8192)).state = RingState.stopped) ∧ BitVec.setWidth 32 (regGet w16_54 RegName.rkREpoch (dWord (wStarted (7 : W32) (wDesc [(0, (10 : Byte)), (2, (6 : Byte)), (4, (9 : Byte)), (8, (2 : Byte))])).bytes 2 2 % 8192)) = w32 (dWord (wStarted (7 : W32) (wDesc [(0, (10 : Byte)), (2, (6 : Byte)), (4, (9 : Byte)), (8, (2 : Byte))])).bytes 8 4))) ∧
    w16_72.live ∧
    ((w16_72.ring 5).started = [(wEgDesc []).2]) ∧
    ((wEgDesc []).2.stale = false) ∧
    ((wEgDesc []).2.done = none) ∧
    (bridgeDown w16_72 = false) ∧
    (dType (wEgDesc []).2.bytes = 7) ∧
    (oOp (wEgDesc []).2.bytes = 2) ∧
    (oMask (wEgDesc []).2.bytes = 0) ∧
    ((wEgDesc []).2.arrived = false) ∧
    ((wEgDesc []).2.refused = false) ∧
    ((w16_72.die (objDie (wEgDesc []).2.bytes)).doze = false) ∧
    ((w16_72.egress (oObj (wEgDesc []).2.bytes)).state = EgState.free) ∧
    ((w16_72.egress (oObj (wEgDesc []).2.bytes)).owed = []) ∧
    w16_73.live ∧
    ((w16_73.ring 5).started = [(wEgDesc []).2]) ∧
    (bridgeDown w16_73 = false) ∧
    ((w16_73.die (objDie (wEgDesc []).2.bytes)).doze = false) ∧
    ((w16_73.egress (oObj (wEgDesc []).2.bytes)).state ≠ EgState.free) ∧
    w16_98.live ∧
    ((w16_98.ring 5).started = [(wObj (wDesc [(0, (5 : Byte)), (2, (3 : Byte)), (4, (2 : Byte)), (8, (1 : Byte)), (16, (1 : Byte))]) 0).2]) ∧
    ((wObj (wDesc [(0, (5 : Byte)), (2, (3 : Byte)), (4, (2 : Byte)), (8, (1 : Byte)), (16, (1 : Byte))]) 0).2.stale = false) ∧
    ((wObj (wDesc [(0, (5 : Byte)), (2, (3 : Byte)), (4, (2 : Byte)), (8, (1 : Byte)), (16, (1 : Byte))]) 0).2.done = none) ∧
    (bridgeDown w16_98 = false) ∧
    (dType (wObj (wDesc [(0, (5 : Byte)), (2, (3 : Byte)), (4, (2 : Byte)), (8, (1 : Byte)), (16, (1 : Byte))]) 0).2.bytes = 5) ∧
    ((w16_98.alarm (oObj (wObj (wDesc [(0, (5 : Byte)), (2, (3 : Byte)), (4, (2 : Byte)), (8, (1 : Byte)), (16, (1 : Byte))]) 0).2.bytes)).mark = none) ∧
    ((w16_98.die (objDie (wObj (wDesc [(0, (5 : Byte)), (2, (3 : Byte)), (4, (2 : Byte)), (8, (1 : Byte)), (16, (1 : Byte))]) 0).2.bytes)).doze = false) ∧
    (oOp (wObj (wDesc [(0, (5 : Byte)), (2, (3 : Byte)), (4, (2 : Byte)), (8, (1 : Byte)), (16, (1 : Byte))]) 0).2.bytes = 2 ∨ oOp (wObj (wDesc [(0, (5 : Byte)), (2, (3 : Byte)), (4, (2 : Byte)), (8, (1 : Byte)), (16, (1 : Byte))]) 0).2.bytes = 0 ∧ (w16_98.alarm (oObj (wObj (wDesc [(0, (5 : Byte)), (2, (3 : Byte)), (4, (2 : Byte)), (8, (1 : Byte)), (16, (1 : Byte))]) 0).2.bytes)).state ≠ AlState.active) ∧
    (oMask (wObj (wDesc [(0, (5 : Byte)), (2, (3 : Byte)), (4, (2 : Byte)), (8, (1 : Byte)), (16, (1 : Byte))]) 0).2.bytes = 2 ^ (0, RegName.alCfg, 0).1) ∧
    w16_101.live ∧
    ((w16_101.ring 5).started = [(wObj (wDesc [(0, (6 : Byte)), (2, (3 : Byte)), (4, (1 : Byte))]) 0).2]) ∧
    ((wObj (wDesc [(0, (6 : Byte)), (2, (3 : Byte)), (4, (1 : Byte))]) 0).2.stale = false) ∧
    ((wObj (wDesc [(0, (6 : Byte)), (2, (3 : Byte)), (4, (1 : Byte))]) 0).2.done = none) ∧
    (bridgeDown w16_101 = false) ∧
    (dType (wObj (wDesc [(0, (6 : Byte)), (2, (3 : Byte)), (4, (1 : Byte))]) 0).2.bytes = 6) ∧
    ((w16_101.die (objDie (wObj (wDesc [(0, (6 : Byte)), (2, (3 : Byte)), (4, (1 : Byte))]) 0).2.bytes)).doze = false) ∧
    (oMask (wObj (wDesc [(0, (6 : Byte)), (2, (3 : Byte)), (4, (1 : Byte))]) 0).2.bytes = 0) ∧
    (tmCompat w16_101 (oObj (wObj (wDesc [(0, (6 : Byte)), (2, (3 : Byte)), (4, (1 : Byte))]) 0).2.bytes) = false) ∧
    (oOp (wObj (wDesc [(0, (6 : Byte)), (2, (3 : Byte)), (4, (1 : Byte))]) 0).2.bytes = 1 ∨ oOp (wObj (wDesc [(0, (6 : Byte)), (2, (3 : Byte)), (4, (1 : Byte))]) 0).2.bytes = 3) ∧
    w16_102.live ∧
    ((w16_102.ring 5).started = [(wObj (wDesc [(0, (6 : Byte)), (2, (3 : Byte)), (4, (2 : Byte))]) 0).2]) ∧
    ((wObj (wDesc [(0, (6 : Byte)), (2, (3 : Byte)), (4, (2 : Byte))]) 0).2.stale = false) ∧
    ((wObj (wDesc [(0, (6 : Byte)), (2, (3 : Byte)), (4, (2 : Byte))]) 0).2.done = none) ∧
    (bridgeDown w16_102 = false) ∧
    (dType (wObj (wDesc [(0, (6 : Byte)), (2, (3 : Byte)), (4, (2 : Byte))]) 0).2.bytes = 6) ∧
    ((w16_102.die (objDie (wObj (wDesc [(0, (6 : Byte)), (2, (3 : Byte)), (4, (2 : Byte))]) 0).2.bytes)).doze = false) ∧
    (oMask (wObj (wDesc [(0, (6 : Byte)), (2, (3 : Byte)), (4, (2 : Byte))]) 0).2.bytes = 0) ∧
    (tmCompat w16_102 (oObj (wObj (wDesc [(0, (6 : Byte)), (2, (3 : Byte)), (4, (2 : Byte))]) 0).2.bytes) = false) ∧
    (oOp (wObj (wDesc [(0, (6 : Byte)), (2, (3 : Byte)), (4, (2 : Byte))]) 0).2.bytes = 2) ∧
    w16_104.live ∧
    ((w16_104.ring 5).started = [(wObj (wDesc [(0, (6 : Byte)), (2, (3 : Byte)), (4, (4 : Byte))]) 0).2]) ∧
    ((wObj (wDesc [(0, (6 : Byte)), (2, (3 : Byte)), (4, (4 : Byte))]) 0).2.stale = false) ∧
    ((wObj (wDesc [(0, (6 : Byte)), (2, (3 : Byte)), (4, (4 : Byte))]) 0).2.done = none) ∧
    (bridgeDown w16_104 = false) ∧
    (dType (wObj (wDesc [(0, (6 : Byte)), (2, (3 : Byte)), (4, (4 : Byte))]) 0).2.bytes = 6) ∧
    ((w16_104.die (objDie (wObj (wDesc [(0, (6 : Byte)), (2, (3 : Byte)), (4, (4 : Byte))]) 0).2.bytes)).doze = false) ∧
    (oMask (wObj (wDesc [(0, (6 : Byte)), (2, (3 : Byte)), (4, (4 : Byte))]) 0).2.bytes = 0) ∧
    (tmCompat w16_104 (oObj (wObj (wDesc [(0, (6 : Byte)), (2, (3 : Byte)), (4, (4 : Byte))]) 0).2.bytes) = false) ∧
    (oOp (wObj (wDesc [(0, (6 : Byte)), (2, (3 : Byte)), (4, (4 : Byte))]) 0).2.bytes = 4) ∧
    w16_105.live ∧
    ((w16_105.ring 5).started = [(wObj (wDesc [(0, (7 : Byte)), (2, (3 : Byte)), (4, (1 : Byte)), (8, (2 : Byte)), (20, (64 : Byte))]) 0).2]) ∧
    ((wObj (wDesc [(0, (7 : Byte)), (2, (3 : Byte)), (4, (1 : Byte)), (8, (2 : Byte)), (20, (64 : Byte))]) 0).2.stale = false) ∧
    ((wObj (wDesc [(0, (7 : Byte)), (2, (3 : Byte)), (4, (1 : Byte)), (8, (2 : Byte)), (20, (64 : Byte))]) 0).2.done = none) ∧
    (bridgeDown w16_105 = false) ∧
    (dType (wObj (wDesc [(0, (7 : Byte)), (2, (3 : Byte)), (4, (1 : Byte)), (8, (2 : Byte)), (20, (64 : Byte))]) 0).2.bytes = 7 ∨ dType (wObj (wDesc [(0, (7 : Byte)), (2, (3 : Byte)), (4, (1 : Byte)), (8, (2 : Byte)), (20, (64 : Byte))]) 0).2.bytes = 8 ∧ ((wObj (wDesc [(0, (7 : Byte)), (2, (3 : Byte)), (4, (1 : Byte)), (8, (2 : Byte)), (20, (64 : Byte))]) 0).2.at_ + if objDie (wObj (wDesc [(0, (7 : Byte)), (2, (3 : Byte)), (4, (1 : Byte)), (8, (2 : Byte)), (20, (64 : Byte))]) 0).2.bytes = 0 then 32 else 80) ≤ w16_105.tick) ∧
    ((w16_105.die (objDie (wObj (wDesc [(0, (7 : Byte)), (2, (3 : Byte)), (4, (1 : Byte)), (8, (2 : Byte)), (20, (64 : Byte))]) 0).2.bytes)).doze = false) ∧
    (oOp (wObj (wDesc [(0, (7 : Byte)), (2, (3 : Byte)), (4, (1 : Byte)), (8, (2 : Byte)), (20, (64 : Byte))]) 0).2.bytes = 1) ∧
    ((wObj (wDesc [(0, (7 : Byte)), (2, (3 : Byte)), (4, (1 : Byte)), (8, (2 : Byte)), (20, (64 : Byte))]) 0).2.arrived = false) ∧
    ((wObj (wDesc [(0, (7 : Byte)), (2, (3 : Byte)), (4, (1 : Byte)), (8, (2 : Byte)), (20, (64 : Byte))]) 0).2.refused = false) ∧
    (objReady w16_105 (wObj (wDesc [(0, (7 : Byte)), (2, (3 : Byte)), (4, (1 : Byte)), (8, (2 : Byte)), (20, (64 : Byte))]) 0).2.bytes = true) ∧
    ((if dType (wObj (wDesc [(0, (7 : Byte)), (2, (3 : Byte)), (4, (1 : Byte)), (8, (2 : Byte)), (20, (64 : Byte))]) 0).2.bytes = 7 then (w16_105.egress (oObj (wObj (wDesc [(0, (7 : Byte)), (2, (3 : Byte)), (4, (1 : Byte)), (8, (2 : Byte)), (20, (64 : Byte))]) 0).2.bytes)).owed else (tget { : Ingest } w16_105.ingests (oObj (wObj (wDesc [(0, (7 : Byte)), (2, (3 : Byte)), (4, (1 : Byte)), (8, (2 : Byte)), (20, (64 : Byte))]) 0).2.bytes)).owed) = []) ∧
    (chanBad w16_105 (wObj (wDesc [(0, (7 : Byte)), (2, (3 : Byte)), (4, (1 : Byte)), (8, (2 : Byte)), (20, (64 : Byte))]) 0).2.bytes = false) ∧
    (dType (wObj (wDesc [(0, (7 : Byte)), (2, (3 : Byte)), (4, (1 : Byte)), (8, (2 : Byte)), (20, (64 : Byte))]) 0).2.bytes = 7) ∧
    (oMask (wObj (wDesc [(0, (7 : Byte)), (2, (3 : Byte)), (4, (1 : Byte)), (8, (2 : Byte)), (20, (64 : Byte))]) 0).2.bytes = 2 ^ (1, RegName.vglEgLen, 0).1) ∧
    w16_107.live ∧
    ((w16_107.ring 5).started = [(wObj (wDesc [(0, (7 : Byte)), (2, (3 : Byte)), (4, (1 : Byte)), (8, (1 : Byte)), (16, (255 : Byte))]) 0).2]) ∧
    ((wObj (wDesc [(0, (7 : Byte)), (2, (3 : Byte)), (4, (1 : Byte)), (8, (1 : Byte)), (16, (255 : Byte))]) 0).2.stale = false) ∧
    ((wObj (wDesc [(0, (7 : Byte)), (2, (3 : Byte)), (4, (1 : Byte)), (8, (1 : Byte)), (16, (255 : Byte))]) 0).2.done = none) ∧
    (bridgeDown w16_107 = false) ∧
    (dType (wObj (wDesc [(0, (7 : Byte)), (2, (3 : Byte)), (4, (1 : Byte)), (8, (1 : Byte)), (16, (255 : Byte))]) 0).2.bytes = 7 ∨ dType (wObj (wDesc [(0, (7 : Byte)), (2, (3 : Byte)), (4, (1 : Byte)), (8, (1 : Byte)), (16, (255 : Byte))]) 0).2.bytes = 8 ∧ ((wObj (wDesc [(0, (7 : Byte)), (2, (3 : Byte)), (4, (1 : Byte)), (8, (1 : Byte)), (16, (255 : Byte))]) 0).2.at_ + if objDie (wObj (wDesc [(0, (7 : Byte)), (2, (3 : Byte)), (4, (1 : Byte)), (8, (1 : Byte)), (16, (255 : Byte))]) 0).2.bytes = 0 then 32 else 80) ≤ w16_107.tick) ∧
    ((w16_107.die (objDie (wObj (wDesc [(0, (7 : Byte)), (2, (3 : Byte)), (4, (1 : Byte)), (8, (1 : Byte)), (16, (255 : Byte))]) 0).2.bytes)).doze = false) ∧
    (oOp (wObj (wDesc [(0, (7 : Byte)), (2, (3 : Byte)), (4, (1 : Byte)), (8, (1 : Byte)), (16, (255 : Byte))]) 0).2.bytes = 1) ∧
    ((wObj (wDesc [(0, (7 : Byte)), (2, (3 : Byte)), (4, (1 : Byte)), (8, (1 : Byte)), (16, (255 : Byte))]) 0).2.arrived = false) ∧
    ((wObj (wDesc [(0, (7 : Byte)), (2, (3 : Byte)), (4, (1 : Byte)), (8, (1 : Byte)), (16, (255 : Byte))]) 0).2.refused = false) ∧
    (objReady w16_107 (wObj (wDesc [(0, (7 : Byte)), (2, (3 : Byte)), (4, (1 : Byte)), (8, (1 : Byte)), (16, (255 : Byte))]) 0).2.bytes = true) ∧
    ((if dType (wObj (wDesc [(0, (7 : Byte)), (2, (3 : Byte)), (4, (1 : Byte)), (8, (1 : Byte)), (16, (255 : Byte))]) 0).2.bytes = 7 then (w16_107.egress (oObj (wObj (wDesc [(0, (7 : Byte)), (2, (3 : Byte)), (4, (1 : Byte)), (8, (1 : Byte)), (16, (255 : Byte))]) 0).2.bytes)).owed else (tget { : Ingest } w16_107.ingests (oObj (wObj (wDesc [(0, (7 : Byte)), (2, (3 : Byte)), (4, (1 : Byte)), (8, (1 : Byte)), (16, (255 : Byte))]) 0).2.bytes)).owed) = []) ∧
    (chanBad w16_107 (wObj (wDesc [(0, (7 : Byte)), (2, (3 : Byte)), (4, (1 : Byte)), (8, (1 : Byte)), (16, (255 : Byte))]) 0).2.bytes = true) := by
  and_intros <;> decide +kernel
theorem witness_recordsAndModeration :
    w16_56.live ∧
    (w16_56.power.rkDead = false) ∧
    ((w16_56.ring 5).started = [w16_57]) ∧
    (w16_57.issued = false) ∧
    (w16_57.stale = false) ∧
    (w16_56.link.rate ≠ 0) ∧
    (w16_56.link.mayIssue = true) ∧
    (w16_56.link.posted = none) ∧
    ((w16_56.die 0).doze = false) ∧
    (bootHolds w16_56 = false) ∧
    (w16_56.link.out = []) ∧
    (0 ≠ 5) ∧
    (ringIrqen w16_56 5 = false) ∧
    w16_58.live ∧
    (w16_58.power.rkDead = false) ∧
    ((w16_58.ring 5).started = [w16_57]) ∧
    (w16_58.link.rate ≠ 0) ∧
    (w16_58.link.mayIssue = true) ∧
    (w16_58.link.posted = none) ∧
    ((w16_58.die 0).doze = false) ∧
    (bootHolds w16_58 = false) ∧
    (w16_58.link.out = []) ∧
    (ringIrqen w16_58 5 = true) ∧
    ((!(decide (w16_57.bytes.getD 1 (0 : Byte) &&& (4 : Byte) ≠ (0 : Byte)) || decide (max 1 (fld (regGet w16_58 RegName.rkRMod 5) 0 8) ≤ (w16_58.ring 5).pend + 1))) = true) ∧
    w16_59.live ∧
    (w16_59.power.rkDead = false) ∧
    ((w16_59.ring 5).started = [w16_57]) ∧
    (w16_59.link.rate ≠ 0) ∧
    (w16_59.link.mayIssue = true) ∧
    (w16_59.link.posted = none) ∧
    ((w16_59.die 0).doze = false) ∧
    (bootHolds w16_59 = false) ∧
    (w16_59.link.out = []) ∧
    (ringIrqen w16_59 5 = true) ∧
    ((decide (w16_57.bytes.getD 1 (0 : Byte) &&& (4 : Byte) ≠ (0 : Byte)) || decide (max 1 (fld (regGet w16_59 RegName.rkRMod 5) 0 8) ≤ (w16_59.ring 5).pend + 1)) = true) := by
  and_intros <;> decide +kernel
theorem witness_moderationTimeout :
    w16_62.live ∧
    (ringIrqen w16_62 5 = true) ∧
    (0 < fld (regGet w16_62 RegName.rkRMod 5) 8 16) ∧
    ((w16_62.ring 5).pend ≠ 0) ∧
    ((w16_62.ring 5).since + 500 * fld (regGet w16_62 RegName.rkRMod 5) 8 16 ≤ w16_62.tick) := by
  and_intros <;> decide +kernel
theorem witness_ringCommands :
    w16_3.live ∧
    (w16_3.serves RegName.rkCmd 0) ∧
    (BitVec.getLsbD (regGet w16_3 RegName.rkCmdstat 0) 0 = false ∨ (w16_3.ring 5).state = RingState.resetting) ∧
    ((w16_3.ring 5).started = []) ∧
    (chunkOpen w16_3 5 = false) ∧
    (∀ k ∈ tkeys w16_3.rings, k ≠ 5 → ∀ (e : Started), (activeOf w16_3 k fun x => x == 10) = some e → dWord e.bytes 2 2 % 8192 ≠ 5) ∧
    (0 ≠ 5) ∧
    (BitVec.getLsbD (regGet w16_3 RegName.rkCmdstat 0) 0 = false) ∧
    ((w16_3.ring 5).state = RingState.stopped) ∧
    (w16_3.serves RegName.rkLogclr 0) ∧
    w16_64.live ∧
    (w16_64.serves RegName.rkCmd 0) ∧
    (BitVec.getLsbD (regGet w16_64 RegName.rkCmdstat 0) 0 = true) ∧
    ((w16_64.ring 5).state ≠ RingState.resetting) ∧
    (w16_64.serves RegName.rkLogclr 0) ∧
    w16_65.live ∧
    (w16_65.serves RegName.rkCmd 0) ∧
    (BitVec.getLsbD (regGet w16_65 RegName.rkCmdstat 0) 0 = false ∨ (w16_65.ring 5).state = RingState.resetting) ∧
    ((w16_65.ring 5).started = []) ∧
    (chunkOpen w16_65 5 = false) ∧
    (∀ k ∈ tkeys w16_65.rings, k ≠ 5 → ∀ (e : Started), (activeOf w16_65 k fun x => x == 10) = some e → dWord e.bytes 2 2 % 8192 ≠ 5) ∧
    (BitVec.getLsbD (regGet w16_65 RegName.rkCmdstat 0) 0 = true) ∧
    (w16_65.serves RegName.rkLogclr 0) ∧
    w16_66.live ∧
    (w16_66.serves RegName.rkCmd 0) ∧
    (BitVec.getLsbD (regGet w16_66 RegName.rkCmdstat 0) 0 = false) ∧
    ((w16_66.ring 5).state ≠ RingState.resetting) ∧
    (chunkOpen w16_66 5 = false) ∧
    (Fin.ofNat 8192 3 ≠ (5 : Fin 8192)) ∧
    ((w16_66.ring 3).started = [wStarted (7 : W32) (wDesc [(0, (10 : Byte)), (2, (5 : Byte)), (4, (9 : Byte)), (8, (2 : Byte))])]) ∧
    ((wStarted (7 : W32) (wDesc [(0, (10 : Byte)), (2, (5 : Byte)), (4, (9 : Byte)), (8, (2 : Byte))])).stale = false) ∧
    ((wStarted (7 : W32) (wDesc [(0, (10 : Byte)), (2, (5 : Byte)), (4, (9 : Byte)), (8, (2 : Byte))])).done = none) ∧
    (dType (wStarted (7 : W32) (wDesc [(0, (10 : Byte)), (2, (5 : Byte)), (4, (9 : Byte)), (8, (2 : Byte))])).bytes = 10) ∧
    (dWord (wStarted (7 : W32) (wDesc [(0, (10 : Byte)), (2, (5 : Byte)), (4, (9 : Byte)), (8, (2 : Byte))])).bytes 2 2 % 8192 = 5) ∧
    ((w16_66.ring 5).state ≠ RingState.stopped) ∧
    (w16_66.serves RegName.rkLogclr 0) ∧
    w16_71.live ∧
    (w16_71.serves RegName.rkCmd 0) ∧
    (BitVec.getLsbD (regGet w16_71 RegName.rkCmdstat 0) 0 = false ∨ (w16_71.ring 5).state = RingState.resetting) ∧
    (chunkOpen w16_71 5 = true) ∧
    ((w16_71.ring 5).engine = none) ∧
    (∀ e ∈ (w16_71.ring 5).started, dType e.bytes ≠ 1) ∧
    (∀ k ∈ tkeys w16_71.rings, k ≠ 5 → ∀ (e : Started), (activeOf w16_71 k fun x => x == 10) = some e → dWord e.bytes 2 2 % 8192 ≠ 5) ∧
    (BitVec.getLsbD (regGet w16_71 RegName.rkCmdstat 0) 0 = false) ∧
    ((w16_71.ring 5).state ≠ RingState.stopped) ∧
    (w16_71.serves RegName.rkLogclr 0) := by
  and_intros <;> decide +kernel

def w17_0 : State := wAlarm 2047 (0 : W64) (5 : W64) { state := AlState.done, armf := true, k := (9 : W64) : Alarm }
def w17_1 : State := wAlarm 1024 (32 : W64) (5 : W64) { state := AlState.active, armf := true, k := (9 : W64) : Alarm }
def w17_7 : State := run
def w17_8 : State := wSeen 1024 (0 : W64) { state := AxState.lost : BusVal } { state := AlState.active, next := (9 : W64) : Alarm }
def w17_17 : State := wSeen 0 (0 : W64) { value := (5 : W64), state := AxState.run : BusVal } { state := AlState.active, next := (9 : W64) : Alarm }
def w17_19 : State := wSeen 0 (224 : W64) { value := (4 : W64), state := AxState.run : BusVal } { state := AlState.active, armf := true, armb := true, first := true, next := (9 : W64) : Alarm }
def w17_20 : State := wFired (32576 : W64) (0 : W64) { fwd := true, late := false, obs := (327681 : W64) : Firing }
def w17_21 : State := wFired (21760 : W64) (0 : W64) { fwd := true, late := true, obs := (327681 : W64) : Firing }
def w17_23 : State := wFired (16416 : W64) (-1 : W64) { fwd := false, late := true, obs := (327681 : W64) : Firing }
def w17_27 : State := wAct ActKind.pin (0 : W32)
def w17_31 : State := { run with tick := 60, latch := (1208925819614629174706175 : BitVec 80), pulses := [(79, 60)] }
def w17_33 : State := wAct ActKind.timer (1056964608 : W32)
def w17_34 : State := wAct ActKind.timer (2399141888 : W32)
def w17_35 : State := wAct ActKind.timer (2936012800 : W32)
def w17_36 : State := wAct ActKind.core (999170 : W32)
def w17_37 : State := wStampBay 8
def w17_38 : State := wAct ActKind.poll (3 : W32)
def w17_39 : State := { run with stampAns := [(1024, Resp.decErr)] }
def w17_41 : State := wAct ActKind.timer (520093696 : W32)
def w17_44 : State := { wAct ActKind.timer (520093696 : W32) with timers := [(63, { run := true, cnt := (9 : W32), pscnt := 4, perA := (20 : W32) : Timer })] }
def w17_45 : State := regPut w17_44 RegName.tmrPer 63 (11 : W64)
def w17_46 : State := wAct ActKind.timer (1593835520 : W32)
theorem witness_alarmArmAndDisarm :
    w17_0.live ∧
    (w17_0.serves RegName.alCtrl 2047) ∧
    ((w17_0.alarm 2047).mark = none) ∧
    (fld (regGet w17_0 RegName.alCfg 2047) 5 2 = 0 ∧ (0 : Int) ≤ BitVec.toInt (regGet w17_0 RegName.alIntv 2047) ∨ fld (regGet w17_0 RegName.alCfg 2047) 5 2 = 1 ∧ BitVec.toInt (regGet w17_0 RegName.alIntv 2047) ≤ (0 : Int) ∨ fld (regGet w17_0 RegName.alCfg 2047) 5 2 = 2 ∧ BitVec.toInt (regGet w17_0 RegName.alIntv 2047) = (0 : Int)) ∧
    w17_1.live ∧
    (w17_1.serves RegName.alCtrl 1024) ∧
    ((w17_1.alarm 1024).mark = none) ∧
    (¬(fld (regGet w17_1 RegName.alCfg 1024) 5 2 = 0 ∧ (0 : Int) ≤ BitVec.toInt (regGet w17_1 RegName.alIntv 1024) ∨ fld (regGet w17_1 RegName.alCfg 1024) 5 2 = 1 ∧ BitVec.toInt (regGet w17_1 RegName.alIntv 1024) ≤ (0 : Int) ∨ fld (regGet w17_1 RegName.alCfg 1024) 5 2 = 2 ∧ BitVec.toInt (regGet w17_1 RegName.alIntv 1024) = (0 : Int))) := by
  and_intros <;> decide +kernel
theorem witness_alarmSetupIsFrozen :
    w17_7.live ∧
    ((w17_7.alarm 3).mark = none) ∧
    (w17_7.serves (AlarmReg.cfg, RegName.alCfg).2 3) ∧
    (w17_7.serves (AlarmReg.hyst, RegName.alHyst).2 3) ∧
    (w17_7.serves (AlarmReg.target, RegName.alTarget).2 3) ∧
    (w17_7.serves (AlarmReg.intv, RegName.alIntv).2 3) ∧
    (w17_7.serves (AlarmReg.route, RegName.alRoute).2 3) ∧
    (w17_7.serves (AlarmReg.pin, RegName.alPin).2 3) ∧
    (w17_7.serves (AlarmReg.core, RegName.alCore).2 3) ∧
    (w17_7.serves (AlarmReg.slog, RegName.alSlog).2 3) ∧
    (w17_7.serves (AlarmReg.sbase, RegName.alSbase).2 3) := by
  and_intros <;> decide +kernel
theorem witness_alarmCrossingTest :
    ((w17_8.alarm 1024).state = AlState.active) ∧
    ((busVal w17_8 (1024 / 1024 : Nat) (fld (regGet w17_8 RegName.alCfg 1024) 0 5)).state ≠ AxState.run) ∧
    ((w17_17.alarm 0).state = AlState.active) ∧
    ((busVal w17_17 (0 / 1024 : Nat) (fld (regGet w17_17 RegName.alCfg 0) 0 5)).state = AxState.run) ∧
    (1 ≠ 0) ∧
    (¬(fld (regGet w17_17 RegName.alCfg 0) 5 2 ≠ 1 ∧ ((w17_17.alarm 0).armf = true ∨ (w17_17.alarm 0).first = true ∧ BitVec.getLsbD (regGet w17_17 RegName.alCfg 0) 7 = true ∧ fld (regGet w17_17 RegName.alCfg 0) 5 2 ≠ 2 ∧ (fld (regGet w17_17 RegName.alCfg 0) 5 2 ≠ 1 ∧ (0 : Int) ≤ BitVec.toInt ((busVal w17_17 (0 / 1024 : Nat) (fld (regGet w17_17 RegName.alCfg 0) 0 5)).value - (w17_17.alarm 0).next) ∨ fld (regGet w17_17 RegName.alCfg 0) 5 2 ≠ 0 ∧ BitVec.toInt ((busVal w17_17 (0 / 1024 : Nat) (fld (regGet w17_17 RegName.alCfg 0) 0 5)).value - (w17_17.alarm 0).next) ≤ (0 : Int))) ∧ (0 : Int) ≤ BitVec.toInt ((busVal w17_17 (0 / 1024 : Nat) (fld (regGet w17_17 RegName.alCfg 0) 0 5)).value - (w17_17.alarm 0).next) ∨ fld (regGet w17_17 RegName.alCfg 0) 5 2 ≠ 0 ∧ ((w17_17.alarm 0).armb = true ∨ (w17_17.alarm 0).first = true ∧ BitVec.getLsbD (regGet w17_17 RegName.alCfg 0) 7 = true ∧ fld (regGet w17_17 RegName.alCfg 0) 5 2 ≠ 2 ∧ (fld (regGet w17_17 RegName.alCfg 0) 5 2 ≠ 1 ∧ (0 : Int) ≤ BitVec.toInt ((busVal w17_17 (0 / 1024 : Nat) (fld (regGet w17_17 RegName.alCfg 0) 0 5)).value - (w17_17.alarm 0).next) ∨ fld (regGet w17_17 RegName.alCfg 0) 5 2 ≠ 0 ∧ BitVec.toInt ((busVal w17_17 (0 / 1024 : Nat) (fld (regGet w17_17 RegName.alCfg 0) 0 5)).value - (w17_17.alarm 0).next) ≤ (0 : Int))) ∧ BitVec.toInt ((busVal w17_17 (0 / 1024 : Nat) (fld (regGet w17_17 RegName.alCfg 0) 0 5)).value - (w17_17.alarm 0).next) ≤ (0 : Int))) ∧
    ((w17_19.alarm 0).state = AlState.active) ∧
    ((busVal w17_19 (0 / 1024 : Nat) (fld (regGet w17_19 RegName.alCfg 0) 0 5)).state = AxState.run) ∧
    (fld (regGet w17_19 RegName.alCfg 0) 5 2 ≠ 1 ∧ ((w17_19.alarm 0).armf = true ∨ (w17_19.alarm 0).first = true ∧ BitVec.getLsbD (regGet w17_19 RegName.alCfg 0) 7 = true ∧ fld (regGet w17_19 RegName.alCfg 0) 5 2 ≠ 2 ∧ (fld (regGet w17_19 RegName.alCfg 0) 5 2 ≠ 1 ∧ (0 : Int) ≤ BitVec.toInt ((busVal w17_19 (0 / 1024 : Nat) (fld (regGet w17_19 RegName.alCfg 0) 0 5)).value - (w17_19.alarm 0).next) ∨ fld (regGet w17_19 RegName.alCfg 0) 5 2 ≠ 0 ∧ BitVec.toInt ((busVal w17_19 (0 / 1024 : Nat) (fld (regGet w17_19 RegName.alCfg 0) 0 5)).value - (w17_19.alarm 0).next) ≤ (0 : Int))) ∧ (0 : Int) ≤ BitVec.toInt ((busVal w17_19 (0 / 1024 : Nat) (fld (regGet w17_19 RegName.alCfg 0) 0 5)).value - (w17_19.alarm 0).next) ∨ fld (regGet w17_19 RegName.alCfg 0) 5 2 ≠ 0 ∧ ((w17_19.alarm 0).armb = true ∨ (w17_19.alarm 0).first = true ∧ BitVec.getLsbD (regGet w17_19 RegName.alCfg 0) 7 = true ∧ fld (regGet w17_19 RegName.alCfg 0) 5 2 ≠ 2 ∧ (fld (regGet w17_19 RegName.alCfg 0) 5 2 ≠ 1 ∧ (0 : Int) ≤ BitVec.toInt ((busVal w17_19 (0 / 1024 : Nat) (fld (regGet w17_19 RegName.alCfg 0) 0 5)).value - (w17_19.alarm 0).next) ∨ fld (regGet w17_19 RegName.alCfg 0) 5 2 ≠ 0 ∧ BitVec.toInt ((busVal w17_19 (0 / 1024 : Nat) (fld (regGet w17_19 RegName.alCfg 0) 0 5)).value - (w17_19.alarm 0).next) ≤ (0 : Int))) ∧ BitVec.toInt ((busVal w17_19 (0 / 1024 : Nat) (fld (regGet w17_19 RegName.alCfg 0) 0 5)).value - (w17_19.alarm 0).next) ≤ (0 : Int)) := by
  and_intros <;> decide +kernel
theorem witness_alarmFires :
    w17_20.live ∧
    ((w17_20.alarm 2047).mark = some { fwd := true, late := false, obs := (327681 : W64) : Firing }) ∧
    (w17_20.actions = []) ∧
    (0 ≠ 2047) ∧
    (fld (regGet w17_20 RegName.alCfg 2047) 5 2 = 2) ∧
    ({ due := w17_20.tick + 4, alarm := 2047, kind := ActKind.pin, stamp := (w17_20.alarm 2047).next, axis := alAxis w17_20 2047, k := (w17_20.alarm 2047).k, word := BitVec.setWidth 32 (regGet w17_20 RegName.alPin 2047), base := regGet w17_20 RegName.alSbase 2047 : Machine.Action } ∈ (after (exec (Instr.alarmFiring (2047 : Fin 2048)) w17_20)).actions) ∧
    ({ due := (w17_20.tick + 5) / 2 * 2, alarm := 2047, kind := ActKind.timer, stamp := (w17_20.alarm 2047).next, axis := alAxis w17_20 2047, k := (w17_20.alarm 2047).k, word := BitVec.setWidth 32 (regGet w17_20 RegName.alRoute 2047), base := regGet w17_20 RegName.alSbase 2047 : Machine.Action } ∈ (after (exec (Instr.alarmFiring (2047 : Fin 2048)) w17_20)).actions) ∧
    ({ due := w17_20.tick + 40, alarm := 2047, kind := ActKind.ring, stamp := (w17_20.alarm 2047).next, axis := alAxis w17_20 2047, k := (w17_20.alarm 2047).k, word := BitVec.setWidth 32 (regGet w17_20 RegName.alRoute 2047), base := regGet w17_20 RegName.alSbase 2047 : Machine.Action } ∈ (after (exec (Instr.alarmFiring (2047 : Fin 2048)) w17_20)).actions) ∧
    ({ due := w17_20.tick + 40, alarm := 2047, kind := ActKind.ring, stamp := (w17_20.alarm 2047).next, axis := alAxis w17_20 2047, k := (w17_20.alarm 2047).k, word := BitVec.setWidth 32 (regGet w17_20 RegName.alRoute 2047), base := regGet w17_20 RegName.alSbase 2047 : Machine.Action }.kind ≠ ActKind.pin) ∧
    ({ due := w17_20.tick + 40, alarm := 2047, kind := ActKind.ring, stamp := (w17_20.alarm 2047).next, axis := alAxis w17_20 2047, k := (w17_20.alarm 2047).k, word := BitVec.setWidth 32 (regGet w17_20 RegName.alRoute 2047), base := regGet w17_20 RegName.alSbase 2047 : Machine.Action }.kind ≠ ActKind.timer) ∧
    ({ due := w17_20.tick + 40, alarm := 2047, kind := ActKind.egress, stamp := (w17_20.alarm 2047).next, axis := alAxis w17_20 2047, k := (w17_20.alarm 2047).k, word := BitVec.setWidth 32 (regGet w17_20 RegName.alRoute 2047), base := regGet w17_20 RegName.alSbase 2047 : Machine.Action } ∈ (after (exec (Instr.alarmFiring (2047 : Fin 2048)) w17_20)).actions) ∧
    ({ due := w17_20.tick + 40, alarm := 2047, kind := ActKind.egress, stamp := (w17_20.alarm 2047).next, axis := alAxis w17_20 2047, k := (w17_20.alarm 2047).k, word := BitVec.setWidth 32 (regGet w17_20 RegName.alRoute 2047), base := regGet w17_20 RegName.alSbase 2047 : Machine.Action }.kind ≠ ActKind.pin) ∧
    ({ due := w17_20.tick + 40, alarm := 2047, kind := ActKind.egress, stamp := (w17_20.alarm 2047).next, axis := alAxis w17_20 2047, k := (w17_20.alarm 2047).k, word := BitVec.setWidth 32 (regGet w17_20 RegName.alRoute 2047), base := regGet w17_20 RegName.alSbase 2047 : Machine.Action }.kind ≠ ActKind.timer) ∧
    ({ due := w17_20.tick + 40, alarm := 2047, kind := ActKind.core, stamp := (w17_20.alarm 2047).next, axis := alAxis w17_20 2047, k := (w17_20.alarm 2047).k, word := BitVec.setWidth 32 (regGet w17_20 RegName.alCore 2047), base := regGet w17_20 RegName.alSbase 2047 : Machine.Action } ∈ (after (exec (Instr.alarmFiring (2047 : Fin 2048)) w17_20)).actions) ∧
    ({ due := w17_20.tick + 40, alarm := 2047, kind := ActKind.core, stamp := (w17_20.alarm 2047).next, axis := alAxis w17_20 2047, k := (w17_20.alarm 2047).k, word := BitVec.setWidth 32 (regGet w17_20 RegName.alCore 2047), base := regGet w17_20 RegName.alSbase 2047 : Machine.Action }.kind ≠ ActKind.pin) ∧
    ({ due := w17_20.tick + 40, alarm := 2047, kind := ActKind.core, stamp := (w17_20.alarm 2047).next, axis := alAxis w17_20 2047, k := (w17_20.alarm 2047).k, word := BitVec.setWidth 32 (regGet w17_20 RegName.alCore 2047), base := regGet w17_20 RegName.alSbase 2047 : Machine.Action }.kind ≠ ActKind.timer) ∧
    ({ due := w17_20.tick + 40, alarm := 2047, kind := ActKind.stamp, stamp := (w17_20.alarm 2047).next, axis := alAxis w17_20 2047, k := (w17_20.alarm 2047).k, word := BitVec.setWidth 32 (regGet w17_20 RegName.alSlog 2047), base := regGet w17_20 RegName.alSbase 2047 : Machine.Action } ∈ (after (exec (Instr.alarmFiring (2047 : Fin 2048)) w17_20)).actions) ∧
    ({ due := w17_20.tick + 40, alarm := 2047, kind := ActKind.stamp, stamp := (w17_20.alarm 2047).next, axis := alAxis w17_20 2047, k := (w17_20.alarm 2047).k, word := BitVec.setWidth 32 (regGet w17_20 RegName.alSlog 2047), base := regGet w17_20 RegName.alSbase 2047 : Machine.Action }.kind ≠ ActKind.pin) ∧
    ({ due := w17_20.tick + 40, alarm := 2047, kind := ActKind.stamp, stamp := (w17_20.alarm 2047).next, axis := alAxis w17_20 2047, k := (w17_20.alarm 2047).k, word := BitVec.setWidth 32 (regGet w17_20 RegName.alSlog 2047), base := regGet w17_20 RegName.alSbase 2047 : Machine.Action }.kind ≠ ActKind.timer) ∧
    ({ due := w17_20.tick + 40, alarm := 2047, kind := ActKind.poll, stamp := (w17_20.alarm 2047).next, axis := alAxis w17_20 2047, k := (w17_20.alarm 2047).k, word := BitVec.setWidth 32 (0 : W64), base := regGet w17_20 RegName.alSbase 2047 : Machine.Action } ∈ (after (exec (Instr.alarmFiring (2047 : Fin 2048)) w17_20)).actions) ∧
    ({ due := w17_20.tick + 40, alarm := 2047, kind := ActKind.poll, stamp := (w17_20.alarm 2047).next, axis := alAxis w17_20 2047, k := (w17_20.alarm 2047).k, word := BitVec.setWidth 32 (0 : W64), base := regGet w17_20 RegName.alSbase 2047 : Machine.Action }.kind ≠ ActKind.pin) ∧
    ({ due := w17_20.tick + 40, alarm := 2047, kind := ActKind.poll, stamp := (w17_20.alarm 2047).next, axis := alAxis w17_20 2047, k := (w17_20.alarm 2047).k, word := BitVec.setWidth 32 (0 : W64), base := regGet w17_20 RegName.alSbase 2047 : Machine.Action }.kind ≠ ActKind.timer) ∧
    w17_21.live ∧
    ((w17_21.alarm 2047).mark = some { fwd := true, late := true, obs := (327681 : W64) : Firing }) ∧
    (w17_21.actions = []) ∧
    (fld (regGet w17_21 RegName.alCfg 2047) 5 2 ≠ 2) ∧
    (regGet w17_21 RegName.alIntv 2047 = (0 : W64)) ∧
    ({ due := (w17_21.tick + 5) / 2 * 2, alarm := 2047, kind := ActKind.timer, stamp := (w17_21.alarm 2047).next, axis := alAxis w17_21 2047, k := (w17_21.alarm 2047).k, word := BitVec.setWidth 32 (regGet w17_21 RegName.alRoute 2047), base := regGet w17_21 RegName.alSbase 2047 : Machine.Action } ∈ (after (exec (Instr.alarmFiring (2047 : Fin 2048)) w17_21)).actions) ∧
    ({ due := w17_21.tick + 40, alarm := 2047, kind := ActKind.ring, stamp := (w17_21.alarm 2047).next, axis := alAxis w17_21 2047, k := (w17_21.alarm 2047).k, word := BitVec.setWidth 32 (regGet w17_21 RegName.alRoute 2047), base := regGet w17_21 RegName.alSbase 2047 : Machine.Action } ∈ (after (exec (Instr.alarmFiring (2047 : Fin 2048)) w17_21)).actions) ∧
    ({ due := w17_21.tick + 40, alarm := 2047, kind := ActKind.ring, stamp := (w17_21.alarm 2047).next, axis := alAxis w17_21 2047, k := (w17_21.alarm 2047).k, word := BitVec.setWidth 32 (regGet w17_21 RegName.alRoute 2047), base := regGet w17_21 RegName.alSbase 2047 : Machine.Action }.kind ≠ ActKind.pin) ∧
    ({ due := w17_21.tick + 40, alarm := 2047, kind := ActKind.ring, stamp := (w17_21.alarm 2047).next, axis := alAxis w17_21 2047, k := (w17_21.alarm 2047).k, word := BitVec.setWidth 32 (regGet w17_21 RegName.alRoute 2047), base := regGet w17_21 RegName.alSbase 2047 : Machine.Action }.kind ≠ ActKind.timer) ∧
    ({ due := w17_21.tick + 40, alarm := 2047, kind := ActKind.core, stamp := (w17_21.alarm 2047).next, axis := alAxis w17_21 2047, k := (w17_21.alarm 2047).k, word := BitVec.setWidth 32 (regGet w17_21 RegName.alCore 2047), base := regGet w17_21 RegName.alSbase 2047 : Machine.Action } ∈ (after (exec (Instr.alarmFiring (2047 : Fin 2048)) w17_21)).actions) ∧
    ({ due := w17_21.tick + 40, alarm := 2047, kind := ActKind.core, stamp := (w17_21.alarm 2047).next, axis := alAxis w17_21 2047, k := (w17_21.alarm 2047).k, word := BitVec.setWidth 32 (regGet w17_21 RegName.alCore 2047), base := regGet w17_21 RegName.alSbase 2047 : Machine.Action }.kind ≠ ActKind.pin) ∧
    ({ due := w17_21.tick + 40, alarm := 2047, kind := ActKind.core, stamp := (w17_21.alarm 2047).next, axis := alAxis w17_21 2047, k := (w17_21.alarm 2047).k, word := BitVec.setWidth 32 (regGet w17_21 RegName.alCore 2047), base := regGet w17_21 RegName.alSbase 2047 : Machine.Action }.kind ≠ ActKind.timer) ∧
    ({ due := w17_21.tick + 40, alarm := 2047, kind := ActKind.poll, stamp := (w17_21.alarm 2047).next, axis := alAxis w17_21 2047, k := (w17_21.alarm 2047).k, word := BitVec.setWidth 32 (0 : W64), base := regGet w17_21 RegName.alSbase 2047 : Machine.Action } ∈ (after (exec (Instr.alarmFiring (2047 : Fin 2048)) w17_21)).actions) ∧
    ({ due := w17_21.tick + 40, alarm := 2047, kind := ActKind.poll, stamp := (w17_21.alarm 2047).next, axis := alAxis w17_21 2047, k := (w17_21.alarm 2047).k, word := BitVec.setWidth 32 (0 : W64), base := regGet w17_21 RegName.alSbase 2047 : Machine.Action }.kind ≠ ActKind.pin) ∧
    ({ due := w17_21.tick + 40, alarm := 2047, kind := ActKind.poll, stamp := (w17_21.alarm 2047).next, axis := alAxis w17_21 2047, k := (w17_21.alarm 2047).k, word := BitVec.setWidth 32 (0 : W64), base := regGet w17_21 RegName.alSbase 2047 : Machine.Action }.kind ≠ ActKind.timer) ∧
    w17_23.live ∧
    ((w17_23.alarm 2047).mark = some { fwd := false, late := true, obs := (327681 : W64) : Firing }) ∧
    (w17_23.actions = []) ∧
    (fld (regGet w17_23 RegName.alCfg 2047) 5 2 ≠ 2) ∧
    (regGet w17_23 RegName.alIntv 2047 ≠ (0 : W64)) ∧
    ({ due := w17_23.tick + 40, alarm := 2047, kind := ActKind.poll, stamp := (w17_23.alarm 2047).next, axis := alAxis w17_23 2047, k := (w17_23.alarm 2047).k, word := BitVec.setWidth 32 (0 : W64), base := regGet w17_23 RegName.alSbase 2047 : Machine.Action } ∈ (after (exec (Instr.alarmFiring (2047 : Fin 2048)) w17_23)).actions) ∧
    ({ due := w17_23.tick + 40, alarm := 2047, kind := ActKind.poll, stamp := (w17_23.alarm 2047).next, axis := alAxis w17_23 2047, k := (w17_23.alarm 2047).k, word := BitVec.setWidth 32 (0 : W64), base := regGet w17_23 RegName.alSbase 2047 : Machine.Action }.kind ≠ ActKind.pin) ∧
    ({ due := w17_23.tick + 40, alarm := 2047, kind := ActKind.poll, stamp := (w17_23.alarm 2047).next, axis := alAxis w17_23 2047, k := (w17_23.alarm 2047).k, word := BitVec.setWidth 32 (0 : W64), base := regGet w17_23 RegName.alSbase 2047 : Machine.Action }.kind ≠ ActKind.timer) := by
  and_intros <;> decide +kernel
theorem witness_pinActions :
    w17_27.live ∧
    (w17_27.actions = [{ due := 60, alarm := 1024, kind := ActKind.pin, stamp := (5 : W64), axis := 1, k := (9 : W64), word := (0 : W32), base := (4194304 : W64) : Machine.Action }]) ∧
    ({ due := 60, alarm := 1024, kind := ActKind.pin, stamp := (5 : W64), axis := 1, k := (9 : W64), word := (0 : W32), base := (4194304 : W64) : Machine.Action }.alarm = 1024) ∧
    ({ due := 60, alarm := 1024, kind := ActKind.pin, stamp := (5 : W64), axis := 1, k := (9 : W64), word := (0 : W32), base := (4194304 : W64) : Machine.Action }.due ≤ w17_27.tick) ∧
    (tget 0 w17_27.pulses ((1024 / 1024 : Nat) * 40 + fld { due := 60, alarm := 1024, kind := ActKind.pin, stamp := (5 : W64), axis := 1, k := (9 : W64), word := (0 : W32), base := (4194304 : W64) : Machine.Action }.word 0 6) ≠ { due := 60, alarm := 1024, kind := ActKind.pin, stamp := (5 : W64), axis := 1, k := (9 : W64), word := (0 : W32), base := (4194304 : W64) : Machine.Action }.due) ∧
    (tget 0 w17_27.pulses (1 * 40 + 39) = 0 ∨ w17_27.tick < tget 0 w17_27.pulses (1 * 40 + 39)) ∧
    w17_31.live ∧
    (w17_31.actions = []) ∧
    (0 < tget 0 w17_31.pulses (1 * 40 + 39)) ∧
    (tget 0 w17_31.pulses (1 * 40 + 39) ≤ w17_31.tick) := by
  and_intros <;> decide +kernel
theorem witness_timerAndCoreActions :
    w17_33.live ∧
    (dueAction w17_33 1024 ActKind.timer = some { due := 60, alarm := 1024, kind := ActKind.timer, stamp := (5 : W64), axis := 1, k := (9 : W64), word := (1056964608 : W32), base := (4194304 : W64) : Machine.Action }) ∧
    (dueActions w17_33 1024 ActKind.timer actTimer = [{ due := 60, alarm := 1024, kind := ActKind.timer, stamp := (5 : W64), axis := 1, k := (9 : W64), word := (1056964608 : W32), base := (4194304 : W64) : Machine.Action }]) ∧
    (tmCompat w17_33 ((1024 / 1024 : Nat) * 32 + fld { due := 60, alarm := 1024, kind := ActKind.timer, stamp := (5 : W64), axis := 1, k := (9 : W64), word := (1056964608 : W32), base := (4194304 : W64) : Machine.Action }.word 24 5) = false) ∧
    ((w17_33.die (1024 / 1024 : Nat)).doze = false) ∧
    ((w17_33.timer ((1024 / 1024 : Nat) * 32 + fld { due := 60, alarm := 1024, kind := ActKind.timer, stamp := (5 : W64), axis := 1, k := (9 : W64), word := (1056964608 : W32), base := (4194304 : W64) : Machine.Action }.word 24 5)).tickDue = false) ∧
    ((w17_33.timer ((1024 / 1024 : Nat) * 32 + fld { due := 60, alarm := 1024, kind := ActKind.timer, stamp := (5 : W64), axis := 1, k := (9 : W64), word := (1056964608 : W32), base := (4194304 : W64) : Machine.Action }.word 24 5)).uevDue = none) ∧
    ((w17_33.timer ((1024 / 1024 : Nat) * 32 + fld { due := 60, alarm := 1024, kind := ActKind.timer, stamp := (5 : W64), axis := 1, k := (9 : W64), word := (1056964608 : W32), base := (4194304 : W64) : Machine.Action }.word 24 5)).capDue = []) ∧
    (fld { due := 60, alarm := 1024, kind := ActKind.timer, stamp := (5 : W64), axis := 1, k := (9 : W64), word := (1056964608 : W32), base := (4194304 : W64) : Machine.Action }.word 29 3 = 1) ∧
    w17_34.live ∧
    (dueAction w17_34 1024 ActKind.timer = some { due := 60, alarm := 1024, kind := ActKind.timer, stamp := (5 : W64), axis := 1, k := (9 : W64), word := (2399141888 : W32), base := (4194304 : W64) : Machine.Action }) ∧
    (dueActions w17_34 1024 ActKind.timer actTimer = [{ due := 60, alarm := 1024, kind := ActKind.timer, stamp := (5 : W64), axis := 1, k := (9 : W64), word := (2399141888 : W32), base := (4194304 : W64) : Machine.Action }]) ∧
    (tmCompat w17_34 ((1024 / 1024 : Nat) * 32 + fld { due := 60, alarm := 1024, kind := ActKind.timer, stamp := (5 : W64), axis := 1, k := (9 : W64), word := (2399141888 : W32), base := (4194304 : W64) : Machine.Action }.word 24 5) = false) ∧
    ((w17_34.die (1024 / 1024 : Nat)).doze = false) ∧
    ((w17_34.timer ((1024 / 1024 : Nat) * 32 + fld { due := 60, alarm := 1024, kind := ActKind.timer, stamp := (5 : W64), axis := 1, k := (9 : W64), word := (2399141888 : W32), base := (4194304 : W64) : Machine.Action }.word 24 5)).tickDue = false) ∧
    ((w17_34.timer ((1024 / 1024 : Nat) * 32 + fld { due := 60, alarm := 1024, kind := ActKind.timer, stamp := (5 : W64), axis := 1, k := (9 : W64), word := (2399141888 : W32), base := (4194304 : W64) : Machine.Action }.word 24 5)).uevDue = none) ∧
    ((w17_34.timer ((1024 / 1024 : Nat) * 32 + fld { due := 60, alarm := 1024, kind := ActKind.timer, stamp := (5 : W64), axis := 1, k := (9 : W64), word := (2399141888 : W32), base := (4194304 : W64) : Machine.Action }.word 24 5)).capDue = []) ∧
    (fld { due := 60, alarm := 1024, kind := ActKind.timer, stamp := (5 : W64), axis := 1, k := (9 : W64), word := (2399141888 : W32), base := (4194304 : W64) : Machine.Action }.word 29 3 = 4) ∧
    w17_35.live ∧
    (dueAction w17_35 1024 ActKind.timer = some { due := 60, alarm := 1024, kind := ActKind.timer, stamp := (5 : W64), axis := 1, k := (9 : W64), word := (2936012800 : W32), base := (4194304 : W64) : Machine.Action }) ∧
    (dueActions w17_35 1024 ActKind.timer actTimer = [{ due := 60, alarm := 1024, kind := ActKind.timer, stamp := (5 : W64), axis := 1, k := (9 : W64), word := (2936012800 : W32), base := (4194304 : W64) : Machine.Action }]) ∧
    (tmCompat w17_35 ((1024 / 1024 : Nat) * 32 + fld { due := 60, alarm := 1024, kind := ActKind.timer, stamp := (5 : W64), axis := 1, k := (9 : W64), word := (2936012800 : W32), base := (4194304 : W64) : Machine.Action }.word 24 5) = false) ∧
    ((w17_35.die (1024 / 1024 : Nat)).doze = false) ∧
    ((w17_35.timer ((1024 / 1024 : Nat) * 32 + fld { due := 60, alarm := 1024, kind := ActKind.timer, stamp := (5 : W64), axis := 1, k := (9 : W64), word := (2936012800 : W32), base := (4194304 : W64) : Machine.Action }.word 24 5)).tickDue = false) ∧
    ((w17_35.timer ((1024 / 1024 : Nat) * 32 + fld { due := 60, alarm := 1024, kind := ActKind.timer, stamp := (5 : W64), axis := 1, k := (9 : W64), word := (2936012800 : W32), base := (4194304 : W64) : Machine.Action }.word 24 5)).uevDue = none) ∧
    ((w17_35.timer ((1024 / 1024 : Nat) * 32 + fld { due := 60, alarm := 1024, kind := ActKind.timer, stamp := (5 : W64), axis := 1, k := (9 : W64), word := (2936012800 : W32), base := (4194304 : W64) : Machine.Action }.word 24 5)).capDue = []) ∧
    (fld { due := 60, alarm := 1024, kind := ActKind.timer, stamp := (5 : W64), axis := 1, k := (9 : W64), word := (2936012800 : W32), base := (4194304 : W64) : Machine.Action }.word 29 3 = 5) ∧
    wServing.live ∧
    (dueAction wServing 1024 ActKind.core = some { due := 60, alarm := 1024, kind := ActKind.core, stamp := (5 : W64), axis := 1, k := (9 : W64), word := (258 : W32), base := (4194304 : W64) : Machine.Action }) ∧
    (bridgeDown wServing = false) ∧
    (BitVec.getLsbD { due := 60, alarm := 1024, kind := ActKind.core, stamp := (5 : W64), axis := 1, k := (9 : W64), word := (258 : W32), base := (4194304 : W64) : Machine.Action }.word 16 = false) ∧
    w17_36.live ∧
    (dueAction w17_36 1024 ActKind.core = some { due := 60, alarm := 1024, kind := ActKind.core, stamp := (5 : W64), axis := 1, k := (9 : W64), word := (999170 : W32), base := (4194304 : W64) : Machine.Action }) ∧
    (bridgeDown w17_36 = false) ∧
    (BitVec.getLsbD { due := 60, alarm := 1024, kind := ActKind.core, stamp := (5 : W64), axis := 1, k := (9 : W64), word := (999170 : W32), base := (4194304 : W64) : Machine.Action }.word 16 = true) ∧
    (0 < 64) ∧
    w17_41.live ∧
    (dueAction w17_41 1024 ActKind.timer = some { due := 60, alarm := 1024, kind := ActKind.timer, stamp := (5 : W64), axis := 1, k := (9 : W64), word := (520093696 : W32), base := (4194304 : W64) : Machine.Action }) ∧
    (dueActions w17_41 1024 ActKind.timer actTimer = [{ due := 60, alarm := 1024, kind := ActKind.timer, stamp := (5 : W64), axis := 1, k := (9 : W64), word := (520093696 : W32), base := (4194304 : W64) : Machine.Action }]) ∧
    (tmCompat w17_41 ((1024 / 1024 : Nat) * 32 + fld { due := 60, alarm := 1024, kind := ActKind.timer, stamp := (5 : W64), axis := 1, k := (9 : W64), word := (520093696 : W32), base := (4194304 : W64) : Machine.Action }.word 24 5) = false) ∧
    ((w17_41.die (1024 / 1024 : Nat)).doze = false) ∧
    ((w17_41.timer ((1024 / 1024 : Nat) * 32 + fld { due := 60, alarm := 1024, kind := ActKind.timer, stamp := (5 : W64), axis := 1, k := (9 : W64), word := (520093696 : W32), base := (4194304 : W64) : Machine.Action }.word 24 5)).tickDue = false) ∧
    ((w17_41.timer ((1024 / 1024 : Nat) * 32 + fld { due := 60, alarm := 1024, kind := ActKind.timer, stamp := (5 : W64), axis := 1, k := (9 : W64), word := (520093696 : W32), base := (4194304 : W64) : Machine.Action }.word 24 5)).uevDue = none) ∧
    ((w17_41.timer ((1024 / 1024 : Nat) * 32 + fld { due := 60, alarm := 1024, kind := ActKind.timer, stamp := (5 : W64), axis := 1, k := (9 : W64), word := (520093696 : W32), base := (4194304 : W64) : Machine.Action }.word 24 5)).capDue = []) ∧
    (fld { due := 60, alarm := 1024, kind := ActKind.timer, stamp := (5 : W64), axis := 1, k := (9 : W64), word := (520093696 : W32), base := (4194304 : W64) : Machine.Action }.word 29 3 = 0) ∧
    (0 ≠ (1024 / 1024 : Nat) * 32 + fld { due := 60, alarm := 1024, kind := ActKind.timer, stamp := (5 : W64), axis := 1, k := (9 : W64), word := (520093696 : W32), base := (4194304 : W64) : Machine.Action }.word 24 5) ∧
    ((w17_41.timer ((1024 / 1024 : Nat) * 32 + fld { due := 60, alarm := 1024, kind := ActKind.timer, stamp := (5 : W64), axis := 1, k := (9 : W64), word := (520093696 : W32), base := (4194304 : W64) : Machine.Action }.word 24 5)).run = false) ∧
    w17_45.live ∧
    (dueAction w17_45 1024 ActKind.timer = some { due := 60, alarm := 1024, kind := ActKind.timer, stamp := (5 : W64), axis := 1, k := (9 : W64), word := (520093696 : W32), base := (4194304 : W64) : Machine.Action }) ∧
    (dueActions w17_45 1024 ActKind.timer actTimer = [{ due := 60, alarm := 1024, kind := ActKind.timer, stamp := (5 : W64), axis := 1, k := (9 : W64), word := (520093696 : W32), base := (4194304 : W64) : Machine.Action }]) ∧
    (tmCompat w17_45 ((1024 / 1024 : Nat) * 32 + fld { due := 60, alarm := 1024, kind := ActKind.timer, stamp := (5 : W64), axis := 1, k := (9 : W64), word := (520093696 : W32), base := (4194304 : W64) : Machine.Action }.word 24 5) = false) ∧
    ((w17_45.die (1024 / 1024 : Nat)).doze = false) ∧
    ((w17_45.timer ((1024 / 1024 : Nat) * 32 + fld { due := 60, alarm := 1024, kind := ActKind.timer, stamp := (5 : W64), axis := 1, k := (9 : W64), word := (520093696 : W32), base := (4194304 : W64) : Machine.Action }.word 24 5)).tickDue = false) ∧
    ((w17_45.timer ((1024 / 1024 : Nat) * 32 + fld { due := 60, alarm := 1024, kind := ActKind.timer, stamp := (5 : W64), axis := 1, k := (9 : W64), word := (520093696 : W32), base := (4194304 : W64) : Machine.Action }.word 24 5)).uevDue = none) ∧
    ((w17_45.timer ((1024 / 1024 : Nat) * 32 + fld { due := 60, alarm := 1024, kind := ActKind.timer, stamp := (5 : W64), axis := 1, k := (9 : W64), word := (520093696 : W32), base := (4194304 : W64) : Machine.Action }.word 24 5)).capDue = []) ∧
    ((w17_45.timer ((1024 / 1024 : Nat) * 32 + fld { due := 60, alarm := 1024, kind := ActKind.timer, stamp := (5 : W64), axis := 1, k := (9 : W64), word := (520093696 : W32), base := (4194304 : W64) : Machine.Action }.word 24 5)).run = true) ∧
    w17_46.live ∧
    (dueAction w17_46 1024 ActKind.timer = some { due := 60, alarm := 1024, kind := ActKind.timer, stamp := (5 : W64), axis := 1, k := (9 : W64), word := (1593835520 : W32), base := (4194304 : W64) : Machine.Action }) ∧
    (dueActions w17_46 1024 ActKind.timer actTimer = [{ due := 60, alarm := 1024, kind := ActKind.timer, stamp := (5 : W64), axis := 1, k := (9 : W64), word := (1593835520 : W32), base := (4194304 : W64) : Machine.Action }]) ∧
    (tmCompat w17_46 ((1024 / 1024 : Nat) * 32 + fld { due := 60, alarm := 1024, kind := ActKind.timer, stamp := (5 : W64), axis := 1, k := (9 : W64), word := (1593835520 : W32), base := (4194304 : W64) : Machine.Action }.word 24 5) = false) ∧
    ((w17_46.die (1024 / 1024 : Nat)).doze = false) ∧
    ((w17_46.timer ((1024 / 1024 : Nat) * 32 + fld { due := 60, alarm := 1024, kind := ActKind.timer, stamp := (5 : W64), axis := 1, k := (9 : W64), word := (1593835520 : W32), base := (4194304 : W64) : Machine.Action }.word 24 5)).tickDue = false) ∧
    ((w17_46.timer ((1024 / 1024 : Nat) * 32 + fld { due := 60, alarm := 1024, kind := ActKind.timer, stamp := (5 : W64), axis := 1, k := (9 : W64), word := (1593835520 : W32), base := (4194304 : W64) : Machine.Action }.word 24 5)).uevDue = none) ∧
    ((w17_46.timer ((1024 / 1024 : Nat) * 32 + fld { due := 60, alarm := 1024, kind := ActKind.timer, stamp := (5 : W64), axis := 1, k := (9 : W64), word := (1593835520 : W32), base := (4194304 : W64) : Machine.Action }.word 24 5)).capDue = []) ∧
    (fld { due := 60, alarm := 1024, kind := ActKind.timer, stamp := (5 : W64), axis := 1, k := (9 : W64), word := (1593835520 : W32), base := (4194304 : W64) : Machine.Action }.word 29 3 = 2 ∨ fld { due := 60, alarm := 1024, kind := ActKind.timer, stamp := (5 : W64), axis := 1, k := (9 : W64), word := (1593835520 : W32), base := (4194304 : W64) : Machine.Action }.word 29 3 = 3) ∧
    (0 ≠ (1024 / 1024 : Nat) * 32 + fld { due := 60, alarm := 1024, kind := ActKind.timer, stamp := (5 : W64), axis := 1, k := (9 : W64), word := (1593835520 : W32), base := (4194304 : W64) : Machine.Action }.word 24 5) := by
  and_intros <;> decide +kernel
theorem witness_stampAndPollActions :
    w17_37.live ∧
    (dueAction w17_37 1024 ActKind.stamp = some { due := 60, alarm := 1024, kind := ActKind.stamp, stamp := (5 : W64), axis := 1, k := (9 : W64), word := (3 : W32), base := (4194304 : W64) : Machine.Action }) ∧
    (BitVec.toNat { due := 60, alarm := 1024, kind := ActKind.stamp, stamp := (5 : W64), axis := 1, k := (9 : W64), word := (3 : W32), base := (4194304 : W64) : Machine.Action }.base + BitVec.toNat { due := 60, alarm := 1024, kind := ActKind.stamp, stamp := (5 : W64), axis := 1, k := (9 : W64), word := (3 : W32), base := (4194304 : W64) : Machine.Action }.k % 2 ^ fld { due := 60, alarm := 1024, kind := ActKind.stamp, stamp := (5 : W64), axis := 1, k := (9 : W64), word := (3 : W32), base := (4194304 : W64) : Machine.Action }.word 0 5 * 16 < 2 ^ 28) ∧
    (bridgeHolds w17_37 9 (BitVec.toNat { due := 60, alarm := 1024, kind := ActKind.stamp, stamp := (5 : W64), axis := 1, k := (9 : W64), word := (3 : W32), base := (4194304 : W64) : Machine.Action }.base + BitVec.toNat { due := 60, alarm := 1024, kind := ActKind.stamp, stamp := (5 : W64), axis := 1, k := (9 : W64), word := (3 : W32), base := (4194304 : W64) : Machine.Action }.k % 2 ^ fld { due := 60, alarm := 1024, kind := ActKind.stamp, stamp := (5 : W64), axis := 1, k := (9 : W64), word := (3 : W32), base := (4194304 : W64) : Machine.Action }.word 0 5 * 16) 16 = false) ∧
    (bayOn w17_37 ((BitVec.toNat { due := 60, alarm := 1024, kind := ActKind.stamp, stamp := (5 : W64), axis := 1, k := (9 : W64), word := (3 : W32), base := (4194304 : W64) : Machine.Action }.base + BitVec.toNat { due := 60, alarm := 1024, kind := ActKind.stamp, stamp := (5 : W64), axis := 1, k := (9 : W64), word := (3 : W32), base := (4194304 : W64) : Machine.Action }.k % 2 ^ fld { due := 60, alarm := 1024, kind := ActKind.stamp, stamp := (5 : W64), axis := 1, k := (9 : W64), word := (3 : W32), base := (4194304 : W64) : Machine.Action }.word 0 5 * 16) / 2 ^ 22) = true) ∧
    ((w17_37.bay ((BitVec.toNat { due := 60, alarm := 1024, kind := ActKind.stamp, stamp := (5 : W64), axis := 1, k := (9 : W64), word := (3 : W32), base := (4194304 : W64) : Machine.Action }.base + BitVec.toNat { due := 60, alarm := 1024, kind := ActKind.stamp, stamp := (5 : W64), axis := 1, k := (9 : W64), word := (3 : W32), base := (4194304 : W64) : Machine.Action }.k % 2 ^ fld { due := 60, alarm := 1024, kind := ActKind.stamp, stamp := (5 : W64), axis := 1, k := (9 : W64), word := (3 : W32), base := (4194304 : W64) : Machine.Action }.word 0 5 * 16) / 2 ^ 22)).force = 8) ∧
    (w17_37.poison = []) ∧
    w17_38.live ∧
    (dueAction w17_38 1024 ActKind.poll = some { due := 60, alarm := 1024, kind := ActKind.poll, stamp := (5 : W64), axis := 1, k := (9 : W64), word := (3 : W32), base := (4194304 : W64) : Machine.Action }) ∧
    (w17_38.poll.running = false) ∧
    (∀ q ∈ w17_38.link.out, q.sent = true) ∧
    w17_39.live ∧
    (w17_39.stampAns = [(1024, Resp.decErr)]) := by
  and_intros <;> decide +kernel

def w18_1 : Timer := { tmrCore with run := false }
def w18_5 : State := wCompat 0 (1 : W64) { : Timer }
def w18_6 : Timer := { tmrCore with down := true, oc0 := true, latepend := true }
def w18_7 : State := (wTimer 1 (433 : W64) w18_6)
def w18_8 : Timer := { tmrCore with latepend := true, tickDue := true }
def w18_9 : State := wTimer 3 (0 : W64) w18_8
def w18_10 : Timer := { w18_9.timer ↑(3 : Fin 64) with tickDue := false }
def w18_11 : Timer := { tmrCore with tickDue := true }
def w18_12 : State := wTimer 3 (0 : W64) w18_11
def w18_13 : Timer := { w18_12.timer ↑(3 : Fin 64) with tickDue := false }
def w18_14 : Timer := { tmrCore with cnt := (7 : W32), tickDue := true }
def w18_15 : State := wTimer 3 (0 : W64) w18_14
def w18_16 : Timer := { w18_15.timer ↑(3 : Fin 64) with tickDue := false }
def w18_17 : State := wTimer 3 (1 : W64) w18_14
def w18_18 : Timer := { w18_17.timer ↑(3 : Fin 64) with tickDue := false }
def w18_19 : Timer := { tmrCore with cnt := (0 : W32), tickDue := true }
def w18_20 : State := wTimer 3 (1 : W64) w18_19
def w18_21 : Timer := { w18_20.timer ↑(3 : Fin 64) with tickDue := false }
def w18_22 : State := wTimer 3 (2 : W64) w18_19
def w18_23 : Timer := { w18_22.timer ↑(3 : Fin 64) with tickDue := false }
def w18_26 : Timer := { tmrCore with down := true, cnt := (7 : W32), tickDue := true }
def w18_27 : State := wTimer 3 (2 : W64) w18_26
def w18_28 : Timer := { w18_27.timer ↑(3 : Fin 64) with tickDue := false }
def w18_29 : Timer := { tmrCore with down := true, cnt := (1 : W32), tickDue := true }
def w18_30 : State := wTimer 3 (2 : W64) w18_29
def w18_31 : Timer := { w18_30.timer ↑(3 : Fin 64) with tickDue := false }
def w18_35 : Timer := { tmrCore with uevDue := some true }
def w18_36 : State := regPut (wTimer 3 (48 : W64) w18_35) RegName.tmrSlv 3 (2048 : W64)
def w18_42 : State := wTimer 3 (0 : W64) tmrCore
def w18_43 : Timer := { tmrCore with pscnt := 3, trgPend := true }
def w18_44 : State := wTimer 3 (0 : W64) w18_43
def w18_47 : State := wTimer 3 (8 : W64) tmrCore
def w18_50 : Timer := { tmrCore with capDue := [true, false] }
def w18_51 : State := wTimer 3 (0 : W64) w18_50
def w18_52 : State := regPut (wTimer 3 (0 : W64) w18_50) RegName.tmrCapcfg 3 (1 : W64)
def w18_53 : Timer := { tmrCore with capDue := [false] }
def w18_54 : State := regPut (wTimer 3 (0 : W64) w18_53) RegName.tmrCapcfg 3 (1 : W64)
def w18_55 : Timer := { tmrCore with capr := some (77 : W32), capPair := (78187493520 : W64), capDue := [true] }
def w18_56 : State := regPut (wTimer 3 (0 : W64) w18_55) RegName.tmrCapcfg 3 (129 : W64)
def w18_57 : State := wCompat 3 (32 : W64) { k5cnt := (5 : W32) : Timer }
def w18_58 : State := wCompat 3 (65313 : W64) { k5psc := 255, k5cnt := (4294967295 : W32) : Timer }
def w18_59 : State := wCompat 3 (65313 : W64) { k5psc := 254, k5cnt := (4294967295 : W32), k5out := true : Timer }
def w18_60 : State := wCompat 3 (65313 : W64) { k5psc := 254, k5next := some (0 : W32), k5cnt := (4294967295 : W32) : Timer }
def w18_61 : State := wCompat 3 (65313 : W64) { k5cnt := (5 : W32), k5wrap := true : Timer }
def w18_62 : State := wCompat 3 (65281 : W64) { k5cnt := (5 : W32), k5match := true, k5out := true : Timer }
def w18_66 : Timer := { tmrCore with run := false, trgLvl := true, trgIn := true }
def w18_67 : State := regPut (wTimer 3 (0 : W64) w18_66) RegName.tmrSlv 3 (11 : W64)
def w18_68 : Timer := { tmrCore with run := false, down := true, trgLvl := true, trgIn := true }
def w18_69 : State := regPut (wTimer 3 (1 : W64) w18_68) RegName.tmrSlv 3 (10 : W64)
def w18_70 : State := wTimer 3 (32 : W64) w18_43
def w18_71 : Timer := { tmrCore with pscnt := 3, clkEdges := 1 }
def w18_72 : State := wTimer 3 (16 : W64) w18_71
def w18_73 : Timer := { tmrCore with clkEdges := 2 }
def w18_74 : State := wTimer 3 (16 : W64) w18_73
def w18_75 : Timer := { tmrCore with trgi := true }
def w18_76 : State := wTimer 3 (16 : W64) w18_75
def w18_78 : State := regPut (wCompat 3 (0 : W64) { k5cap := true, k5cnt := (4 : W32), k5out := true : Timer }) RegName.k5Pin 3 (39 : W64)
def w18_97 : Timer := { tmrCore with lastAx := (5 : W64) }
def w18_98 : State := { wTimer 3 (32816 : W64) w18_97 with bus := [(2, { value := (393216 : W64), state := AxState.run : BusVal })] }
def w18_99 : Timer := { tmrCore with lastAx := (6 : W64) }
def w18_100 : State := { wTimer 3 (32816 : W64) w18_99 with bus := [(2, { value := (393216 : W64), state := AxState.run : BusVal })] }
def w18_101 : State := wTimer 3 (0 : W64) w18_1
def w18_107 : Timer := { tmrCore with new := true, capr := some (77 : W32), capDue := [true] }
def w18_108 : State := regPut (wTimer 3 (0 : W64) w18_107) RegName.tmrCapcfg 3 (129 : W64)
theorem witness_timerCommands :
    w18_5.live ∧
    (w18_5.serves RegName.tmrCtrl 0) ∧
    ((w18_5.timer 0).tickDue = false) ∧
    ((w18_5.timer 0).uevDue = none) ∧
    ((w18_5.timer 0).capDue = []) ∧
    (tmCompat w18_5 0 = true) ∧
    w18_7.live ∧
    (w18_7.serves RegName.tmrCtrl 1) ∧
    ((w18_7.timer 1).tickDue = false) ∧
    ((w18_7.timer 1).uevDue = none) ∧
    ((w18_7.timer 1).capDue = []) ∧
    (tmCompat w18_7 1 = false) := by
  and_intros <;> decide +kernel
theorem witness_timerTickCounts :
    w18_9.live ∧
    ((w18_9.timer 3).tickDue = true) ∧
    ((w18_9.die (3 / 32 : Nat)).doze = false) ∧
    (w18_10.latepend = true) ∧
    w18_12.live ∧
    ((w18_12.timer 3).tickDue = true) ∧
    ((w18_12.die (3 / 32 : Nat)).doze = false) ∧
    (w18_13.latepend = false) ∧
    (fld (regGet w18_12 RegName.tmrCfg 3) 0 2 = 0) ∧
    (w18_13.cnt ≠ w18_13.perA - (1 : W32)) ∧
    (w18_13.cnt + (1 : W32) ≠ w18_13.cmp0A ∧ w18_13.cnt + (1 : W32) ≠ w18_13.cmp1A) ∧
    w18_15.live ∧
    ((w18_15.timer 3).tickDue = true) ∧
    ((w18_15.die (3 / 32 : Nat)).doze = false) ∧
    (w18_16.latepend = false) ∧
    (fld (regGet w18_15 RegName.tmrCfg 3) 0 2 = 0) ∧
    (w18_16.cnt = w18_16.perA - (1 : W32)) ∧
    w18_17.live ∧
    ((w18_17.timer 3).tickDue = true) ∧
    ((w18_17.die (3 / 32 : Nat)).doze = false) ∧
    (w18_18.latepend = false) ∧
    (fld (regGet w18_17 RegName.tmrCfg 3) 0 2 = 1) ∧
    (w18_18.cnt ≠ (0 : W32)) ∧
    (w18_18.cnt - (1 : W32) ≠ w18_18.cmp0A ∧ w18_18.cnt - (1 : W32) ≠ w18_18.cmp1A) ∧
    w18_20.live ∧
    ((w18_20.timer 3).tickDue = true) ∧
    ((w18_20.die (3 / 32 : Nat)).doze = false) ∧
    (w18_21.latepend = false) ∧
    (fld (regGet w18_20 RegName.tmrCfg 3) 0 2 = 1) ∧
    (w18_21.cnt = (0 : W32)) ∧
    w18_22.live ∧
    ((w18_22.timer 3).tickDue = true) ∧
    ((w18_22.die (3 / 32 : Nat)).doze = false) ∧
    (w18_23.latepend = false) ∧
    (fld (regGet w18_22 RegName.tmrCfg 3) 0 2 = 2) ∧
    (w18_23.down = false) ∧
    (w18_23.cnt + (1 : W32) ≠ w18_23.cmp0A ∧ w18_23.cnt + (1 : W32) ≠ w18_23.cmp1A) ∧
    w18_27.live ∧
    ((w18_27.timer 3).tickDue = true) ∧
    ((w18_27.die (3 / 32 : Nat)).doze = false) ∧
    (w18_28.latepend = false) ∧
    (fld (regGet w18_27 RegName.tmrCfg 3) 0 2 = 2) ∧
    (w18_28.down = true) ∧
    (w18_28.cnt ≠ (1 : W32)) ∧
    (w18_28.cnt - (1 : W32) ≠ w18_28.cmp0A ∧ w18_28.cnt - (1 : W32) ≠ w18_28.cmp1A) ∧
    w18_30.live ∧
    ((w18_30.timer 3).tickDue = true) ∧
    ((w18_30.die (3 / 32 : Nat)).doze = false) ∧
    (w18_31.latepend = false) ∧
    (fld (regGet w18_30 RegName.tmrCfg 3) 0 2 = 2) ∧
    (w18_31.down = true) ∧
    (w18_31.cnt = (1 : W32)) := by
  and_intros <;> decide +kernel
theorem witness_timerUpdateEvent :
    w18_36.live ∧
    ((w18_36.timer 3).uevDue = some true) ∧
    (regGet w18_36 RegName.tmrIrqen 3 = (0 : W64)) ∧
    ((w18_36.die (3 / 32 : Nat)).doze = false) ∧
    (nat_lit 0 ∈ List.range 64) ∧
    (nat_lit 0 ≠ 3) ∧
    (nat_lit 1 ∈ List.range 64) ∧
    (nat_lit 1 ≠ 3) ∧
    (nat_lit 2 ∈ List.range 64) ∧
    (nat_lit 2 ≠ 3) ∧
    (nat_lit 4 ∈ List.range 64) ∧
    (nat_lit 4 ≠ 3) ∧
    (nat_lit 5 ∈ List.range 64) ∧
    (nat_lit 5 ≠ 3) ∧
    (nat_lit 6 ∈ List.range 64) ∧
    (nat_lit 6 ≠ 3) ∧
    (nat_lit 7 ∈ List.range 64) ∧
    (nat_lit 7 ≠ 3) ∧
    (nat_lit 8 ∈ List.range 64) ∧
    (nat_lit 8 ≠ 3) ∧
    (nat_lit 9 ∈ List.range 64) ∧
    (nat_lit 9 ≠ 3) ∧
    (nat_lit 10 ∈ List.range 64) ∧
    (nat_lit 10 ≠ 3) ∧
    (nat_lit 11 ∈ List.range 64) ∧
    (nat_lit 11 ≠ 3) ∧
    (nat_lit 12 ∈ List.range 64) ∧
    (nat_lit 12 ≠ 3) ∧
    (nat_lit 13 ∈ List.range 64) ∧
    (nat_lit 13 ≠ 3) ∧
    (nat_lit 14 ∈ List.range 64) ∧
    (nat_lit 14 ≠ 3) ∧
    (nat_lit 15 ∈ List.range 64) ∧
    (nat_lit 15 ≠ 3) ∧
    (nat_lit 16 ∈ List.range 64) ∧
    (nat_lit 16 ≠ 3) ∧
    (nat_lit 17 ∈ List.range 64) ∧
    (nat_lit 17 ≠ 3) ∧
    (nat_lit 18 ∈ List.range 64) ∧
    (nat_lit 18 ≠ 3) ∧
    (nat_lit 19 ∈ List.range 64) ∧
    (nat_lit 19 ≠ 3) ∧
    (nat_lit 20 ∈ List.range 64) ∧
    (nat_lit 20 ≠ 3) ∧
    (nat_lit 21 ∈ List.range 64) ∧
    (nat_lit 21 ≠ 3) ∧
    (nat_lit 22 ∈ List.range 64) ∧
    (nat_lit 22 ≠ 3) ∧
    (nat_lit 23 ∈ List.range 64) ∧
    (nat_lit 23 ≠ 3) ∧
    (nat_lit 24 ∈ List.range 64) ∧
    (nat_lit 24 ≠ 3) ∧
    (nat_lit 25 ∈ List.range 64) ∧
    (nat_lit 25 ≠ 3) ∧
    (nat_lit 26 ∈ List.range 64) ∧
    (nat_lit 26 ≠ 3) ∧
    (nat_lit 27 ∈ List.range 64) ∧
    (nat_lit 27 ≠ 3) ∧
    (nat_lit 28 ∈ List.range 64) ∧
    (nat_lit 28 ≠ 3) ∧
    (nat_lit 29 ∈ List.range 64) ∧
    (nat_lit 29 ≠ 3) ∧
    (nat_lit 30 ∈ List.range 64) ∧
    (nat_lit 30 ≠ 3) ∧
    (nat_lit 31 ∈ List.range 64) ∧
    (nat_lit 31 ≠ 3) ∧
    (nat_lit 32 ∈ List.range 64) ∧
    (nat_lit 32 ≠ 3) ∧
    (nat_lit 33 ∈ List.range 64) ∧
    (nat_lit 33 ≠ 3) ∧
    (nat_lit 34 ∈ List.range 64) ∧
    (nat_lit 34 ≠ 3) ∧
    (nat_lit 35 ∈ List.range 64) ∧
    (nat_lit 35 ≠ 3) ∧
    (nat_lit 36 ∈ List.range 64) ∧
    (nat_lit 36 ≠ 3) ∧
    (nat_lit 37 ∈ List.range 64) ∧
    (nat_lit 37 ≠ 3) ∧
    (nat_lit 38 ∈ List.range 64) ∧
    (nat_lit 38 ≠ 3) ∧
    (nat_lit 39 ∈ List.range 64) ∧
    (nat_lit 39 ≠ 3) ∧
    (nat_lit 40 ∈ List.range 64) ∧
    (nat_lit 40 ≠ 3) ∧
    (nat_lit 41 ∈ List.range 64) ∧
    (nat_lit 41 ≠ 3) ∧
    (nat_lit 42 ∈ List.range 64) ∧
    (nat_lit 42 ≠ 3) ∧
    (nat_lit 43 ∈ List.range 64) ∧
    (nat_lit 43 ≠ 3) ∧
    (nat_lit 44 ∈ List.range 64) ∧
    (nat_lit 44 ≠ 3) ∧
    (nat_lit 45 ∈ List.range 64) ∧
    (nat_lit 45 ≠ 3) ∧
    (nat_lit 46 ∈ List.range 64) ∧
    (nat_lit 46 ≠ 3) ∧
    (nat_lit 47 ∈ List.range 64) ∧
    (nat_lit 47 ≠ 3) ∧
    (nat_lit 48 ∈ List.range 64) ∧
    (nat_lit 48 ≠ 3) ∧
    (nat_lit 49 ∈ List.range 64) ∧
    (nat_lit 49 ≠ 3) ∧
    (nat_lit 50 ∈ List.range 64) ∧
    (nat_lit 50 ≠ 3) ∧
    (nat_lit 51 ∈ List.range 64) ∧
    (nat_lit 51 ≠ 3) ∧
    (nat_lit 52 ∈ List.range 64) ∧
    (nat_lit 52 ≠ 3) ∧
    (nat_lit 53 ∈ List.range 64) ∧
    (nat_lit 53 ≠ 3) ∧
    (nat_lit 54 ∈ List.range 64) ∧
    (nat_lit 54 ≠ 3) ∧
    (nat_lit 55 ∈ List.range 64) ∧
    (nat_lit 55 ≠ 3) ∧
    (nat_lit 56 ∈ List.range 64) ∧
    (nat_lit 56 ≠ 3) ∧
    (nat_lit 57 ∈ List.range 64) ∧
    (nat_lit 57 ≠ 3) ∧
    (nat_lit 58 ∈ List.range 64) ∧
    (nat_lit 58 ≠ 3) ∧
    (nat_lit 59 ∈ List.range 64) ∧
    (nat_lit 59 ≠ 3) ∧
    (nat_lit 60 ∈ List.range 64) ∧
    (nat_lit 60 ≠ 3) ∧
    (nat_lit 61 ∈ List.range 64) ∧
    (nat_lit 61 ≠ 3) ∧
    (nat_lit 62 ∈ List.range 64) ∧
    (nat_lit 62 ≠ 3) ∧
    (nat_lit 63 ∈ List.range 64) ∧
    (nat_lit 63 ≠ 3) := by
  and_intros <;> decide +kernel
theorem witness_timerSourceAndTrigger :
    w18_44.live ∧
    (tmCompat w18_44 3 = false) ∧
    ((w18_44.die (3 / 32 : Nat)).doze = false) ∧
    ((w18_44.timer 3).tickDue = false) ∧
    ((w18_44.timer 3).uevDue = none) ∧
    (tmHeld w18_44 3 = false) ∧
    ((w18_44.timer 3).capDue = []) ∧
    ((w18_44.timer 3).taken = none) ∧
    ((w18_44.timer 3).trgRise = false) ∧
    (1 ≠ tmClksel w18_44 3) ∧
    ((w18_44.timer 3).run = true) ∧
    ((w18_44.timer 3).gatel = true) ∧
    (tmSms w18_44 3 = 0) ∧
    (tmClksel w18_44 3 = 0) ∧
    w18_67.live ∧
    (tmCompat w18_67 3 = false) ∧
    ((w18_67.die (3 / 32 : Nat)).doze = false) ∧
    ((w18_67.timer 3).tickDue = false) ∧
    ((w18_67.timer 3).uevDue = none) ∧
    (tmHeld w18_67 3 = false) ∧
    ((w18_67.timer 3).capDue = []) ∧
    ((w18_67.timer 3).taken = none) ∧
    ((w18_67.timer 3).trgRise = false) ∧
    (1 ≠ tmClksel w18_67 3) ∧
    (tmTrgi w18_67 3 = true) ∧
    ((w18_67.timer 3).trgi = false) ∧
    (tmSms w18_67 3 = 3) ∧
    (tmClksel w18_67 3 ≠ 2) ∧
    w18_69.live ∧
    (tmCompat w18_69 3 = false) ∧
    ((w18_69.die (3 / 32 : Nat)).doze = false) ∧
    ((w18_69.timer 3).tickDue = false) ∧
    ((w18_69.timer 3).uevDue = none) ∧
    (tmHeld w18_69 3 = false) ∧
    ((w18_69.timer 3).capDue = []) ∧
    ((w18_69.timer 3).taken = none) ∧
    ((w18_69.timer 3).trgRise = false) ∧
    (1 ≠ tmClksel w18_69 3) ∧
    (tmTrgi w18_69 3 = true) ∧
    ((w18_69.timer 3).trgi = false) ∧
    (tmSms w18_69 3 = 2) ∧
    w18_70.live ∧
    (tmCompat w18_70 3 = false) ∧
    ((w18_70.die (3 / 32 : Nat)).doze = false) ∧
    ((w18_70.timer 3).tickDue = false) ∧
    ((w18_70.timer 3).uevDue = none) ∧
    (tmHeld w18_70 3 = false) ∧
    ((w18_70.timer 3).capDue = []) ∧
    ((w18_70.timer 3).taken = none) ∧
    ((w18_70.timer 3).trgRise = false) ∧
    (0 ≠ tmClksel w18_70 3) ∧
    (tmTrgi w18_70 3 = true) ∧
    ((w18_70.timer 3).trgi = false) ∧
    (tmSms w18_70 3 = 0) ∧
    (tmClksel w18_70 3 = 2) ∧
    ((w18_70.timer 3).run = true) ∧
    ((w18_70.timer 3).gatel = true) ∧
    w18_72.live ∧
    (tmCompat w18_72 3 = false) ∧
    ((w18_72.die (3 / 32 : Nat)).doze = false) ∧
    ((w18_72.timer 3).tickDue = false) ∧
    ((w18_72.timer 3).uevDue = none) ∧
    (tmHeld w18_72 3 = false) ∧
    ((w18_72.timer 3).capDue = []) ∧
    ((w18_72.timer 3).taken = none) ∧
    ((w18_72.timer 3).trgRise = false) ∧
    (0 ≠ tmClksel w18_72 3) ∧
    ((w18_72.timer 3).run = true) ∧
    ((w18_72.timer 3).gatel = true) ∧
    (tmSms w18_72 3 = 0) ∧
    (tmClksel w18_72 3 = 1) ∧
    ((w18_72.timer 3).clkEdges = 1) ∧
    (tmTrgi w18_72 3 = (w18_72.timer 3).trgi) ∧
    w18_74.live ∧
    (tmCompat w18_74 3 = false) ∧
    ((w18_74.die (3 / 32 : Nat)).doze = false) ∧
    ((w18_74.timer 3).tickDue = false) ∧
    ((w18_74.timer 3).uevDue = none) ∧
    (tmHeld w18_74 3 = false) ∧
    ((w18_74.timer 3).capDue = []) ∧
    ((w18_74.timer 3).taken = none) ∧
    ((w18_74.timer 3).trgRise = false) ∧
    (0 ≠ tmClksel w18_74 3) ∧
    ((w18_74.timer 3).run = true) ∧
    ((w18_74.timer 3).gatel = true) ∧
    (tmSms w18_74 3 = 0) ∧
    (tmClksel w18_74 3 = 1) ∧
    (2 ≤ (w18_74.timer 3).clkEdges) ∧
    (tmTrgi w18_74 3 = (w18_74.timer 3).trgi) ∧
    w18_76.live ∧
    (tmCompat w18_76 3 = false) ∧
    ((w18_76.die (3 / 32 : Nat)).doze = false) ∧
    ((w18_76.timer 3).tickDue = false) ∧
    ((w18_76.timer 3).uevDue = none) ∧
    (tmHeld w18_76 3 = false) ∧
    ((w18_76.timer 3).capDue = []) ∧
    ((w18_76.timer 3).taken = none) ∧
    ((w18_76.timer 3).trgRise = false) ∧
    (0 ≠ tmClksel w18_76 3) ∧
    ((w18_76.timer 3).run = true) ∧
    ((w18_76.timer 3).gatel = true) ∧
    (tmSms w18_76 3 = 0) ∧
    (tmClksel w18_76 3 = 1) ∧
    ((w18_76.timer 3).clkEdges = 0) ∧
    (tmTrgi w18_76 3 = false) ∧
    ((w18_76.timer 3).trgi = true) ∧
    w18_98.live ∧
    (tmCompat w18_98 3 = false) ∧
    ((w18_98.die (3 / 32 : Nat)).doze = false) ∧
    ((w18_98.timer 3).tickDue = false) ∧
    ((w18_98.timer 3).uevDue = none) ∧
    (tmHeld w18_98 3 = false) ∧
    ((w18_98.timer 3).capDue = []) ∧
    ((w18_98.timer 3).taken = none) ∧
    ((w18_98.timer 3).trgRise = false) ∧
    (0 ≠ tmClksel w18_98 3) ∧
    ((w18_98.timer 3).run = true) ∧
    ((w18_98.timer 3).gatel = true) ∧
    (tmSms w18_98 3 = 0) ∧
    (tmClksel w18_98 3 = 3) ∧
    (tmAxisCount w18_98 3 = 1) ∧
    (tmTrgi w18_98 3 = (w18_98.timer 3).trgi) ∧
    w18_100.live ∧
    (tmCompat w18_100 3 = false) ∧
    ((w18_100.die (3 / 32 : Nat)).doze = false) ∧
    ((w18_100.timer 3).tickDue = false) ∧
    ((w18_100.timer 3).uevDue = none) ∧
    (tmHeld w18_100 3 = false) ∧
    ((w18_100.timer 3).capDue = []) ∧
    ((w18_100.timer 3).taken = none) ∧
    ((w18_100.timer 3).trgRise = false) ∧
    (0 ≠ tmClksel w18_100 3) ∧
    ((w18_100.timer 3).run = true) ∧
    ((w18_100.timer 3).gatel = true) ∧
    (tmSms w18_100 3 = 0) ∧
    (tmClksel w18_100 3 = 3) ∧
    (tmAxisCount w18_100 3 = 0) ∧
    (tmTrgi w18_100 3 = (w18_100.timer 3).trgi) ∧
    w18_101.live ∧
    (tmCompat w18_101 3 = false) ∧
    ((w18_101.die (3 / 32 : Nat)).doze = false) ∧
    ((w18_101.timer 3).tickDue = false) ∧
    ((w18_101.timer 3).uevDue = none) ∧
    (tmHeld w18_101 3 = false) ∧
    ((w18_101.timer 3).capDue = []) ∧
    ((w18_101.timer 3).taken = none) ∧
    ((w18_101.timer 3).trgRise = false) ∧
    (1 ≠ tmClksel w18_101 3) ∧
    ((w18_101.timer 3).run = false ∨ (w18_101.timer 3).gatel = false ∨ tmSms w18_101 3 = 1 ∧ tmTrgi w18_101 3 = false) ∧
    (tmSms w18_101 3 < 2) ∧
    (tmClksel w18_101 3 = 0) ∧
    (tmTrgi w18_101 3 = (w18_101.timer 3).trgi) := by
  and_intros <;> decide +kernel
theorem witness_timerSetupWrites :
    w18_47.live ∧
    ((w18_47.timer 3).tickDue = false) ∧
    ((w18_47.timer 3).uevDue = none) ∧
    ((w18_47.timer 3).capDue = []) ∧
    (w18_47.serves (TimerReg.psc, RegName.tmrPsc).2 3) ∧
    (BitVec.getLsbD (regGet w18_47 RegName.tmrCfg 3) 3 = true) ∧
    ((w18_47.timer 3).perA ≠ (0 : W32)) ∧
    (w18_47.serves (TimerReg.per, RegName.tmrPer).2 3) ∧
    (w18_47.serves (TimerReg.cmp0, RegName.tmrCmp0).2 3) ∧
    (w18_47.serves (TimerReg.cmp1, RegName.tmrCmp1).2 3) ∧
    (w18_47.serves RegName.tmrCfg 3) ∧
    ((w18_47.timer 3).run = true) ∧
    w18_42.live ∧
    ((w18_42.timer 3).tickDue = false) ∧
    ((w18_42.timer 3).uevDue = none) ∧
    ((w18_42.timer 3).capDue = []) ∧
    (BitVec.getLsbD (regGet w18_42 RegName.tmrCfg 3) 3 = false ∨ (w18_42.timer 3).perA = (0 : W32)) ∧
    (w18_42.serves RegName.tmrCmp0 3) ∧
    (w18_42.serves RegName.tmrPer 3) ∧
    (w18_42.serves RegName.tmrCfg 3) ∧
    ((w18_42.timer 3).run = true) := by
  and_intros <;> decide +kernel
theorem witness_capturesPublishPairs :
    w18_42.live ∧
    (tmCompat w18_42 3 = false) ∧
    ((w18_42.die (3 / 32 : Nat)).doze = false) ∧
    ((w18_42.timer 3).tickDue = false) ∧
    ((w18_42.timer 3).uevDue = none) ∧
    ((w18_42.timer 3).capDue = []) ∧
    (w18_42.serves RegName.tmrCapPair 3) ∧
    w18_51.live ∧
    (tmCompat w18_51 3 = false) ∧
    ((w18_51.die (3 / 32 : Nat)).doze = false) ∧
    ((w18_51.timer 3).tickDue = false) ∧
    ((w18_51.timer 3).uevDue = none) ∧
    ((w18_51.timer 3).capDue = [true, false]) ∧
    (BitVec.getLsbD (regGet w18_51 RegName.tmrCapcfg 3) 0 = false) ∧
    (w18_51.serves RegName.tmrCapPair 3) ∧
    w18_52.live ∧
    (tmCompat w18_52 3 = false) ∧
    ((w18_52.die (3 / 32 : Nat)).doze = false) ∧
    ((w18_52.timer 3).tickDue = false) ∧
    ((w18_52.timer 3).uevDue = none) ∧
    ((w18_52.timer 3).capDue = [true, false]) ∧
    (BitVec.getLsbD (regGet w18_52 RegName.tmrCapcfg 3) 0 = true) ∧
    (true = !BitVec.getLsbD (regGet w18_52 RegName.tmrCapcfg 3) 7) ∧
    (w18_52.serves RegName.tmrCapPair 3) ∧
    w18_54.live ∧
    (tmCompat w18_54 3 = false) ∧
    ((w18_54.die (3 / 32 : Nat)).doze = false) ∧
    ((w18_54.timer 3).tickDue = false) ∧
    ((w18_54.timer 3).uevDue = none) ∧
    ((w18_54.timer 3).capDue = [false]) ∧
    (BitVec.getLsbD (regGet w18_54 RegName.tmrCapcfg 3) 0 = true) ∧
    (false ≠ !BitVec.getLsbD (regGet w18_54 RegName.tmrCapcfg 3) 7) ∧
    ((w18_54.timer 3).capr = none) ∧
    (w18_54.serves RegName.tmrCapPair 3) ∧
    w18_56.live ∧
    (tmCompat w18_56 3 = false) ∧
    ((w18_56.die (3 / 32 : Nat)).doze = false) ∧
    ((w18_56.timer 3).tickDue = false) ∧
    ((w18_56.timer 3).uevDue = none) ∧
    ((w18_56.timer 3).capDue = [true]) ∧
    (BitVec.getLsbD (regGet w18_56 RegName.tmrCapcfg 3) 0 = true) ∧
    (true ≠ !BitVec.getLsbD (regGet w18_56 RegName.tmrCapcfg 3) 7) ∧
    ((w18_56.timer 3).capr = some (77 : W32)) ∧
    ((w18_56.timer 3).new = false) ∧
    (BitVec.getLsbD (regGet w18_56 RegName.tmrIrqen 3) 3 = false) ∧
    (w18_56.serves RegName.tmrCapPair 3) ∧
    w18_108.live ∧
    (tmCompat w18_108 3 = false) ∧
    ((w18_108.die (3 / 32 : Nat)).doze = false) ∧
    ((w18_108.timer 3).tickDue = false) ∧
    ((w18_108.timer 3).uevDue = none) ∧
    ((w18_108.timer 3).capDue = [true]) ∧
    (BitVec.getLsbD (regGet w18_108 RegName.tmrCapcfg 3) 0 = true) ∧
    (true ≠ !BitVec.getLsbD (regGet w18_108 RegName.tmrCapcfg 3) 7) ∧
    ((w18_108.timer 3).capr = some (77 : W32)) ∧
    ((w18_108.timer 3).new = true) ∧
    (regGet w18_108 RegName.tmrIrqen 3 = (0 : W64)) ∧
    (w18_108.serves RegName.tmrCapPair 3) := by
  and_intros <;> decide +kernel
theorem witness_compatibilityTimer :
    w18_57.live ∧
    (tmCompat w18_57 3 = true) ∧
    (fld (regGet w18_57 RegName.k5Ctl 3) 1 3 = 0) ∧
    ((w18_57.timer 3).k5wrap = false) ∧
    ((w18_57.timer 3).k5match = false) ∧
    (w18_57.serves RegName.k5Ctl 3) ∧
    ((w18_57.timer 3).k5cap = false) ∧
    ((w18_57.timer 3).k5next = none) ∧
    (BitVec.getLsbD (regGet w18_57 RegName.k5Ctl 3) 0 = false) ∧
    w18_58.live ∧
    (tmCompat w18_58 3 = true) ∧
    (fld (regGet w18_58 RegName.k5Ctl 3) 1 3 = 0) ∧
    ((w18_58.timer 3).k5wrap = false) ∧
    ((w18_58.timer 3).k5match = false) ∧
    (w18_58.serves RegName.k5Ctl 3) ∧
    ((w18_58.timer 3).k5cap = false) ∧
    ((w18_58.timer 3).k5next = none) ∧
    (BitVec.getLsbD (regGet w18_58 RegName.k5Ctl 3) 0 = true) ∧
    (fld (regGet w18_58 RegName.k5Ctl 3) 8 8 ≤ (w18_58.timer 3).k5psc) ∧
    w18_59.live ∧
    (tmCompat w18_59 3 = true) ∧
    (fld (regGet w18_59 RegName.k5Ctl 3) 1 3 = 0) ∧
    ((w18_59.timer 3).k5wrap = false) ∧
    ((w18_59.timer 3).k5match = false) ∧
    (w18_59.serves RegName.k5Ctl 3) ∧
    ((w18_59.timer 3).k5cap = false) ∧
    ((w18_59.timer 3).k5next = none) ∧
    (BitVec.getLsbD (regGet w18_59 RegName.k5Ctl 3) 0 = true) ∧
    ((w18_59.timer 3).k5psc < fld (regGet w18_59 RegName.k5Ctl 3) 8 8) ∧
    w18_60.live ∧
    (tmCompat w18_60 3 = true) ∧
    (fld (regGet w18_60 RegName.k5Ctl 3) 1 3 = 0) ∧
    ((w18_60.timer 3).k5wrap = false) ∧
    ((w18_60.timer 3).k5match = false) ∧
    (w18_60.serves RegName.k5Ctl 3) ∧
    ((w18_60.timer 3).k5cap = false) ∧
    ((w18_60.timer 3).k5next = some (0 : W32)) ∧
    w18_61.live ∧
    (tmCompat w18_61 3 = true) ∧
    (fld (regGet w18_61 RegName.k5Ctl 3) 1 3 = 0) ∧
    ((w18_61.timer 3).k5wrap = true) ∧
    (0 ≠ 3) ∧
    w18_62.live ∧
    (tmCompat w18_62 3 = true) ∧
    (fld (regGet w18_62 RegName.k5Ctl 3) 1 3 = 0) ∧
    ((w18_62.timer 3).k5match = true) ∧
    w18_78.live ∧
    (tmCompat w18_78 3 = true) ∧
    (fld (regGet w18_78 RegName.k5Ctl 3) 1 3 = 0) ∧
    ((w18_78.timer 3).k5wrap = false) ∧
    ((w18_78.timer 3).k5match = false) ∧
    (w18_78.serves RegName.k5Ctl 3) ∧
    ((w18_78.timer 3).k5cap = true) ∧
    ((w18_78.die (3 / 32 : Nat)).doze = false) := by
  and_intros <;> decide +kernel
theorem witness_timerMatches :
    w18_12.live ∧
    ((w18_12.timer 3).tickDue = true) ∧
    ((w18_12.timer 3).latepend = false) ∧
    ((w18_12.die (3 / 32 : Nat)).doze = false) ∧
    (regGet w18_12 RegName.tmrIrqen 3 = (0 : W64)) ∧
    (fld (regGet w18_12 RegName.tmrCfg 3) 0 2 ≠ 3) ∧
    (fld (regGet w18_12 RegName.tmrCfg 3) 0 2 = 0 → (w18_12.timer 3).cnt ≠ (w18_12.timer 3).perA - (1 : W32)) ∧
    (fld (regGet w18_12 RegName.tmrCfg 3) 0 2 = 1 → (w18_12.timer 3).cnt ≠ (0 : W32)) ∧
    (fld (regGet w18_12 RegName.tmrCfg 3) 0 2 = 2 → (w18_12.timer 3).down = true → (w18_12.timer 3).cnt ≠ (1 : W32)) ∧
    (nat_lit 0 ∈ List.range 64) ∧
    (nat_lit 0 ≠ 3) ∧
    (nat_lit 1 ∈ List.range 64) ∧
    (nat_lit 1 ≠ 3) ∧
    (nat_lit 2 ∈ List.range 64) ∧
    (nat_lit 2 ≠ 3) ∧
    (nat_lit 4 ∈ List.range 64) ∧
    (nat_lit 4 ≠ 3) ∧
    (nat_lit 5 ∈ List.range 64) ∧
    (nat_lit 5 ≠ 3) ∧
    (nat_lit 6 ∈ List.range 64) ∧
    (nat_lit 6 ≠ 3) ∧
    (nat_lit 7 ∈ List.range 64) ∧
    (nat_lit 7 ≠ 3) ∧
    (nat_lit 8 ∈ List.range 64) ∧
    (nat_lit 8 ≠ 3) ∧
    (nat_lit 9 ∈ List.range 64) ∧
    (nat_lit 9 ≠ 3) ∧
    (nat_lit 10 ∈ List.range 64) ∧
    (nat_lit 10 ≠ 3) ∧
    (nat_lit 11 ∈ List.range 64) ∧
    (nat_lit 11 ≠ 3) ∧
    (nat_lit 12 ∈ List.range 64) ∧
    (nat_lit 12 ≠ 3) ∧
    (nat_lit 13 ∈ List.range 64) ∧
    (nat_lit 13 ≠ 3) ∧
    (nat_lit 14 ∈ List.range 64) ∧
    (nat_lit 14 ≠ 3) ∧
    (nat_lit 15 ∈ List.range 64) ∧
    (nat_lit 15 ≠ 3) ∧
    (nat_lit 16 ∈ List.range 64) ∧
    (nat_lit 16 ≠ 3) ∧
    (nat_lit 17 ∈ List.range 64) ∧
    (nat_lit 17 ≠ 3) ∧
    (nat_lit 18 ∈ List.range 64) ∧
    (nat_lit 18 ≠ 3) ∧
    (nat_lit 19 ∈ List.range 64) ∧
    (nat_lit 19 ≠ 3) ∧
    (nat_lit 20 ∈ List.range 64) ∧
    (nat_lit 20 ≠ 3) ∧
    (nat_lit 21 ∈ List.range 64) ∧
    (nat_lit 21 ≠ 3) ∧
    (nat_lit 22 ∈ List.range 64) ∧
    (nat_lit 22 ≠ 3) ∧
    (nat_lit 23 ∈ List.range 64) ∧
    (nat_lit 23 ≠ 3) ∧
    (nat_lit 24 ∈ List.range 64) ∧
    (nat_lit 24 ≠ 3) ∧
    (nat_lit 25 ∈ List.range 64) ∧
    (nat_lit 25 ≠ 3) ∧
    (nat_lit 26 ∈ List.range 64) ∧
    (nat_lit 26 ≠ 3) ∧
    (nat_lit 27 ∈ List.range 64) ∧
    (nat_lit 27 ≠ 3) ∧
    (nat_lit 28 ∈ List.range 64) ∧
    (nat_lit 28 ≠ 3) ∧
    (nat_lit 29 ∈ List.range 64) ∧
    (nat_lit 29 ≠ 3) ∧
    (nat_lit 30 ∈ List.range 64) ∧
    (nat_lit 30 ≠ 3) ∧
    (nat_lit 31 ∈ List.range 64) ∧
    (nat_lit 31 ≠ 3) ∧
    (nat_lit 32 ∈ List.range 64) ∧
    (nat_lit 32 ≠ 3) ∧
    (nat_lit 33 ∈ List.range 64) ∧
    (nat_lit 33 ≠ 3) ∧
    (nat_lit 34 ∈ List.range 64) ∧
    (nat_lit 34 ≠ 3) ∧
    (nat_lit 35 ∈ List.range 64) ∧
    (nat_lit 35 ≠ 3) ∧
    (nat_lit 36 ∈ List.range 64) ∧
    (nat_lit 36 ≠ 3) ∧
    (nat_lit 37 ∈ List.range 64) ∧
    (nat_lit 37 ≠ 3) ∧
    (nat_lit 38 ∈ List.range 64) ∧
    (nat_lit 38 ≠ 3) ∧
    (nat_lit 39 ∈ List.range 64) ∧
    (nat_lit 39 ≠ 3) ∧
    (nat_lit 40 ∈ List.range 64) ∧
    (nat_lit 40 ≠ 3) ∧
    (nat_lit 41 ∈ List.range 64) ∧
    (nat_lit 41 ≠ 3) ∧
    (nat_lit 42 ∈ List.range 64) ∧
    (nat_lit 42 ≠ 3) ∧
    (nat_lit 43 ∈ List.range 64) ∧
    (nat_lit 43 ≠ 3) ∧
    (nat_lit 44 ∈ List.range 64) ∧
    (nat_lit 44 ≠ 3) ∧
    (nat_lit 45 ∈ List.range 64) ∧
    (nat_lit 45 ≠ 3) ∧
    (nat_lit 46 ∈ List.range 64) ∧
    (nat_lit 46 ≠ 3) ∧
    (nat_lit 47 ∈ List.range 64) ∧
    (nat_lit 47 ≠ 3) ∧
    (nat_lit 48 ∈ List.range 64) ∧
    (nat_lit 48 ≠ 3) ∧
    (nat_lit 49 ∈ List.range 64) ∧
    (nat_lit 49 ≠ 3) ∧
    (nat_lit 50 ∈ List.range 64) ∧
    (nat_lit 50 ≠ 3) ∧
    (nat_lit 51 ∈ List.range 64) ∧
    (nat_lit 51 ≠ 3) ∧
    (nat_lit 52 ∈ List.range 64) ∧
    (nat_lit 52 ≠ 3) ∧
    (nat_lit 53 ∈ List.range 64) ∧
    (nat_lit 53 ≠ 3) ∧
    (nat_lit 54 ∈ List.range 64) ∧
    (nat_lit 54 ≠ 3) ∧
    (nat_lit 55 ∈ List.range 64) ∧
    (nat_lit 55 ≠ 3) ∧
    (nat_lit 56 ∈ List.range 64) ∧
    (nat_lit 56 ≠ 3) ∧
    (nat_lit 57 ∈ List.range 64) ∧
    (nat_lit 57 ≠ 3) ∧
    (nat_lit 58 ∈ List.range 64) ∧
    (nat_lit 58 ≠ 3) ∧
    (nat_lit 59 ∈ List.range 64) ∧
    (nat_lit 59 ≠ 3) ∧
    (nat_lit 60 ∈ List.range 64) ∧
    (nat_lit 60 ≠ 3) ∧
    (nat_lit 61 ∈ List.range 64) ∧
    (nat_lit 61 ≠ 3) ∧
    (nat_lit 62 ∈ List.range 64) ∧
    (nat_lit 62 ≠ 3) ∧
    (nat_lit 63 ∈ List.range 64) ∧
    (nat_lit 63 ≠ 3) := by
  and_intros <;> decide +kernel

def w19_0 : State := wPort { : Port }
def w19_2 : State := wPort { fails := 2, hold := true : Port }
def w19_3 : State := wPort { ls := LState.eq, slow := true, fails := 2, sq := 3 : Port }
def w19_4 : State := wPort { ls := LState.align, fails := 2, sq := 3 : Port }
def w19_5 : State := wPort { ls := LState.config, fails := 2, advIn := true, advOk := true, adv := [(1, 4)], sq := 3 : Port }
def w19_6 : State := wPort upPort
def w19_7 : State := regPut (wPort { ls := LState.eq : Port }) RegName.vglCfg 5 (0 : W64)
def w19_8 : Port := { upPort with slow := true, fails := 2, hold := true, cred := [(1, 1)], held := [{ sq := 4, flit := txFlit 1 : Held }], txq := [(2, [txFlit 2])], delay := some (4 : W64) }
def w19_9 : State := regPut (wPort w19_8) RegName.vglDelay 5 (4 : W64)
def w19_10 : Port := { upPort with heard := 0 }
def w19_11 : State := wPort w19_10
def w19_12 : State := (wFlitIn 4095 upPort).2
def w19_13 : State := (wFlitIn 3 upPort).2
def w19_16 : State := (wFlitIn 4000 upPort).2
def w19_24 : State := wReplay 15
def w19_25 : State := wReplay 16
def w19_27 : Port := { upPort with nak := true, any := true, ccnt := [(2, 300)] }
def w19_28 : State := wPort w19_27
def w19_29 : Port := { upPort with held := [{ sq := 4, flit := txFlit 1, replays := 3 : Held }], replay := [4, 5] }
def w19_30 : State := wPort w19_29
def w19_31 : Port := { upPort with cred := [(0, 1)], sq := 4095, txq := [(0, [txFlit 0]), (2, [txFlit 2])], ccnt := [(1, 3)] }
def w19_32 : State := wPort w19_31
def w19_37 : State := wMsg 2 { bytes := msgHeader 6 0 0 0 (5 : W64), whole := true, flits := [(0, 16)] : RxMsg } { : Port }
def w19_38 : State := wMsg 0 (dataMsg (5 : W64)) { : Port }
def w19_39 : State := wMsg 3 pingMsg { ping := some (100 : W64) : Port }
def w19_40 : Port := { upPort with beat := 2500 }
def w19_41 : State := regPut (regPut (wPort w19_40) RegName.vglHbint 5 (327683 : W64)) RegName.vglTsint 5 (1 : W64)
def w19_44 : State := wIngest (0 : W64) (dataMsg (1399 : W64))
def w19_45 : State := wIngest (0 : W64) (dataMsg (999 : W64))
def w19_47 : RxMsg := { dataMsg (1000 : W64) with fate := Fate.place 130 4194368 16, placed := 4 }
def w19_48 : State := wIngest (32 : W64) w19_47
def w19_49 : Port := { upPort with freed := [(0, 1), (2, 48)], ccnt := [(2, 7)] }
def w19_50 : State := wPort w19_49
def w19_51 : State := { wEgress { : Egress } (0 : W64) with tick := 60 }
def w19_52 : State := { wEgress { : Egress } (1 : W64) with tick := 60 }
def w19_53 : State := { wEgress { state := EgState.sending : Egress } (1 : W64) with tick := 60 }
def w19_55 : RxMsg := { dataMsg (1000 : W64) with fate := Fate.place 130 4194368 0, placed := 4 }
def w19_56 : State := wIngest (0 : W64) w19_55
def w19_57 : State := wEgress { : Egress } (0 : W64)
def w19_58 : State := regPut (wEgress { : Egress } (0 : W64)) RegName.vglEgLen 130 (16385 : W64)
def w19_59 : State := wEgress (wFrameOf EgState.reading) (1 : W64)
def w19_60 : State := { wEgress (wFrameOf EgState.reading) (1 : W64) with bays := [] }
def w19_61 : State := wEgress (wFrameOf EgState.sending) (1 : W64)
def w19_62 : State := wEgress { : Egress } (1 : W64)
def w19_63 : State := wPort { ls := LState.config, advIn := true, adv := [(1, 4)] : Port }
def w19_65 : Port := { heldPort with rxAt := 2, rxLost := false }
def w19_66 : State := (wIdle { : FlitHead } w19_65).2
def w19_67 : Port := { heldPort with rxAt := 3 }
def w19_68 : State := (wIdle { : FlitHead } w19_67).2
def w19_69 : State := wRemote (syncIn (0 : Byte) (35 : Byte) false) { delay := some (262144 : W64) : Port }
def w19_73 : State := wRemote (syncIn (0 : Byte) (35 : Byte) true) { delay := some (262144 : W64) : Port }
def w19_74 : State := wRemote (syncIn (1 : Byte) (35 : Byte) false) { : Port }
def w19_75 : Port := { upPort with ls := LState.config, rx := [(2, [mgmtIn' ([(1 : Byte), (1 : Byte), (0 : Byte), (0 : Byte), (5 : Byte), (0 : Byte), (6 : Byte), (1 : Byte), (7 : Byte), (0 : Byte), (8 : Byte), (0 : Byte)] ++ zeroBytes 4)])] }
def w19_76 : State := { wPort w19_75 with tick := 9 }
def w19_77 : State := wMsg 2 (mgmtIn' ([(1 : Byte), (1 : Byte), (0 : Byte), (0 : Byte), (5 : Byte), (0 : Byte), (6 : Byte), (1 : Byte), (7 : Byte), (0 : Byte), (8 : Byte), (0 : Byte)] ++ zeroBytes 4)) { : Port }
def w19_78 : State := wMsg 2 (mgmtIn' ((2 : Byte) :: zeroBytes 15)) { : Port }
theorem witness_portTrainsStepByStep :
    w19_0.live ∧
    (Claims.quiet w19_0) ∧
    ((w19_0.die (5 / 4 : Nat)).doze = false) ∧
    (BitVec.getLsbD (regGet w19_0 RegName.vglCfg 5) 0 = true) ∧
    ((w19_0.port 5).ls = LState.down) ∧
    ((w19_0.port 5).hold = false) ∧
    ((w19_0.port 5).ls ≠ LState.down ∨ (w19_0.port 5).hold = false) ∧
    w19_2.live ∧
    (Claims.quiet w19_2) ∧
    ((w19_2.die (5 / 4 : Nat)).doze = false) ∧
    ((w19_2.port 5).ls = LState.down) ∧
    ((w19_2.port 5).hold = true) ∧
    w19_3.live ∧
    (Claims.quiet w19_3) ∧
    ((w19_3.die (5 / 4 : Nat)).doze = false) ∧
    (BitVec.getLsbD (regGet w19_3 RegName.vglCfg 5) 0 = true) ∧
    ((w19_3.port 5).ls = LState.eq) ∧
    ((w19_3.port 5).ls = LState.eq ∨ (w19_3.port 5).ls = LState.align ∨ (w19_3.port 5).ls = LState.config) ∧
    ((w19_3.port 5).rx = []) ∧
    (w19_3.egresses = []) ∧
    ((w19_3.port 5).ls ≠ LState.down ∨ (w19_3.port 5).hold = false) ∧
    w19_4.live ∧
    (Claims.quiet w19_4) ∧
    ((w19_4.die (5 / 4 : Nat)).doze = false) ∧
    (BitVec.getLsbD (regGet w19_4 RegName.vglCfg 5) 0 = true) ∧
    ((w19_4.port 5).ls = LState.align) ∧
    ((w19_4.port 5).ls = LState.eq ∨ (w19_4.port 5).ls = LState.align ∨ (w19_4.port 5).ls = LState.config) ∧
    ((w19_4.port 5).rx = []) ∧
    (w19_4.egresses = []) ∧
    ((w19_4.port 5).ls ≠ LState.down ∨ (w19_4.port 5).hold = false) ∧
    w19_5.live ∧
    (Claims.quiet w19_5) ∧
    ((w19_5.die (5 / 4 : Nat)).doze = false) ∧
    (BitVec.getLsbD (regGet w19_5 RegName.vglCfg 5) 0 = true) ∧
    ((w19_5.port 5).ls = LState.config) ∧
    ((w19_5.port 5).advIn = true) ∧
    ((w19_5.port 5).advOk = true) ∧
    ((w19_5.port 5).ls = LState.eq ∨ (w19_5.port 5).ls = LState.align ∨ (w19_5.port 5).ls = LState.config) ∧
    ((w19_5.port 5).rx = []) ∧
    (w19_5.egresses = []) ∧
    ((w19_5.port 5).ls ≠ LState.down ∨ (w19_5.port 5).hold = false) ∧
    w19_6.live ∧
    (Claims.quiet w19_6) ∧
    ((w19_6.die (5 / 4 : Nat)).doze = false) ∧
    (BitVec.getLsbD (regGet w19_6 RegName.vglCfg 5) 0 = true) ∧
    ((w19_6.port 5).ls = LState.up) ∧
    ((w19_6.port 5).ls ≠ LState.down ∨ (w19_6.port 5).hold = false) ∧
    w19_7.live ∧
    (Claims.quiet w19_7) ∧
    ((w19_7.die (5 / 4 : Nat)).doze = false) ∧
    (BitVec.getLsbD (regGet w19_7 RegName.vglCfg 5) 0 = false) ∧
    ((w19_7.port 5).ls ≠ LState.down ∨ (w19_7.port 5).hold = false) ∧
    w19_63.live ∧
    (Claims.quiet w19_63) ∧
    ((w19_63.die (5 / 4 : Nat)).doze = false) ∧
    (BitVec.getLsbD (regGet w19_63 RegName.vglCfg 5) 0 = true) ∧
    ((w19_63.port 5).ls = LState.config) ∧
    ((w19_63.port 5).advIn = false ∨ (w19_63.port 5).advOk = false) ∧
    ((w19_63.port 5).ls = LState.eq ∨ (w19_63.port 5).ls = LState.align ∨ (w19_63.port 5).ls = LState.config) ∧
    ((w19_63.port 5).rx = []) ∧
    (w19_63.egresses = []) ∧
    ((w19_63.port 5).ls ≠ LState.down ∨ (w19_63.port 5).hold = false) := by
  and_intros <;> decide +kernel
theorem witness_portReturnsToDown :
    w19_9.live ∧
    (Claims.quiet w19_9) ∧
    ((w19_9.die (5 / 4 : Nat)).doze = false) ∧
    ((w19_9.port 5).ls = LState.up) ∧
    ((w19_9.port 5).rx = []) ∧
    (w19_9.egresses = []) ∧
    (w19_9.serves RegName.vglCfg 5) ∧
    (BitVec.getLsbD (regGet w19_9 RegName.vglCfg 5) 0 = true) ∧
    (w19_9.tick < (w19_9.port 5).heard + 5000) ∧
    w19_11.live ∧
    (Claims.quiet w19_11) ∧
    ((w19_11.die (5 / 4 : Nat)).doze = false) ∧
    ((w19_11.port 5).ls = LState.up) ∧
    ((w19_11.port 5).rx = []) ∧
    (w19_11.egresses = []) ∧
    (w19_11.serves RegName.vglCfg 5) ∧
    (BitVec.getLsbD (regGet w19_11 RegName.vglCfg 5) 0 = true) ∧
    ((w19_11.port 5).heard + 5000 ≤ w19_11.tick) := by
  and_intros <;> decide +kernel
theorem witness_flitIsReceived :
    w19_12.live ∧
    ((w19_12.die (5 / 4 : Nat)).doze = false) ∧
    ((w19_12.port 5).ls = LState.up) ∧
    ((((w19_12.port 5).rxAt == 0 || (w19_12.port 5).rxAt == 2) && false || (w19_12.port 5).rxAt != 0 && (w19_12.port 5).rxLost) = false) ∧
    (crcGood (wFlitIn 4095 upPort).1 = true) ∧
    (headBad (headOf (wFlitIn 4095 upPort).1) = false) ∧
    ((headOf (wFlitIn 4095 upPort).1).kind = 1) ∧
    ((headOf (wFlitIn 4095 upPort).1).ackv = false) ∧
    ((headOf (wFlitIn 4095 upPort).1).ccnt = 0) ∧
    (((headOf (wFlitIn 4095 upPort).1).sq + 4096 - (w19_12.port 5).expect) % 4096 = 0) ∧
    ((headOf (wFlitIn 4095 upPort).1).som = true) ∧
    (tget [] (w19_12.port 5).rx (headOf (wFlitIn 4095 upPort).1).vc = []) ∧
    ((if { bytes := List.take (headOf (wFlitIn 4095 upPort).1).plen (List.drop 8 (wFlitIn 4095 upPort).1), whole := (headOf (wFlitIn 4095 upPort).1).eom, rpl := (headOf (wFlitIn 4095 upPort).1).rpl, arrived := (w19_12.die (5 / 4 : Nat)).ax0 + BitVec.setWidth 64 (4660 : BitVec 17), at_ := w19_12.tick, flits := [(0, (List.take (headOf (wFlitIn 4095 upPort).1).plen (List.drop 8 (wFlitIn 4095 upPort).1)).length)] : RxMsg }.bytes.length < 16 then !(headOf (wFlitIn 4095 upPort).1).eom else if (headOf (wFlitIn 4095 upPort).1).eom = true then { bytes := List.take (headOf (wFlitIn 4095 upPort).1).plen (List.drop 8 (wFlitIn 4095 upPort).1), whole := (headOf (wFlitIn 4095 upPort).1).eom, rpl := (headOf (wFlitIn 4095 upPort).1).rpl, arrived := (w19_12.die (5 / 4 : Nat)).ax0 + BitVec.setWidth 64 (4660 : BitVec 17), at_ := w19_12.tick, flits := [(0, (List.take (headOf (wFlitIn 4095 upPort).1).plen (List.drop 8 (wFlitIn 4095 upPort).1)).length)] : RxMsg }.bytes.length == 16 + mLen { bytes := List.take (headOf (wFlitIn 4095 upPort).1).plen (List.drop 8 (wFlitIn 4095 upPort).1), whole := (headOf (wFlitIn 4095 upPort).1).eom, rpl := (headOf (wFlitIn 4095 upPort).1).rpl, arrived := (w19_12.die (5 / 4 : Nat)).ax0 + BitVec.setWidth 64 (4660 : BitVec 17), at_ := w19_12.tick, flits := [(0, (List.take (headOf (wFlitIn 4095 upPort).1).plen (List.drop 8 (wFlitIn 4095 upPort).1)).length)] : RxMsg }.bytes else decide ({ bytes := List.take (headOf (wFlitIn 4095 upPort).1).plen (List.drop 8 (wFlitIn 4095 upPort).1), whole := (headOf (wFlitIn 4095 upPort).1).eom, rpl := (headOf (wFlitIn 4095 upPort).1).rpl, arrived := (w19_12.die (5 / 4 : Nat)).ax0 + BitVec.setWidth 64 (4660 : BitVec 17), at_ := w19_12.tick, flits := [(0, (List.take (headOf (wFlitIn 4095 upPort).1).plen (List.drop 8 (wFlitIn 4095 upPort).1)).length)] : RxMsg }.bytes.length < 16 + mLen { bytes := List.take (headOf (wFlitIn 4095 upPort).1).plen (List.drop 8 (wFlitIn 4095 upPort).1), whole := (headOf (wFlitIn 4095 upPort).1).eom, rpl := (headOf (wFlitIn 4095 upPort).1).rpl, arrived := (w19_12.die (5 / 4 : Nat)).ax0 + BitVec.setWidth 64 (4660 : BitVec 17), at_ := w19_12.tick, flits := [(0, (List.take (headOf (wFlitIn 4095 upPort).1).plen (List.drop 8 (wFlitIn 4095 upPort).1)).length)] : RxMsg }.bytes)) = false) ∧
    w19_13.live ∧
    ((w19_13.die (5 / 4 : Nat)).doze = false) ∧
    ((w19_13.port 5).ls = LState.up) ∧
    ((((w19_13.port 5).rxAt == 0 || (w19_13.port 5).rxAt == 2) && false || (w19_13.port 5).rxAt != 0 && (w19_13.port 5).rxLost) = false) ∧
    (crcGood (wFlitIn 3 upPort).1 = true) ∧
    (headBad (headOf (wFlitIn 3 upPort).1) = false) ∧
    ((headOf (wFlitIn 3 upPort).1).kind = 1) ∧
    ((headOf (wFlitIn 3 upPort).1).ackv = false) ∧
    ((headOf (wFlitIn 3 upPort).1).ccnt = 0) ∧
    (0 < ((headOf (wFlitIn 3 upPort).1).sq + 4096 - (w19_13.port 5).expect) % 4096) ∧
    w19_16.live ∧
    ((w19_16.die (5 / 4 : Nat)).doze = false) ∧
    ((w19_16.port 5).ls = LState.up) ∧
    ((((w19_16.port 5).rxAt == 0 || (w19_16.port 5).rxAt == 2) && true || (w19_16.port 5).rxAt != 0 && (w19_16.port 5).rxLost) = true ∨ crcGood (wFlitIn 4000 upPort).1 = false) ∧
    w19_6.live ∧
    ((w19_6.die (5 / 4 : Nat)).doze = false) ∧
    ((w19_6.port 5).ls = LState.up) ∧
    ((((w19_6.port 5).rxAt == 0 || (w19_6.port 5).rxAt == 2) && false || (w19_6.port 5).rxAt != 0 && (w19_6.port 5).rxLost) = false) ∧
    (crcGood wFlitGood = true) ∧
    (headBad (headOf wFlitGood) = false) ∧
    ((headOf wFlitGood).kind = 1) ∧
    ((headOf wFlitGood).ackv = false) ∧
    ((headOf wFlitGood).ccnt = 0) ∧
    (((headOf wFlitGood).sq + 4096 - (w19_6.port 5).expect) % 4096 = 0) ∧
    ((headOf wFlitGood).som = true) ∧
    (tget [] (w19_6.port 5).rx (headOf wFlitGood).vc = []) ∧
    ((if { bytes := List.take (headOf wFlitGood).plen (List.drop 8 wFlitGood), whole := (headOf wFlitGood).eom, rpl := (headOf wFlitGood).rpl, arrived := (w19_6.die (5 / 4 : Nat)).ax0 + BitVec.setWidth 64 (4660 : BitVec 17), at_ := w19_6.tick, flits := [(0, (List.take (headOf wFlitGood).plen (List.drop 8 wFlitGood)).length)] : RxMsg }.bytes.length < 16 then !(headOf wFlitGood).eom else if (headOf wFlitGood).eom = true then { bytes := List.take (headOf wFlitGood).plen (List.drop 8 wFlitGood), whole := (headOf wFlitGood).eom, rpl := (headOf wFlitGood).rpl, arrived := (w19_6.die (5 / 4 : Nat)).ax0 + BitVec.setWidth 64 (4660 : BitVec 17), at_ := w19_6.tick, flits := [(0, (List.take (headOf wFlitGood).plen (List.drop 8 wFlitGood)).length)] : RxMsg }.bytes.length == 16 + mLen { bytes := List.take (headOf wFlitGood).plen (List.drop 8 wFlitGood), whole := (headOf wFlitGood).eom, rpl := (headOf wFlitGood).rpl, arrived := (w19_6.die (5 / 4 : Nat)).ax0 + BitVec.setWidth 64 (4660 : BitVec 17), at_ := w19_6.tick, flits := [(0, (List.take (headOf wFlitGood).plen (List.drop 8 wFlitGood)).length)] : RxMsg }.bytes else decide ({ bytes := List.take (headOf wFlitGood).plen (List.drop 8 wFlitGood), whole := (headOf wFlitGood).eom, rpl := (headOf wFlitGood).rpl, arrived := (w19_6.die (5 / 4 : Nat)).ax0 + BitVec.setWidth 64 (4660 : BitVec 17), at_ := w19_6.tick, flits := [(0, (List.take (headOf wFlitGood).plen (List.drop 8 wFlitGood)).length)] : RxMsg }.bytes.length < 16 + mLen { bytes := List.take (headOf wFlitGood).plen (List.drop 8 wFlitGood), whole := (headOf wFlitGood).eom, rpl := (headOf wFlitGood).rpl, arrived := (w19_6.die (5 / 4 : Nat)).ax0 + BitVec.setWidth 64 (4660 : BitVec 17), at_ := w19_6.tick, flits := [(0, (List.take (headOf wFlitGood).plen (List.drop 8 wFlitGood)).length)] : RxMsg }.bytes)) = true) := by
  and_intros <;> decide +kernel
theorem witness_flitsMakeCodewords :
    ((List.map (BitVec.ofNat 8) (List.range 256)).length = 256) ∧
    ({ cw := 5, fill := List.replicate 256 (3 : Byte) : Port }.fill.length ≤ 1024) ∧
    ({ cw := 5, fill := List.replicate 256 (3 : Byte) : Port }.fill.length < 1024) ∧
    ({ cw := 1023, fill := List.replicate 1024 (163 : Byte) : Port }.fill.length ≤ 1024) ∧
    ({ cw := 1023, fill := List.replicate 1024 (163 : Byte) : Port }.fill.length = 1024) := by
  and_intros <;> decide +kernel
theorem witness_replayOfHeldFlits :
    w19_24.live ∧
    ((w19_24.die (5 / 4 : Nat)).doze = false) ∧
    ((w19_24.port 5).ls = LState.up) ∧
    (∀ h ∈ (w19_24.port 5).held, h.replays < 16) ∧
    ((w19_24.port 5).held = [{ sq := 4, flit := txFlit 1, replays := 15 : Held }, { sq := 5, flit := txFlit 0 : Held }]) ∧
    (∀ k ∈ [{ sq := 5, flit := txFlit 0 : Held }], k.replays < 16) ∧
    ({ sq := 4, flit := txFlit 1, replays := 15 : Held }.sq < 4096) ∧
    ((w19_24.port 5).held ≠ []) ∧
    ((w19_24.port 5).moved + 2000 ≤ w19_24.tick) ∧
    w19_25.live ∧
    ((w19_25.die (5 / 4 : Nat)).doze = false) ∧
    ((w19_25.port 5).ls = LState.up) ∧
    ((w19_25.port 5).held = [{ sq := 4, flit := txFlit 1, replays := 16 : Held }, { sq := 5, flit := txFlit 0 : Held }]) ∧
    ({ sq := 4, flit := txFlit 1, replays := 16 : Held }.sq < 4096) ∧
    ((w19_25.port 5).moved + 2000 ≤ w19_25.tick) ∧
    (∃ h ∈ (w19_25.port 5).held, 16 ≤ h.replays) ∧
    w19_6.live ∧
    ((w19_6.die (5 / 4 : Nat)).doze = false) ∧
    ((w19_6.port 5).ls = LState.up) ∧
    (∀ h ∈ (w19_6.port 5).held, h.replays < 16) ∧
    ((w19_6.port 5).held = [] ∨ w19_6.tick < (w19_6.port 5).moved + 2000) := by
  and_intros <;> decide +kernel
theorem witness_flitSlotPriorities :
    w19_28.live ∧
    ((w19_28.die (5 / 4 : Nat)).doze = false) ∧
    ((w19_28.port 5).ls = LState.up) ∧
    ((w19_28.port 5).nak = true) ∧
    w19_30.live ∧
    ((w19_30.die (5 / 4 : Nat)).doze = false) ∧
    ((w19_30.port 5).ls = LState.up) ∧
    ((w19_30.port 5).nak = false) ∧
    ((w19_30.port 5).replay = [4, 5]) ∧
    ((w19_30.port 5).held = [{ sq := 4, flit := txFlit 1, replays := 3 : Held }]) ∧
    w19_32.live ∧
    ((w19_32.die (5 / 4 : Nat)).doze = false) ∧
    ((w19_32.port 5).ls = LState.up) ∧
    ((w19_32.port 5).nak = false) ∧
    ((w19_32.port 5).replay = []) ∧
    ((w19_32.port 5).held.length < 128) ∧
    (∀ u ∈ List.takeWhile (fun x => decide (x ≠ 0)) [3, 2, 0, 1], tget [] (w19_32.port 5).txq u = [] ∨ tget 0 (w19_32.port 5).cred u = 0 ∧ ∀ g ∈ tget [] (w19_32.port 5).txq u, g.mgmt = false) ∧
    (tget [] (w19_32.port 5).txq 0 = [txFlit 0]) ∧
    ((txFlit 0).mgmt = false) ∧
    ((txFlit 0).sync = none) ∧
    (tget 0 (w19_32.port 5).cred 0 ≠ 0) ∧
    w19_6.live ∧
    ((w19_6.die (5 / 4 : Nat)).doze = false) ∧
    ((w19_6.port 5).ls = LState.up) ∧
    ((w19_6.port 5).nak = false) ∧
    ((w19_6.port 5).replay = []) ∧
    (∀ v ∈ [3, 2, 0, 1], tget [] (w19_6.port 5).txq v = []) := by
  and_intros <;> decide +kernel
theorem witness_linkMessages :
    w19_37.live ∧
    ((w19_37.die (5 / 4 : Nat)).doze = false) ∧
    (tget [] (w19_37.port 5).rx 2 = [{ bytes := msgHeader 6 0 0 0 (5 : W64), whole := true, flits := [(0, 16)] : RxMsg }]) ∧
    ({ bytes := msgHeader 6 0 0 0 (5 : W64), whole := true, flits := [(0, 16)] : RxMsg }.bytes.length = 16) ∧
    (msgBad { bytes := msgHeader 6 0 0 0 (5 : W64), whole := true, flits := [(0, 16)] : RxMsg }.bytes 2 = false) ∧
    (mType { bytes := msgHeader 6 0 0 0 (5 : W64), whole := true, flits := [(0, 16)] : RxMsg }.bytes = 6) ∧
    (mLen { bytes := msgHeader 6 0 0 0 (5 : W64), whole := true, flits := [(0, 16)] : RxMsg }.bytes = 0) ∧
    ((w19_37.port 5).ls = LState.up) ∧
    (fld (regGet w19_37 RegName.vglHbint 5) 16 16 = 0 ∨ w19_37.tick < (w19_37.port 5).beat + 500 * fld (regGet w19_37 RegName.vglHbint 5) 16 16) ∧
    w19_38.live ∧
    ((w19_38.die (5 / 4 : Nat)).doze = false) ∧
    (tget [] (w19_38.port 5).rx 0 = [dataMsg (5 : W64)]) ∧
    (16 ≤ (dataMsg (5 : W64)).bytes.length) ∧
    ((dataMsg (5 : W64)).fate = Fate.open) ∧
    ((dataMsg (5 : W64)).whole = true) ∧
    (isFrame (dataMsg (5 : W64)).bytes = true) ∧
    (inMatch w19_38 5 0 (dataMsg (5 : W64)).bytes = none) ∧
    ((w19_38.port 5).ls = LState.up) ∧
    (fld (regGet w19_38 RegName.vglHbint 5) 16 16 = 0 ∨ w19_38.tick < (w19_38.port 5).beat + 500 * fld (regGet w19_38 RegName.vglHbint 5) 16 16) ∧
    w19_39.live ∧
    ((w19_39.die (5 / 4 : Nat)).doze = false) ∧
    (tget [] (w19_39.port 5).rx 3 = [pingMsg]) ∧
    (pingMsg.fate = Fate.open) ∧
    (pingMsg.whole = true) ∧
    (pingMsg.bytes.length = 64) ∧
    (mLen pingMsg.bytes = 48) ∧
    (msgBad pingMsg.bytes 3 = false) ∧
    (mType pingMsg.bytes = 4) ∧
    (pingMsg.bytes.getD 16 (0 : Byte) = (2 : Byte)) ∧
    (pingMsg.rpl = false) ∧
    ((w19_39.port 5).ping = some (bodyWord pingMsg.bytes 24)) ∧
    ((0 : Int) ≤ BitVec.toInt (pingMsg.arrived - bodyWord pingMsg.bytes 24 - (bodyWord pingMsg.bytes 40 - bodyWord pingMsg.bytes 32)) / (2 : Int)) ∧
    ((w19_39.port 5).ls = LState.up) ∧
    (fld (regGet w19_39 RegName.vglHbint 5) 16 16 = 0 ∨ w19_39.tick < (w19_39.port 5).beat + 500 * fld (regGet w19_39 RegName.vglHbint 5) 16 16) ∧
    w19_41.live ∧
    ((w19_41.die (5 / 4 : Nat)).doze = false) ∧
    ((w19_41.port 5).ls = LState.up) ∧
    (fld (regGet w19_41 RegName.vglHbint 5) 0 16 ≠ 0) ∧
    (fld (regGet w19_41 RegName.vglTsint 5) 0 16 ≠ 0) ∧
    (∀ j < 4, BitVec.getLsbD (regGet w19_41 RegName.vglTscfg 5) (6 * j + 5) = false) ∧
    (fld (regGet w19_41 RegName.vglHbint 5) 16 16 ≠ 0) ∧
    ((w19_41.port 5).beat + 500 * fld (regGet w19_41 RegName.vglHbint 5) 16 16 ≤ w19_41.tick) := by
  and_intros <;> decide +kernel
theorem witness_ingestPlacesByStamp :
    w19_44.live ∧
    (bridgeDown w19_44 = false) ∧
    ((tget { : Ingest } w19_44.ingests 130).owed = []) ∧
    (tget [] (w19_44.port (inPort w19_44 130)).rx (inVc w19_44 130) = [dataMsg (1399 : W64)]) ∧
    ((dataMsg (1399 : W64)).fate = Fate.open) ∧
    ((dataMsg (1399 : W64)).whole = true) ∧
    ((dataMsg (1399 : W64)).placed = 0) ∧
    ((dataMsg (1399 : W64)).bytes.length = 16 + mLen (dataMsg (1399 : W64)).bytes) ∧
    (isFrame (dataMsg (1399 : W64)).bytes = true) ∧
    (msgBad (dataMsg (1399 : W64)).bytes (inVc w19_44 130) = false) ∧
    (inMatch w19_44 (inPort w19_44 130) (inVc w19_44 130) (dataMsg (1399 : W64)).bytes = some 130) ∧
    ((0 : Int) ≤ (BitVec.toInt (mStamp (dataMsg (1399 : W64)).bytes - regGet w19_44 RegName.vglInOrigin 130)).fdiv (BitVec.toInt (regGet w19_44 RegName.vglInPitch 130))) ∧
    ((BitVec.toInt (mStamp (dataMsg (1399 : W64)).bytes - regGet w19_44 RegName.vglInOrigin 130)).fdiv (BitVec.toInt (regGet w19_44 RegName.vglInPitch 130)) < ↑(BitVec.toNat (regGet w19_44 RegName.vglInNslot 130))) ∧
    (mLen (dataMsg (1399 : W64)).bytes ≤ BitVec.toNat (regGet w19_44 RegName.vglInSlotsz 130)) ∧
    (BitVec.getLsbD (regGet w19_44 RegName.vglInCfg 130) 5 = false) ∧
    ((tget { : Ingest } w19_44.ingests 130).last ≠ some ((BitVec.toInt (mStamp (dataMsg (1399 : W64)).bytes - regGet w19_44 RegName.vglInOrigin 130)).fdiv (BitVec.toInt (regGet w19_44 RegName.vglInPitch 130)))) ∧
    ((w19_44.die (0 / 4 : Nat)).doze = false) ∧
    (tget 0 (w19_44.port 0).freed 0 = 0) ∧
    w19_45.live ∧
    (bridgeDown w19_45 = false) ∧
    ((tget { : Ingest } w19_45.ingests 130).owed = []) ∧
    (tget [] (w19_45.port (inPort w19_45 130)).rx (inVc w19_45 130) = [dataMsg (999 : W64)]) ∧
    ((dataMsg (999 : W64)).fate = Fate.open) ∧
    ((dataMsg (999 : W64)).whole = true) ∧
    ((dataMsg (999 : W64)).placed = 0) ∧
    ((dataMsg (999 : W64)).bytes.length = 16 + mLen (dataMsg (999 : W64)).bytes) ∧
    (isFrame (dataMsg (999 : W64)).bytes = true) ∧
    (msgBad (dataMsg (999 : W64)).bytes (inVc w19_45 130) = false) ∧
    (inMatch w19_45 (inPort w19_45 130) (inVc w19_45 130) (dataMsg (999 : W64)).bytes = some 130) ∧
    ((BitVec.toInt (mStamp (dataMsg (999 : W64)).bytes - regGet w19_45 RegName.vglInOrigin 130)).fdiv (BitVec.toInt (regGet w19_45 RegName.vglInPitch 130)) < (0 : Int) ∨ ↑(BitVec.toNat (regGet w19_45 RegName.vglInNslot 130)) ≤ (BitVec.toInt (mStamp (dataMsg (999 : W64)).bytes - regGet w19_45 RegName.vglInOrigin 130)).fdiv (BitVec.toInt (regGet w19_45 RegName.vglInPitch 130))) ∧
    (BitVec.getLsbD (regGet w19_45 RegName.vglInCfg 130) 6 = false) ∧
    ((w19_45.die (0 / 4 : Nat)).doze = false) ∧
    (tget 0 (w19_45.port 0).freed 0 = 0) ∧
    w19_48.live ∧
    (bridgeDown w19_48 = false) ∧
    ((tget { : Ingest } w19_48.ingests 130).owed = []) ∧
    (tget [] (w19_48.port (inPort w19_48 130)).rx (inVc w19_48 130) = [w19_47]) ∧
    (16 ≤ w19_47.bytes.length) ∧
    (w19_47.fate = Fate.place 130 4194368 16) ∧
    (w19_47.whole = true) ∧
    (w19_47.placed = mLen w19_47.bytes) ∧
    ((w19_48.die (0 / 4 : Nat)).doze = false) ∧
    (tget 0 (w19_48.port 0).freed 0 = 0) ∧
    w19_50.live ∧
    (bridgeDown w19_50 = false) ∧
    ((tget { : Ingest } w19_50.ingests 130).owed = []) ∧
    ((w19_50.die (0 / 4 : Nat)).doze = false) ∧
    (tget 0 (w19_50.port 0).freed 0 = 0) ∧
    ((w19_50.die (5 / 4 : Nat)).doze = false) ∧
    (0 < tget 0 (w19_50.port 5).freed 0) := by
  and_intros <;> decide +kernel
theorem witness_egressSendsAFrame :
    w19_51.live ∧
    ((dueActions w19_51 3 ActKind.egress fun a => fld a.word 16 8) = [egAct]) ∧
    (BitVec.getLsbD (regGet w19_51 RegName.vglEgStat (fld egAct.word 16 8)) 0 = false) ∧
    w19_52.live ∧
    ((dueActions w19_52 3 ActKind.egress fun a => fld a.word 16 8) = [egAct]) ∧
    (BitVec.getLsbD (regGet w19_52 RegName.vglEgStat (fld egAct.word 16 8)) 0 = true) ∧
    ((w19_52.port (fld (regGet w19_52 RegName.vglEgCfg (fld egAct.word 16 8)) 0 3)).ls = LState.up) ∧
    ((w19_52.egress (fld egAct.word 16 8)).state = EgState.free) ∧
    w19_53.live ∧
    ((dueActions w19_53 3 ActKind.egress fun a => fld a.word 16 8) = [egAct]) ∧
    (BitVec.getLsbD (regGet w19_53 RegName.vglEgStat (fld egAct.word 16 8)) 0 = true) ∧
    ((w19_53.egress (fld egAct.word 16 8)).state ≠ EgState.free ∨ (w19_53.port (fld (regGet w19_53 RegName.vglEgCfg (fld egAct.word 16 8)) 0 3)).ls ≠ LState.up) := by
  and_intros <;> decide +kernel
theorem witness_channelsEnableAndDisable :
    w19_56.live ∧
    (w19_56.otp.lcs < 3) ∧
    ((tget { : Ingest } w19_56.ingests 130).owed = []) ∧
    (w19_56.serves RegName.vglInCtrl 130) ∧
    (inPort w19_56 130 / 4 = (130 / 128 : Nat) ∧ inVc w19_56 130 ≠ 3 ∧ 1 ≤ BitVec.toNat (regGet w19_56 RegName.vglInNslot 130) ∧ BitVec.toNat (regGet w19_56 RegName.vglInNslot 130) ≤ 2 ^ 24 ∧ BitVec.toNat (regGet w19_56 RegName.vglInBase 130) % 64 = 0 ∧ (1 : Int) ≤ BitVec.toInt (regGet w19_56 RegName.vglInPitch 130) ∧ BitVec.toNat (regGet w19_56 RegName.vglInSlotsz 130) % 64 = 0 ∧ 64 ≤ BitVec.toNat (regGet w19_56 RegName.vglInSlotsz 130) ∧ BitVec.toNat (regGet w19_56 RegName.vglInSlotsz 130) ≤ 2 ^ 22 ∧ BitVec.toNat (regGet w19_56 RegName.vglInBase 130) + BitVec.toNat (regGet w19_56 RegName.vglInNslot 130) * BitVec.toNat (regGet w19_56 RegName.vglInSlotsz 130) ≤ 268435456 ∧ ∀ d < 256, d ≠ 130 → BitVec.getLsbD (regGet w19_56 RegName.vglInStat d) 0 = true → inPort w19_56 d = inPort w19_56 130 → inSid w19_56 d = inSid w19_56 130 → inVc w19_56 d ≠ inVc w19_56 130) ∧
    (inHand w19_56 130 = [w19_55]) ∧
    (w19_55.fate ≠ Fate.open ∨ (0 : Int) ≤ (BitVec.toInt (mStamp w19_55.bytes - regGet w19_56 RegName.vglInOrigin 130)).fdiv (BitVec.toInt (regGet w19_56 RegName.vglInPitch 130)) ∧ (BitVec.toInt (mStamp w19_55.bytes - regGet w19_56 RegName.vglInOrigin 130)).fdiv (BitVec.toInt (regGet w19_56 RegName.vglInPitch 130)) < ↑(BitVec.toNat (regGet w19_56 RegName.vglInNslot 130)) ∧ (mLen w19_55.bytes + if BitVec.getLsbD (regGet w19_56 RegName.vglInCfg 130) 5 = true then 16 else 0) ≤ BitVec.toNat (regGet w19_56 RegName.vglInSlotsz 130)) ∧
    (w19_56.serves RegName.vglEgCtrl 130) ∧
    (¬(fld (regGet w19_56 RegName.vglEgCfg 130) 0 3 / 4 = (130 / 128 : Nat) ∧ (fld (regGet w19_56 RegName.vglEgCfg 130) 3 2 = 0 ∨ fld (regGet w19_56 RegName.vglEgCfg 130) 3 2 = 2) ∧ BitVec.toNat (regGet w19_56 RegName.vglEgLen 130) ≤ 16384 ∧ BitVec.toNat (regGet w19_56 RegName.vglEgSrc 130) % 8 = 0 ∧ (BitVec.toNat (regGet w19_56 RegName.vglEgLen 130) = 0 ∨ BitVec.toNat (regGet w19_56 RegName.vglEgSrc 130) + BitVec.toNat (regGet w19_56 RegName.vglEgLen 130) ≤ 268435456))) ∧
    w19_57.live ∧
    (w19_57.otp.lcs < 3) ∧
    ((tget { : Ingest } w19_57.ingests 130).owed = []) ∧
    (w19_57.serves RegName.vglInCtrl 130) ∧
    (¬(inPort w19_57 130 / 4 = (130 / 128 : Nat) ∧ inVc w19_57 130 ≠ 3 ∧ 1 ≤ BitVec.toNat (regGet w19_57 RegName.vglInNslot 130) ∧ BitVec.toNat (regGet w19_57 RegName.vglInNslot 130) ≤ 2 ^ 24 ∧ BitVec.toNat (regGet w19_57 RegName.vglInBase 130) % 64 = 0 ∧ (1 : Int) ≤ BitVec.toInt (regGet w19_57 RegName.vglInPitch 130) ∧ BitVec.toNat (regGet w19_57 RegName.vglInSlotsz 130) % 64 = 0 ∧ 64 ≤ BitVec.toNat (regGet w19_57 RegName.vglInSlotsz 130) ∧ BitVec.toNat (regGet w19_57 RegName.vglInSlotsz 130) ≤ 2 ^ 22 ∧ BitVec.toNat (regGet w19_57 RegName.vglInBase 130) + BitVec.toNat (regGet w19_57 RegName.vglInNslot 130) * BitVec.toNat (regGet w19_57 RegName.vglInSlotsz 130) ≤ 268435456 ∧ ∀ d < 256, d ≠ 130 → BitVec.getLsbD (regGet w19_57 RegName.vglInStat d) 0 = true → inPort w19_57 d = inPort w19_57 130 → inSid w19_57 d = inSid w19_57 130 → inVc w19_57 d ≠ inVc w19_57 130)) ∧
    (inBusy w19_57 130 = false) ∧
    (w19_57.serves RegName.vglEgCtrl 130) ∧
    (fld (regGet w19_57 RegName.vglEgCfg 130) 0 3 / 4 = (130 / 128 : Nat) ∧ (fld (regGet w19_57 RegName.vglEgCfg 130) 3 2 = 0 ∨ fld (regGet w19_57 RegName.vglEgCfg 130) 3 2 = 2) ∧ BitVec.toNat (regGet w19_57 RegName.vglEgLen 130) ≤ 16384 ∧ BitVec.toNat (regGet w19_57 RegName.vglEgSrc 130) % 8 = 0 ∧ (BitVec.toNat (regGet w19_57 RegName.vglEgLen 130) = 0 ∨ BitVec.toNat (regGet w19_57 RegName.vglEgSrc 130) + BitVec.toNat (regGet w19_57 RegName.vglEgLen 130) ≤ 268435456)) ∧
    w19_58.live ∧
    (w19_58.otp.lcs < 3) ∧
    ((tget { : Ingest } w19_58.ingests 130).owed = []) ∧
    (w19_58.serves RegName.vglInCtrl 130) ∧
    (¬(inPort w19_58 130 / 4 = (130 / 128 : Nat) ∧ inVc w19_58 130 ≠ 3 ∧ 1 ≤ BitVec.toNat (regGet w19_58 RegName.vglInNslot 130) ∧ BitVec.toNat (regGet w19_58 RegName.vglInNslot 130) ≤ 2 ^ 24 ∧ BitVec.toNat (regGet w19_58 RegName.vglInBase 130) % 64 = 0 ∧ (1 : Int) ≤ BitVec.toInt (regGet w19_58 RegName.vglInPitch 130) ∧ BitVec.toNat (regGet w19_58 RegName.vglInSlotsz 130) % 64 = 0 ∧ 64 ≤ BitVec.toNat (regGet w19_58 RegName.vglInSlotsz 130) ∧ BitVec.toNat (regGet w19_58 RegName.vglInSlotsz 130) ≤ 2 ^ 22 ∧ BitVec.toNat (regGet w19_58 RegName.vglInBase 130) + BitVec.toNat (regGet w19_58 RegName.vglInNslot 130) * BitVec.toNat (regGet w19_58 RegName.vglInSlotsz 130) ≤ 268435456 ∧ ∀ d < 256, d ≠ 130 → BitVec.getLsbD (regGet w19_58 RegName.vglInStat d) 0 = true → inPort w19_58 d = inPort w19_58 130 → inSid w19_58 d = inSid w19_58 130 → inVc w19_58 d ≠ inVc w19_58 130)) ∧
    (inBusy w19_58 130 = false) ∧
    (w19_58.serves RegName.vglEgCtrl 130) ∧
    (¬(fld (regGet w19_58 RegName.vglEgCfg 130) 0 3 / 4 = (130 / 128 : Nat) ∧ (fld (regGet w19_58 RegName.vglEgCfg 130) 3 2 = 0 ∨ fld (regGet w19_58 RegName.vglEgCfg 130) 3 2 = 2) ∧ BitVec.toNat (regGet w19_58 RegName.vglEgLen 130) ≤ 16384 ∧ BitVec.toNat (regGet w19_58 RegName.vglEgSrc 130) % 8 = 0 ∧ (BitVec.toNat (regGet w19_58 RegName.vglEgLen 130) = 0 ∨ BitVec.toNat (regGet w19_58 RegName.vglEgSrc 130) + BitVec.toNat (regGet w19_58 RegName.vglEgLen 130) ≤ 268435456))) := by
  and_intros <;> first | decide +kernel | exact fun h => absurd h.1 (by decide +kernel)
theorem witness_egressFrameIsQueuedAndSent :
    w19_59.live ∧
    (bridgeDown w19_59 = false) ∧
    ((w19_59.egress 130).owed = []) ∧
    ((w19_59.egress 130).state = EgState.reading) ∧
    ((w19_59.egress 130).got = []) ∧
    ((w19_59.egress 130).bad = false) ∧
    ((w19_59.egress 130).lost = false) ∧
    ((readSpan w19_59 { master := 12 + (130 / 128 : Nat), level := 0 : Agent } (w19_59.egress 130).src (w19_59.egress 130).len Check.clean).2.2.length = (w19_59.egress 130).len) ∧
    (((readSpan w19_59 { master := 12 + (130 / 128 : Nat), level := 0 : Agent } (w19_59.egress 130).src (w19_59.egress 130).len Check.clean).1.port (w19_59.egress 130).port).ls = LState.up) ∧
    ((readSpan w19_59 { master := 12 + (130 / 128 : Nat), level := 0 : Agent } (w19_59.egress 130).src (w19_59.egress 130).len Check.clean).2.1 = none) ∧
    ((w19_59.egress 130).state ≠ EgState.sending) ∧
    w19_60.live ∧
    (bridgeDown w19_60 = false) ∧
    ((w19_60.egress 130).owed = []) ∧
    ((w19_60.egress 130).state = EgState.reading) ∧
    ((w19_60.egress 130).got = []) ∧
    ((w19_60.egress 130).bad = false) ∧
    ((w19_60.egress 130).lost = false) ∧
    ((readSpan w19_60 { master := 12 + (130 / 128 : Nat), level := 0 : Agent } (w19_60.egress 130).src (w19_60.egress 130).len Check.clean).2.2.length = (w19_60.egress 130).len) ∧
    (((readSpan w19_60 { master := 12 + (130 / 128 : Nat), level := 0 : Agent } (w19_60.egress 130).src (w19_60.egress 130).len Check.clean).1.port (w19_60.egress 130).port).ls = LState.up) ∧
    ((readSpan w19_60 { master := 12 + (130 / 128 : Nat), level := 0 : Agent } (w19_60.egress 130).src (w19_60.egress 130).len Check.clean).2.1.isSome = true) ∧
    ((w19_60.egress 130).state ≠ EgState.sending) ∧
    w19_61.live ∧
    (bridgeDown w19_61 = false) ∧
    ((w19_61.egress 130).owed = []) ∧
    ((w19_61.egress 130).state = EgState.sending) ∧
    (∀ q ∈ (w19_61.port (w19_61.egress 130).port).txq, ∀ f ∈ q.2, f.chan ≠ some 130) ∧
    ((w19_61.egress 130).state ≠ EgState.reading) ∧
    w19_62.live ∧
    (bridgeDown w19_62 = false) ∧
    ((w19_62.egress 130).owed = []) ∧
    ((w19_62.egress 130).state ≠ EgState.sending) ∧
    ((w19_62.egress 130).state ≠ EgState.reading) := by
  and_intros <;> decide +kernel
theorem witness_acksAndCreditsArrive :
    w19_66.live ∧
    ((w19_66.die (5 / 4 : Nat)).doze = false) ∧
    ((w19_66.port 5).ls = LState.up) ∧
    ((w19_66.port 5).rxAt = 0 ∨ (w19_66.port 5).rxLost = false) ∧
    (crcGood (wIdle { ack := 77, ackv := true : FlitHead } heldPort).1 = true) ∧
    (headBad (headOf (wIdle { ack := 77, ackv := true : FlitHead } heldPort).1) = false) ∧
    ((headOf (wIdle { ack := 77, ackv := true : FlitHead } heldPort).1).kind = 0) ∧
    ((headOf (wIdle { ack := 77, ackv := true : FlitHead } heldPort).1).ccnt = 0 ∨ tget 0 (w19_66.port 5).cred (headOf (wIdle { ack := 77, ackv := true : FlitHead } heldPort).1).cvc + (headOf (wIdle { ack := 77, ackv := true : FlitHead } heldPort).1).ccnt ≤ tget 0 (w19_66.port 5).adv (headOf (wIdle { ack := 77, ackv := true : FlitHead } heldPort).1).cvc) ∧
    (0 ≠ 5) ∧
    ((headOf (wIdle { ack := 77, ackv := true : FlitHead } heldPort).1).ackv = false ∨ ∀ q ∈ (w19_66.port 5).held, q.sq ≠ (headOf (wIdle { ack := 77, ackv := true : FlitHead } heldPort).1).ack) ∧
    w19_68.live ∧
    ((w19_68.die (5 / 4 : Nat)).doze = false) ∧
    ((w19_68.port 5).ls = LState.up) ∧
    ((w19_68.port 5).rxAt = 0 ∨ (w19_68.port 5).rxLost = false) ∧
    (crcGood (wIdle { ackv := true, cvc := 2, ccnt := 4 : FlitHead } heldPort).1 = true) ∧
    (headBad (headOf (wIdle { ackv := true, cvc := 2, ccnt := 4 : FlitHead } heldPort).1) = false) ∧
    ((headOf (wIdle { ackv := true, cvc := 2, ccnt := 4 : FlitHead } heldPort).1).kind = 0) ∧
    ((headOf (wIdle { ackv := true, cvc := 2, ccnt := 4 : FlitHead } heldPort).1).ccnt = 0 ∨ tget 0 (w19_68.port 5).cred (headOf (wIdle { ackv := true, cvc := 2, ccnt := 4 : FlitHead } heldPort).1).cvc + (headOf (wIdle { ackv := true, cvc := 2, ccnt := 4 : FlitHead } heldPort).1).ccnt ≤ tget 0 (w19_68.port 5).adv (headOf (wIdle { ackv := true, cvc := 2, ccnt := 4 : FlitHead } heldPort).1).cvc) ∧
    (2 < (w19_68.port 5).held.length) ∧
    ((headOf (wIdle { ackv := true, cvc := 2, ccnt := 4 : FlitHead } heldPort).1).ackv = true) ∧
    (∀ q ∈ List.take 2 (w19_68.port 5).held, q.sq ≠ (headOf (wIdle { ackv := true, cvc := 2, ccnt := 4 : FlitHead } heldPort).1).ack) ∧
    ((List.map (fun x => x.sq) (List.drop 2 (w19_68.port 5).held)).head? = some (headOf (wIdle { ackv := true, cvc := 2, ccnt := 4 : FlitHead } heldPort).1).ack) ∧
    (crcGood (wIdle { cvc := 2, ccnt := 5 : FlitHead } heldPort).1 = true) ∧
    (headBad (headOf (wIdle { cvc := 2, ccnt := 5 : FlitHead } heldPort).1) = false) ∧
    ((headOf (wIdle { cvc := 2, ccnt := 5 : FlitHead } heldPort).1).kind = 0) ∧
    ((headOf (wIdle { cvc := 2, ccnt := 5 : FlitHead } heldPort).1).ccnt ≠ 0) ∧
    (tget 0 (w19_68.port 5).adv (headOf (wIdle { cvc := 2, ccnt := 5 : FlitHead } heldPort).1).cvc < tget 0 (w19_68.port 5).cred (headOf (wIdle { cvc := 2, ccnt := 5 : FlitHead } heldPort).1).cvc + (headOf (wIdle { cvc := 2, ccnt := 5 : FlitHead } heldPort).1).ccnt) := by
  and_intros <;> decide +kernel
theorem witness_timeSyncAndManagement :
    w19_69.live ∧
    (Claims.quiet w19_69) ∧
    ((w19_69.die (5 / 4 : Nat)).doze = false) ∧
    ((syncIn (0 : Byte) (35 : Byte) false).fate = Fate.open) ∧
    ((syncIn (0 : Byte) (35 : Byte) false).whole = true) ∧
    (tget [] (w19_69.port 5).rx 3 = [syncIn (0 : Byte) (35 : Byte) false]) ∧
    ((syncIn (0 : Byte) (35 : Byte) false).bytes.length = 64) ∧
    (mLen (syncIn (0 : Byte) (35 : Byte) false).bytes = 48) ∧
    (msgBad (syncIn (0 : Byte) (35 : Byte) false).bytes 3 = false) ∧
    (mType (syncIn (0 : Byte) (35 : Byte) false).bytes = 4) ∧
    ((syncIn (0 : Byte) (35 : Byte) false).bytes.getD (16 + 0) (0 : Byte) = (0 : Byte)) ∧
    ((syncIn (0 : Byte) (35 : Byte) false).rpl = false ∧ BitVec.toNat ((syncIn (0 : Byte) (35 : Byte) false).bytes.getD (16 + 1) (0 : Byte)) / 32 = 1) ∧
    ((w19_69.port 5).delay = some (262144 : W64)) ∧
    (nat_lit 0 ∈ List.range 32) ∧
    (nat_lit 1 ∈ List.range 32) ∧
    (nat_lit 2 ∈ List.range 32) ∧
    (nat_lit 3 ∈ List.range 32) ∧
    (nat_lit 4 ∈ List.range 32) ∧
    (nat_lit 5 ∈ List.range 32) ∧
    (nat_lit 6 ∈ List.range 32) ∧
    (nat_lit 7 ∈ List.range 32) ∧
    (nat_lit 8 ∈ List.range 32) ∧
    (nat_lit 9 ∈ List.range 32) ∧
    (nat_lit 10 ∈ List.range 32) ∧
    (nat_lit 11 ∈ List.range 32) ∧
    (nat_lit 12 ∈ List.range 32) ∧
    (nat_lit 13 ∈ List.range 32) ∧
    (nat_lit 14 ∈ List.range 32) ∧
    (nat_lit 15 ∈ List.range 32) ∧
    (nat_lit 16 ∈ List.range 32) ∧
    (nat_lit 17 ∈ List.range 32) ∧
    (nat_lit 18 ∈ List.range 32) ∧
    (nat_lit 19 ∈ List.range 32) ∧
    (nat_lit 20 ∈ List.range 32) ∧
    (nat_lit 21 ∈ List.range 32) ∧
    (nat_lit 22 ∈ List.range 32) ∧
    (nat_lit 23 ∈ List.range 32) ∧
    (nat_lit 24 ∈ List.range 32) ∧
    (nat_lit 25 ∈ List.range 32) ∧
    (nat_lit 26 ∈ List.range 32) ∧
    (nat_lit 27 ∈ List.range 32) ∧
    (nat_lit 28 ∈ List.range 32) ∧
    (nat_lit 29 ∈ List.range 32) ∧
    (nat_lit 30 ∈ List.range 32) ∧
    (nat_lit 31 ∈ List.range 32) ∧
    w19_73.live ∧
    (Claims.quiet w19_73) ∧
    ((w19_73.die (5 / 4 : Nat)).doze = false) ∧
    ((syncIn (0 : Byte) (35 : Byte) true).fate = Fate.open) ∧
    ((syncIn (0 : Byte) (35 : Byte) true).whole = true) ∧
    (tget [] (w19_73.port 5).rx 3 = [syncIn (0 : Byte) (35 : Byte) true]) ∧
    ((syncIn (0 : Byte) (35 : Byte) true).bytes.length = 64) ∧
    (mLen (syncIn (0 : Byte) (35 : Byte) true).bytes = 48) ∧
    (msgBad (syncIn (0 : Byte) (35 : Byte) true).bytes 3 = false) ∧
    (mType (syncIn (0 : Byte) (35 : Byte) true).bytes = 4) ∧
    ((syncIn (0 : Byte) (35 : Byte) true).bytes.getD (16 + 0) (0 : Byte) = (0 : Byte)) ∧
    (¬((syncIn (0 : Byte) (35 : Byte) true).rpl = false ∧ BitVec.toNat ((syncIn (0 : Byte) (35 : Byte) true).bytes.getD (16 + 1) (0 : Byte)) / 32 = 1) ∨ (w19_73.port 5).delay = none) ∧
    (¬(nat_lit 0 < 32 ∧ axEn w19_73 (nat_lit 0) = true ∧ axMode w19_73 (nat_lit 0) = 7 ∧ nat_lit 0 / 16 = (5 / 4 : Nat) ∧ axPort w19_73 (nat_lit 0) = 5 % 4 ∧ axRaxis w19_73 (nat_lit 0) = BitVec.toNat ((syncIn (0 : Byte) (35 : Byte) true).bytes.getD (16 + 1) (0 : Byte)) % 32)) ∧
    (¬(nat_lit 1 < 32 ∧ axEn w19_73 (nat_lit 1) = true ∧ axMode w19_73 (nat_lit 1) = 7 ∧ nat_lit 1 / 16 = (5 / 4 : Nat) ∧ axPort w19_73 (nat_lit 1) = 5 % 4 ∧ axRaxis w19_73 (nat_lit 1) = BitVec.toNat ((syncIn (0 : Byte) (35 : Byte) true).bytes.getD (16 + 1) (0 : Byte)) % 32)) ∧
    (¬(nat_lit 2 < 32 ∧ axEn w19_73 (nat_lit 2) = true ∧ axMode w19_73 (nat_lit 2) = 7 ∧ nat_lit 2 / 16 = (5 / 4 : Nat) ∧ axPort w19_73 (nat_lit 2) = 5 % 4 ∧ axRaxis w19_73 (nat_lit 2) = BitVec.toNat ((syncIn (0 : Byte) (35 : Byte) true).bytes.getD (16 + 1) (0 : Byte)) % 32)) ∧
    (¬(nat_lit 3 < 32 ∧ axEn w19_73 (nat_lit 3) = true ∧ axMode w19_73 (nat_lit 3) = 7 ∧ nat_lit 3 / 16 = (5 / 4 : Nat) ∧ axPort w19_73 (nat_lit 3) = 5 % 4 ∧ axRaxis w19_73 (nat_lit 3) = BitVec.toNat ((syncIn (0 : Byte) (35 : Byte) true).bytes.getD (16 + 1) (0 : Byte)) % 32)) ∧
    (¬(nat_lit 4 < 32 ∧ axEn w19_73 (nat_lit 4) = true ∧ axMode w19_73 (nat_lit 4) = 7 ∧ nat_lit 4 / 16 = (5 / 4 : Nat) ∧ axPort w19_73 (nat_lit 4) = 5 % 4 ∧ axRaxis w19_73 (nat_lit 4) = BitVec.toNat ((syncIn (0 : Byte) (35 : Byte) true).bytes.getD (16 + 1) (0 : Byte)) % 32)) ∧
    (¬(nat_lit 5 < 32 ∧ axEn w19_73 (nat_lit 5) = true ∧ axMode w19_73 (nat_lit 5) = 7 ∧ nat_lit 5 / 16 = (5 / 4 : Nat) ∧ axPort w19_73 (nat_lit 5) = 5 % 4 ∧ axRaxis w19_73 (nat_lit 5) = BitVec.toNat ((syncIn (0 : Byte) (35 : Byte) true).bytes.getD (16 + 1) (0 : Byte)) % 32)) ∧
    (¬(nat_lit 6 < 32 ∧ axEn w19_73 (nat_lit 6) = true ∧ axMode w19_73 (nat_lit 6) = 7 ∧ nat_lit 6 / 16 = (5 / 4 : Nat) ∧ axPort w19_73 (nat_lit 6) = 5 % 4 ∧ axRaxis w19_73 (nat_lit 6) = BitVec.toNat ((syncIn (0 : Byte) (35 : Byte) true).bytes.getD (16 + 1) (0 : Byte)) % 32)) ∧
    (¬(nat_lit 7 < 32 ∧ axEn w19_73 (nat_lit 7) = true ∧ axMode w19_73 (nat_lit 7) = 7 ∧ nat_lit 7 / 16 = (5 / 4 : Nat) ∧ axPort w19_73 (nat_lit 7) = 5 % 4 ∧ axRaxis w19_73 (nat_lit 7) = BitVec.toNat ((syncIn (0 : Byte) (35 : Byte) true).bytes.getD (16 + 1) (0 : Byte)) % 32)) ∧
    (¬(nat_lit 8 < 32 ∧ axEn w19_73 (nat_lit 8) = true ∧ axMode w19_73 (nat_lit 8) = 7 ∧ nat_lit 8 / 16 = (5 / 4 : Nat) ∧ axPort w19_73 (nat_lit 8) = 5 % 4 ∧ axRaxis w19_73 (nat_lit 8) = BitVec.toNat ((syncIn (0 : Byte) (35 : Byte) true).bytes.getD (16 + 1) (0 : Byte)) % 32)) ∧
    (¬(nat_lit 9 < 32 ∧ axEn w19_73 (nat_lit 9) = true ∧ axMode w19_73 (nat_lit 9) = 7 ∧ nat_lit 9 / 16 = (5 / 4 : Nat) ∧ axPort w19_73 (nat_lit 9) = 5 % 4 ∧ axRaxis w19_73 (nat_lit 9) = BitVec.toNat ((syncIn (0 : Byte) (35 : Byte) true).bytes.getD (16 + 1) (0 : Byte)) % 32)) ∧
    (¬(nat_lit 10 < 32 ∧ axEn w19_73 (nat_lit 10) = true ∧ axMode w19_73 (nat_lit 10) = 7 ∧ nat_lit 10 / 16 = (5 / 4 : Nat) ∧ axPort w19_73 (nat_lit 10) = 5 % 4 ∧ axRaxis w19_73 (nat_lit 10) = BitVec.toNat ((syncIn (0 : Byte) (35 : Byte) true).bytes.getD (16 + 1) (0 : Byte)) % 32)) ∧
    (¬(nat_lit 11 < 32 ∧ axEn w19_73 (nat_lit 11) = true ∧ axMode w19_73 (nat_lit 11) = 7 ∧ nat_lit 11 / 16 = (5 / 4 : Nat) ∧ axPort w19_73 (nat_lit 11) = 5 % 4 ∧ axRaxis w19_73 (nat_lit 11) = BitVec.toNat ((syncIn (0 : Byte) (35 : Byte) true).bytes.getD (16 + 1) (0 : Byte)) % 32)) ∧
    (¬(nat_lit 12 < 32 ∧ axEn w19_73 (nat_lit 12) = true ∧ axMode w19_73 (nat_lit 12) = 7 ∧ nat_lit 12 / 16 = (5 / 4 : Nat) ∧ axPort w19_73 (nat_lit 12) = 5 % 4 ∧ axRaxis w19_73 (nat_lit 12) = BitVec.toNat ((syncIn (0 : Byte) (35 : Byte) true).bytes.getD (16 + 1) (0 : Byte)) % 32)) ∧
    (¬(nat_lit 13 < 32 ∧ axEn w19_73 (nat_lit 13) = true ∧ axMode w19_73 (nat_lit 13) = 7 ∧ nat_lit 13 / 16 = (5 / 4 : Nat) ∧ axPort w19_73 (nat_lit 13) = 5 % 4 ∧ axRaxis w19_73 (nat_lit 13) = BitVec.toNat ((syncIn (0 : Byte) (35 : Byte) true).bytes.getD (16 + 1) (0 : Byte)) % 32)) ∧
    (¬(nat_lit 14 < 32 ∧ axEn w19_73 (nat_lit 14) = true ∧ axMode w19_73 (nat_lit 14) = 7 ∧ nat_lit 14 / 16 = (5 / 4 : Nat) ∧ axPort w19_73 (nat_lit 14) = 5 % 4 ∧ axRaxis w19_73 (nat_lit 14) = BitVec.toNat ((syncIn (0 : Byte) (35 : Byte) true).bytes.getD (16 + 1) (0 : Byte)) % 32)) ∧
    (¬(nat_lit 15 < 32 ∧ axEn w19_73 (nat_lit 15) = true ∧ axMode w19_73 (nat_lit 15) = 7 ∧ nat_lit 15 / 16 = (5 / 4 : Nat) ∧ axPort w19_73 (nat_lit 15) = 5 % 4 ∧ axRaxis w19_73 (nat_lit 15) = BitVec.toNat ((syncIn (0 : Byte) (35 : Byte) true).bytes.getD (16 + 1) (0 : Byte)) % 32)) ∧
    (¬(nat_lit 16 < 32 ∧ axEn w19_73 (nat_lit 16) = true ∧ axMode w19_73 (nat_lit 16) = 7 ∧ nat_lit 16 / 16 = (5 / 4 : Nat) ∧ axPort w19_73 (nat_lit 16) = 5 % 4 ∧ axRaxis w19_73 (nat_lit 16) = BitVec.toNat ((syncIn (0 : Byte) (35 : Byte) true).bytes.getD (16 + 1) (0 : Byte)) % 32)) ∧
    (nat_lit 17 < 32 ∧ axEn w19_73 (nat_lit 17) = true ∧ axMode w19_73 (nat_lit 17) = 7 ∧ nat_lit 17 / 16 = (5 / 4 : Nat) ∧ axPort w19_73 (nat_lit 17) = 5 % 4 ∧ axRaxis w19_73 (nat_lit 17) = BitVec.toNat ((syncIn (0 : Byte) (35 : Byte) true).bytes.getD (16 + 1) (0 : Byte)) % 32) ∧
    (¬(nat_lit 18 < 32 ∧ axEn w19_73 (nat_lit 18) = true ∧ axMode w19_73 (nat_lit 18) = 7 ∧ nat_lit 18 / 16 = (5 / 4 : Nat) ∧ axPort w19_73 (nat_lit 18) = 5 % 4 ∧ axRaxis w19_73 (nat_lit 18) = BitVec.toNat ((syncIn (0 : Byte) (35 : Byte) true).bytes.getD (16 + 1) (0 : Byte)) % 32)) ∧
    (¬(nat_lit 19 < 32 ∧ axEn w19_73 (nat_lit 19) = true ∧ axMode w19_73 (nat_lit 19) = 7 ∧ nat_lit 19 / 16 = (5 / 4 : Nat) ∧ axPort w19_73 (nat_lit 19) = 5 % 4 ∧ axRaxis w19_73 (nat_lit 19) = BitVec.toNat ((syncIn (0 : Byte) (35 : Byte) true).bytes.getD (16 + 1) (0 : Byte)) % 32)) ∧
    (¬(nat_lit 20 < 32 ∧ axEn w19_73 (nat_lit 20) = true ∧ axMode w19_73 (nat_lit 20) = 7 ∧ nat_lit 20 / 16 = (5 / 4 : Nat) ∧ axPort w19_73 (nat_lit 20) = 5 % 4 ∧ axRaxis w19_73 (nat_lit 20) = BitVec.toNat ((syncIn (0 : Byte) (35 : Byte) true).bytes.getD (16 + 1) (0 : Byte)) % 32)) ∧
    (¬(nat_lit 21 < 32 ∧ axEn w19_73 (nat_lit 21) = true ∧ axMode w19_73 (nat_lit 21) = 7 ∧ nat_lit 21 / 16 = (5 / 4 : Nat) ∧ axPort w19_73 (nat_lit 21) = 5 % 4 ∧ axRaxis w19_73 (nat_lit 21) = BitVec.toNat ((syncIn (0 : Byte) (35 : Byte) true).bytes.getD (16 + 1) (0 : Byte)) % 32)) ∧
    (¬(nat_lit 22 < 32 ∧ axEn w19_73 (nat_lit 22) = true ∧ axMode w19_73 (nat_lit 22) = 7 ∧ nat_lit 22 / 16 = (5 / 4 : Nat) ∧ axPort w19_73 (nat_lit 22) = 5 % 4 ∧ axRaxis w19_73 (nat_lit 22) = BitVec.toNat ((syncIn (0 : Byte) (35 : Byte) true).bytes.getD (16 + 1) (0 : Byte)) % 32)) ∧
    (¬(nat_lit 23 < 32 ∧ axEn w19_73 (nat_lit 23) = true ∧ axMode w19_73 (nat_lit 23) = 7 ∧ nat_lit 23 / 16 = (5 / 4 : Nat) ∧ axPort w19_73 (nat_lit 23) = 5 % 4 ∧ axRaxis w19_73 (nat_lit 23) = BitVec.toNat ((syncIn (0 : Byte) (35 : Byte) true).bytes.getD (16 + 1) (0 : Byte)) % 32)) ∧
    (¬(nat_lit 24 < 32 ∧ axEn w19_73 (nat_lit 24) = true ∧ axMode w19_73 (nat_lit 24) = 7 ∧ nat_lit 24 / 16 = (5 / 4 : Nat) ∧ axPort w19_73 (nat_lit 24) = 5 % 4 ∧ axRaxis w19_73 (nat_lit 24) = BitVec.toNat ((syncIn (0 : Byte) (35 : Byte) true).bytes.getD (16 + 1) (0 : Byte)) % 32)) ∧
    (¬(nat_lit 25 < 32 ∧ axEn w19_73 (nat_lit 25) = true ∧ axMode w19_73 (nat_lit 25) = 7 ∧ nat_lit 25 / 16 = (5 / 4 : Nat) ∧ axPort w19_73 (nat_lit 25) = 5 % 4 ∧ axRaxis w19_73 (nat_lit 25) = BitVec.toNat ((syncIn (0 : Byte) (35 : Byte) true).bytes.getD (16 + 1) (0 : Byte)) % 32)) ∧
    (¬(nat_lit 26 < 32 ∧ axEn w19_73 (nat_lit 26) = true ∧ axMode w19_73 (nat_lit 26) = 7 ∧ nat_lit 26 / 16 = (5 / 4 : Nat) ∧ axPort w19_73 (nat_lit 26) = 5 % 4 ∧ axRaxis w19_73 (nat_lit 26) = BitVec.toNat ((syncIn (0 : Byte) (35 : Byte) true).bytes.getD (16 + 1) (0 : Byte)) % 32)) ∧
    (¬(nat_lit 27 < 32 ∧ axEn w19_73 (nat_lit 27) = true ∧ axMode w19_73 (nat_lit 27) = 7 ∧ nat_lit 27 / 16 = (5 / 4 : Nat) ∧ axPort w19_73 (nat_lit 27) = 5 % 4 ∧ axRaxis w19_73 (nat_lit 27) = BitVec.toNat ((syncIn (0 : Byte) (35 : Byte) true).bytes.getD (16 + 1) (0 : Byte)) % 32)) ∧
    (¬(nat_lit 28 < 32 ∧ axEn w19_73 (nat_lit 28) = true ∧ axMode w19_73 (nat_lit 28) = 7 ∧ nat_lit 28 / 16 = (5 / 4 : Nat) ∧ axPort w19_73 (nat_lit 28) = 5 % 4 ∧ axRaxis w19_73 (nat_lit 28) = BitVec.toNat ((syncIn (0 : Byte) (35 : Byte) true).bytes.getD (16 + 1) (0 : Byte)) % 32)) ∧
    (¬(nat_lit 29 < 32 ∧ axEn w19_73 (nat_lit 29) = true ∧ axMode w19_73 (nat_lit 29) = 7 ∧ nat_lit 29 / 16 = (5 / 4 : Nat) ∧ axPort w19_73 (nat_lit 29) = 5 % 4 ∧ axRaxis w19_73 (nat_lit 29) = BitVec.toNat ((syncIn (0 : Byte) (35 : Byte) true).bytes.getD (16 + 1) (0 : Byte)) % 32)) ∧
    (¬(nat_lit 30 < 32 ∧ axEn w19_73 (nat_lit 30) = true ∧ axMode w19_73 (nat_lit 30) = 7 ∧ nat_lit 30 / 16 = (5 / 4 : Nat) ∧ axPort w19_73 (nat_lit 30) = 5 % 4 ∧ axRaxis w19_73 (nat_lit 30) = BitVec.toNat ((syncIn (0 : Byte) (35 : Byte) true).bytes.getD (16 + 1) (0 : Byte)) % 32)) ∧
    (¬(nat_lit 31 < 32 ∧ axEn w19_73 (nat_lit 31) = true ∧ axMode w19_73 (nat_lit 31) = 7 ∧ nat_lit 31 / 16 = (5 / 4 : Nat) ∧ axPort w19_73 (nat_lit 31) = 5 % 4 ∧ axRaxis w19_73 (nat_lit 31) = BitVec.toNat ((syncIn (0 : Byte) (35 : Byte) true).bytes.getD (16 + 1) (0 : Byte)) % 32)) ∧
    w19_74.live ∧
    (Claims.quiet w19_74) ∧
    ((w19_74.die (5 / 4 : Nat)).doze = false) ∧
    ((syncIn (1 : Byte) (35 : Byte) false).fate = Fate.open) ∧
    ((syncIn (1 : Byte) (35 : Byte) false).whole = true) ∧
    (tget [] (w19_74.port 5).rx 3 = [syncIn (1 : Byte) (35 : Byte) false]) ∧
    ((syncIn (1 : Byte) (35 : Byte) false).bytes.length = 64) ∧
    (mLen (syncIn (1 : Byte) (35 : Byte) false).bytes = 48) ∧
    (msgBad (syncIn (1 : Byte) (35 : Byte) false).bytes 3 = false) ∧
    (mType (syncIn (1 : Byte) (35 : Byte) false).bytes = 4) ∧
    ((syncIn (1 : Byte) (35 : Byte) false).bytes.getD (16 + 0) (0 : Byte) = (1 : Byte)) ∧
    ((syncIn (1 : Byte) (35 : Byte) false).rpl = false) ∧
    w19_76.live ∧
    (Claims.quiet w19_76) ∧
    ((w19_76.die (5 / 4 : Nat)).doze = false) ∧
    ((mgmtIn' ([(1 : Byte), (1 : Byte), (0 : Byte), (0 : Byte), (5 : Byte), (0 : Byte), (6 : Byte), (1 : Byte), (7 : Byte), (0 : Byte), (8 : Byte), (0 : Byte)] ++ zeroBytes 4)).fate = Fate.open) ∧
    ((mgmtIn' ([(1 : Byte), (1 : Byte), (0 : Byte), (0 : Byte), (5 : Byte), (0 : Byte), (6 : Byte), (1 : Byte), (7 : Byte), (0 : Byte), (8 : Byte), (0 : Byte)] ++ zeroBytes 4)).whole = true) ∧
    (tget [] (w19_76.port 5).rx 2 = [mgmtIn' ([(1 : Byte), (1 : Byte), (0 : Byte), (0 : Byte), (5 : Byte), (0 : Byte), (6 : Byte), (1 : Byte), (7 : Byte), (0 : Byte), (8 : Byte), (0 : Byte)] ++ zeroBytes 4)]) ∧
    ((mgmtIn' ([(1 : Byte), (1 : Byte), (0 : Byte), (0 : Byte), (5 : Byte), (0 : Byte), (6 : Byte), (1 : Byte), (7 : Byte), (0 : Byte), (8 : Byte), (0 : Byte)] ++ zeroBytes 4)).bytes.length = 32) ∧
    (mLen (mgmtIn' ([(1 : Byte), (1 : Byte), (0 : Byte), (0 : Byte), (5 : Byte), (0 : Byte), (6 : Byte), (1 : Byte), (7 : Byte), (0 : Byte), (8 : Byte), (0 : Byte)] ++ zeroBytes 4)).bytes = 16) ∧
    (msgBad (mgmtIn' ([(1 : Byte), (1 : Byte), (0 : Byte), (0 : Byte), (5 : Byte), (0 : Byte), (6 : Byte), (1 : Byte), (7 : Byte), (0 : Byte), (8 : Byte), (0 : Byte)] ++ zeroBytes 4)).bytes 2 = false) ∧
    (mType (mgmtIn' ([(1 : Byte), (1 : Byte), (0 : Byte), (0 : Byte), (5 : Byte), (0 : Byte), (6 : Byte), (1 : Byte), (7 : Byte), (0 : Byte), (8 : Byte), (0 : Byte)] ++ zeroBytes 4)).bytes = 5) ∧
    (∀ k ∈ [2, 3, 12, 13, 14, 15], (mgmtIn' ([(1 : Byte), (1 : Byte), (0 : Byte), (0 : Byte), (5 : Byte), (0 : Byte), (6 : Byte), (1 : Byte), (7 : Byte), (0 : Byte), (8 : Byte), (0 : Byte)] ++ zeroBytes 4)).bytes.getD (16 + k) (0 : Byte) = (0 : Byte)) ∧
    ((mgmtIn' ([(1 : Byte), (1 : Byte), (0 : Byte), (0 : Byte), (5 : Byte), (0 : Byte), (6 : Byte), (1 : Byte), (7 : Byte), (0 : Byte), (8 : Byte), (0 : Byte)] ++ zeroBytes 4)).bytes.getD (16 + 0) (0 : Byte) = (1 : Byte)) ∧
    ((w19_76.port 5).ls ≠ LState.up) ∧
    w19_77.live ∧
    (Claims.quiet w19_77) ∧
    ((w19_77.die (5 / 4 : Nat)).doze = false) ∧
    (tget [] (w19_77.port 5).rx 2 = [mgmtIn' ([(1 : Byte), (1 : Byte), (0 : Byte), (0 : Byte), (5 : Byte), (0 : Byte), (6 : Byte), (1 : Byte), (7 : Byte), (0 : Byte), (8 : Byte), (0 : Byte)] ++ zeroBytes 4)]) ∧
    ((w19_77.port 5).ls = LState.up) ∧
    w19_78.live ∧
    (Claims.quiet w19_78) ∧
    ((w19_78.die (5 / 4 : Nat)).doze = false) ∧
    ((mgmtIn' ((2 : Byte) :: zeroBytes 15)).fate = Fate.open) ∧
    ((mgmtIn' ((2 : Byte) :: zeroBytes 15)).whole = true) ∧
    (tget [] (w19_78.port 5).rx 2 = [mgmtIn' ((2 : Byte) :: zeroBytes 15)]) ∧
    ((mgmtIn' ((2 : Byte) :: zeroBytes 15)).bytes.length = 32) ∧
    (mLen (mgmtIn' ((2 : Byte) :: zeroBytes 15)).bytes = 16) ∧
    (msgBad (mgmtIn' ((2 : Byte) :: zeroBytes 15)).bytes 2 = false) ∧
    (mType (mgmtIn' ((2 : Byte) :: zeroBytes 15)).bytes = 5) ∧
    (∀ k ∈ [2, 3, 12, 13, 14, 15], (mgmtIn' ((2 : Byte) :: zeroBytes 15)).bytes.getD (16 + k) (0 : Byte) = (0 : Byte)) ∧
    ((mgmtIn' ((2 : Byte) :: zeroBytes 15)).bytes.getD (16 + 0) (0 : Byte) = (2 : Byte)) ∧
    (∀ k ∈ [4, 5, 6, 7, 8, 9, 10, 11], (mgmtIn' ((2 : Byte) :: zeroBytes 15)).bytes.getD (16 + k) (0 : Byte) = (0 : Byte)) := by
  and_intros <;> decide +kernel

def w20_0 : State := wErrors 1 (1795 : W64) (15 : W64) { : Core }
def w20_1 : State := wErrors 2 (1795 : W64) (15 : W64) { : Core }
def w20_2 : State := wErrors 0 (1792 : W64) (1 : W64) { : Core }
def w20_3 : State := wErrors 0 (1792 : W64) (2 : W64) { : Core }
def w20_5 : State := wRerun (1793 : W64) restartDesc { : Job } { : Row }
def w20_6 : State := wRerun (1793 : W64) jobDesc { : Job } { : Row }
def w20_8 : State := wRerun (1793 : W64) restartDesc { : Job } { clobber := true : Row }
def w20_9 : State := wRerun (1793 : W64) restartDesc { outside := true : Job } { : Row }
def w20_10 : State := wStopped 16
def w20_11 : State := regPut wReports RegName.glbRasIrq 0 (14339 : W64)
def w20_12 : State := wImage (BitVec.ofNat 160 (14336 * (2 ^ 14 + 1) + 2 ^ 36)) 1 (0 : W32)
def w20_13 : State := wImage (BitVec.ofNat 160 (14336 * (2 ^ 14 + 1) + 2 ^ 36)) 1 (1 : W32)
def w20_14 : State := wImage (BitVec.ofNat 160 (14336 * (2 ^ 14 + 1) + 2 ^ 36)) 0 (0 : W32)
def w20_15 : State := wImage emptyFill 1 (0 : W32)
def w20_16 : State := { run with bridges := [(0, { fails := 16, stopped := true, failed := true : Bridge })] }
def w20_17 : State := { regPut (wImage emptyFill 1 (0 : W32)) RegName.glbMcUaddr 0 (138412032 : W64) with bridges := [(0, { stopped := true : Bridge }), (1, { stopped := true : Bridge })] }
def mcHead0 : State × Option (Nat × Resp) × List Byte := readSpan (mcStart w20_12 0) { master := mCellarer, level := 2 : Agent } (BitVec.toNat (regGet w20_12 RegName.glbMcUaddr 0)) 64 { : Check }
def mcHead1 : State × Option (Nat × Resp) × List Byte := readSpan (mcStart w20_12 0) { master := mCellarer, level := 2 : Agent } (BitVec.toNat (regGet w20_12 RegName.glbMcUaddr 0)) 64 { ue := [524288] : Check }
def mcHead2 : State × Option (Nat × Resp) × List Byte := readSpan (mcStart w20_12 0) { master := mCellarer, level := 2 : Agent } (BitVec.toNat (regGet w20_12 RegName.glbMcUaddr 0)) 64 { ue := [524296] : Check }
def mcHead3 : State × Option (Nat × Resp) × List Byte := readSpan (mcStart w20_13 0) { master := mCellarer, level := 2 : Agent } (BitVec.toNat (regGet w20_13 RegName.glbMcUaddr 0)) 64 { : Check }
def mcHead4 : State × Option (Nat × Resp) × List Byte := readSpan (mcStart w20_14 0) { master := mCellarer, level := 2 : Agent } (BitVec.toNat (regGet w20_14 RegName.glbMcUaddr 0)) 64 { : Check }
def mcHead5 : State × Option (Nat × Resp) × List Byte := readSpan (mcStart w20_15 0) { master := mCellarer, level := 2 : Agent } (BitVec.toNat (regGet w20_15 RegName.glbMcUaddr 0)) 64 { : Check }
def mcBody6 : State × Option (Nat × Resp) × List Byte := readSpan mcHead0.1 { master := mCellarer, level := 2 : Agent } (BitVec.toNat (regGet w20_12 RegName.glbMcUaddr 0) + 64) (20 * (uHead mcHead0.2.2).nwords) { : Check }
def mcBody7 : State × Option (Nat × Resp) × List Byte := readSpan mcHead2.1 { master := mCellarer, level := 2 : Agent } (BitVec.toNat (regGet w20_12 RegName.glbMcUaddr 0) + 64) (20 * (uHead mcHead2.2.2).nwords) { ue := [524296] : Check }
def mcBody8 : State × Option (Nat × Resp) × List Byte := readSpan mcHead3.1 { master := mCellarer, level := 2 : Agent } (BitVec.toNat (regGet w20_13 RegName.glbMcUaddr 0) + 64) (20 * (uHead mcHead3.2.2).nwords) { : Check }
def mcBody9 : State × Option (Nat × Resp) × List Byte := readSpan mcHead5.1 { master := mCellarer, level := 2 : Agent } (BitVec.toNat (regGet w20_15 RegName.glbMcUaddr 0) + 64) (20 * (uHead mcHead5.2.2).nwords) { : Check }
theorem witness_coreErrorsAreCounted :
    w20_0.live ∧
    (BitVec.getLsbD (regGet w20_0 RegName.dbgTrctl 0) 0 = false) ∧
    (slotServed w20_0 3 2 = some 2) ∧
    ((w20_0.core (8 * 3 + 2)).job = none) ∧
    (tget 0 w20_0.slotErrs (9 * 3 + 2) + 1 < max 1 (fld (regGet w20_0 RegName.glbRasCfg 0) 0 8)) ∧
    ((w20_0.core 26).job = none) ∧
    w20_1.live ∧
    (BitVec.getLsbD (regGet w20_1 RegName.dbgTrctl 0) 0 = false) ∧
    (slotServed w20_1 3 2 = some 2) ∧
    ((w20_1.core (8 * 3 + 2)).job = none) ∧
    (max 1 (fld (regGet w20_1 RegName.glbRasCfg 0) 0 8) ≤ tget 0 w20_1.slotErrs (9 * 3 + 2) + 1) ∧
    (fld (regGet w20_1 RegName.glbRasRow 3) 0 4 = 15) ∧
    (BitVec.getLsbD (regGet w20_1 RegName.glbRasCfg 0) 8 = true) ∧
    (2 < 8) ∧
    (0 < 4160753664 ∨ 4160757760 ≤ 0) ∧
    ((w20_1.core 26).job = none) ∧
    w20_2.live ∧
    (BitVec.getLsbD (regGet w20_2 RegName.dbgTrctl 0) 0 = false) ∧
    (slotServed w20_2 3 2 = some 2) ∧
    ((w20_2.core (8 * 3 + 2)).job = none) ∧
    (max 1 (fld (regGet w20_2 RegName.glbRasCfg 0) 0 8) ≤ tget 0 w20_2.slotErrs (9 * 3 + 2) + 1) ∧
    (fld (regGet w20_2 RegName.glbRasRow 3) 0 4 ≠ 15) ∧
    ((w20_2.core 26).job = none) ∧
    w20_3.live ∧
    (BitVec.getLsbD (regGet w20_3 RegName.dbgTrctl 0) 0 = false) ∧
    (slotServed w20_3 3 2 = none) ∧
    ((w20_3.core 26).job = none) := by
  and_intros <;> decide +kernel
theorem witness_reRunDecision :
    w20_5.live ∧
    (BitVec.getLsbD (regGet w20_5 RegName.dbgTrctl 0) 0 = false) ∧
    ((w20_5.core 26).job = some (jobId 5 (7 : W32))) ∧
    ((w20_5.core 26).ended = false) ∧
    (26 ∈ (w20_5.job (jobId 5 (7 : W32))).cores) ∧
    ((w20_5.job (jobId 5 (7 : W32))).bytes ≠ []) ∧
    ((w20_5.job (jobId 5 (7 : W32))).running = true) ∧
    ((w20_5.job (jobId 5 (7 : W32))).err = none) ∧
    ((w20_5.job (jobId 5 (7 : W32))).abort = none) ∧
    ((w20_5.job (jobId 5 (7 : W32))).fail = none) ∧
    ((w20_5.job (jobId 5 (7 : W32))).rerun = none) ∧
    ((w20_5.job (jobId 5 (7 : W32))).again = false) ∧
    (jRestart (w20_5.job (jobId 5 (7 : W32))).bytes = true) ∧
    (BitVec.getLsbD (regGet w20_5 RegName.glbRasCfg 0) 9 = true) ∧
    (inputsIntact w20_5 (w20_5.job (jobId 5 (7 : W32))) = true) ∧
    (((w20_5.job (jobId 5 (7 : W32))).outside || ((w20_5.job (jobId 5 (7 : W32))).cores ++ (w20_5.job (jobId 5 (7 : W32))).partners).any (outsideQueued w20_5 (jobId 5 (7 : W32)))) = false) ∧
    (jobUnservable w20_5 (w20_5.job (jobId 5 (7 : W32))).bytes = false) ∧
    ((w20_5.job (jobId 5 (7 : W32))).rerun = none ∨ (w20_5.job (jobId 5 (7 : W32))).again = true) ∧
    w20_6.live ∧
    (BitVec.getLsbD (regGet w20_6 RegName.dbgTrctl 0) 0 = false) ∧
    ((w20_6.core 26).job = some (jobId 5 (7 : W32))) ∧
    ((w20_6.core 26).ended = false) ∧
    (26 ∈ (w20_6.job (jobId 5 (7 : W32))).cores) ∧
    ((w20_6.job (jobId 5 (7 : W32))).bytes ≠ []) ∧
    ((w20_6.job (jobId 5 (7 : W32))).running = true) ∧
    ((w20_6.job (jobId 5 (7 : W32))).err = none) ∧
    ((w20_6.job (jobId 5 (7 : W32))).abort = none) ∧
    ((w20_6.job (jobId 5 (7 : W32))).fail = none) ∧
    ((w20_6.job (jobId 5 (7 : W32))).rerun = none) ∧
    ((w20_6.job (jobId 5 (7 : W32))).again = false) ∧
    (jRestart (w20_6.job (jobId 5 (7 : W32))).bytes = false ∨ BitVec.getLsbD (regGet w20_6 RegName.glbRasCfg 0) 9 = false) ∧
    ((w20_6.job (jobId 5 (7 : W32))).rerun = none ∨ (w20_6.job (jobId 5 (7 : W32))).again = true) ∧
    w20_8.live ∧
    (BitVec.getLsbD (regGet w20_8 RegName.dbgTrctl 0) 0 = false) ∧
    ((w20_8.core 26).job = some (jobId 5 (7 : W32))) ∧
    ((w20_8.core 26).ended = false) ∧
    (26 ∈ (w20_8.job (jobId 5 (7 : W32))).cores) ∧
    ((w20_8.job (jobId 5 (7 : W32))).bytes ≠ []) ∧
    ((w20_8.job (jobId 5 (7 : W32))).running = true) ∧
    ((w20_8.job (jobId 5 (7 : W32))).err = none) ∧
    ((w20_8.job (jobId 5 (7 : W32))).abort = none) ∧
    ((w20_8.job (jobId 5 (7 : W32))).fail = none) ∧
    ((w20_8.job (jobId 5 (7 : W32))).rerun = none) ∧
    ((w20_8.job (jobId 5 (7 : W32))).again = false) ∧
    (jRestart (w20_8.job (jobId 5 (7 : W32))).bytes = true) ∧
    (BitVec.getLsbD (regGet w20_8 RegName.glbRasCfg 0) 9 = true) ∧
    (inputsIntact w20_8 (w20_8.job (jobId 5 (7 : W32))) = false) ∧
    ((w20_8.job (jobId 5 (7 : W32))).rerun = none ∨ (w20_8.job (jobId 5 (7 : W32))).again = true) ∧
    w20_9.live ∧
    (BitVec.getLsbD (regGet w20_9 RegName.dbgTrctl 0) 0 = false) ∧
    ((w20_9.core 26).job = some (jobId 5 (7 : W32))) ∧
    ((w20_9.core 26).ended = false) ∧
    (26 ∈ (w20_9.job (jobId 5 (7 : W32))).cores) ∧
    ((w20_9.job (jobId 5 (7 : W32))).bytes ≠ []) ∧
    ((w20_9.job (jobId 5 (7 : W32))).running = true) ∧
    ((w20_9.job (jobId 5 (7 : W32))).err = none) ∧
    ((w20_9.job (jobId 5 (7 : W32))).abort = none) ∧
    ((w20_9.job (jobId 5 (7 : W32))).fail = none) ∧
    ((w20_9.job (jobId 5 (7 : W32))).rerun = none) ∧
    ((w20_9.job (jobId 5 (7 : W32))).again = false) ∧
    (jRestart (w20_9.job (jobId 5 (7 : W32))).bytes = true) ∧
    (BitVec.getLsbD (regGet w20_9 RegName.glbRasCfg 0) 9 = true) ∧
    (inputsIntact w20_9 (w20_9.job (jobId 5 (7 : W32))) = true) ∧
    (((w20_9.job (jobId 5 (7 : W32))).outside || ((w20_9.job (jobId 5 (7 : W32))).cores ++ (w20_9.job (jobId 5 (7 : W32))).partners).any (outsideQueued w20_9 (jobId 5 (7 : W32)))) = true) ∧
    ((w20_9.job (jobId 5 (7 : W32))).rerun = none ∨ (w20_9.job (jobId 5 (7 : W32))).again = true) ∧
    wRerunOver.live ∧
    (BitVec.getLsbD (regGet wRerunOver RegName.dbgTrctl 0) 0 = false) ∧
    ((wRerunOver.job (jobId 5 (7 : W32))).rerun.isSome = true) ∧
    ((wRerunOver.job (jobId 5 (7 : W32))).again = false) ∧
    ((wRerunOver.job (jobId 5 (7 : W32))).err = none) ∧
    ((wRerunOver.job (jobId 5 (7 : W32))).abort = none) ∧
    ((wRerunOver.job (jobId 5 (7 : W32))).fail = none) ∧
    (jobOver wRerunOver (jobId 5 (7 : W32)) (wRerunOver.job (jobId 5 (7 : W32))) = true) := by
  and_intros <;> decide +kernel
theorem witness_rowDeviceAndBridgeErrors :
    wRowCores.live ∧
    (BitVec.getLsbD (regGet wRowCores RegName.glbRasCfg 0) 10 = true) ∧
    (wRowCores.jobs = []) ∧
    ((31 / 8 : Nat) = 3) ∧
    (0 < 64) ∧
    ((0 / 8 : Nat) ≠ 3) ∧
    (wRowCores.rings = []) ∧
    (wRowCores.sec.op ≠ some SecOp.update) ∧
    ((wRowCores.bridge 0).stopped = false) ∧
    ((wRowCores.bridge 1).stopped = false) ∧
    w20_10.live ∧
    (BitVec.getLsbD (regGet w20_10 RegName.glbRasCfg 0) 10 = true) ∧
    (w20_10.jobs = []) ∧
    (w20_10.rings = []) ∧
    (w20_10.sec.op ≠ some SecOp.update) ∧
    ((w20_10.bridge 0).stopped = true) ∧
    ((w20_10.bridge 1).stopped = false) ∧
    ((w20_10.bridge 0).failed = false) ∧
    (w20_10.raises = []) ∧
    (w20_10.objLate = []) ∧
    w20_16.live ∧
    (BitVec.getLsbD (regGet w20_16 RegName.glbRasCfg 0) 10 = true) ∧
    (w20_16.jobs = []) ∧
    (w20_16.rings = []) ∧
    (w20_16.sec.op ≠ some SecOp.update) ∧
    ((w20_16.bridge 0).stopped = true) ∧
    ((w20_16.bridge 0).failed = true) := by
  and_intros <;> decide +kernel
theorem witness_eventLogTakesReports :
    w20_11.live ∧
    (w20_11.reports = [{ src := 16, code := 3, sev := 2, unit := 7, info0 := (5 : W64), info1 := (6 : W64) : Report }, { src := 1, code := 1, sev := 1 : Report }]) ∧
    (BitVec.toNat (regGet w20_11 RegName.glbRasLognext 0) < 2 ^ 32) ∧
    run.live ∧
    (run.reports = []) := by
  and_intros <;> decide +kernel
theorem witness_microcodeLoadsAndClears :
    w20_12.live ∧
    (w20_12.serves RegName.glbMcUctrl 0) ∧
    (BitVec.getLsbD (regGet w20_12 RegName.glbMcUstat 0) 0 = false) ∧
    (coresIdle w20_12 = true) ∧
    (bridgeDown w20_12 = false) ∧
    (mcHead0.2.1 = none) ∧
    ((uHead mcHead0.2.2).ok = true) ∧
    (mcBody6.2.1 = none) ∧
    (crc32 mcBody6.2.2 = w32 (uHead mcHead0.2.2).crc) ∧
    (firstBad (uHead mcHead0.2.2).first (wordsOf mcBody6.2.2 (uHead mcHead0.2.2).nwords) = none) ∧
    w20_13.live ∧
    (w20_13.serves RegName.glbMcUctrl 0) ∧
    (BitVec.getLsbD (regGet w20_13 RegName.glbMcUstat 0) 0 = false) ∧
    (coresIdle w20_13 = true) ∧
    (bridgeDown w20_13 = false) ∧
    (mcHead3.2.1 = none) ∧
    ((uHead mcHead3.2.2).ok = true) ∧
    (mcBody8.2.1 = none) ∧
    (crc32 mcBody8.2.2 ≠ w32 (uHead mcHead3.2.2).crc) ∧
    w20_14.live ∧
    (w20_14.serves RegName.glbMcUctrl 0) ∧
    (BitVec.getLsbD (regGet w20_14 RegName.glbMcUstat 0) 0 = false) ∧
    (coresIdle w20_14 = true) ∧
    (bridgeDown w20_14 = false) ∧
    (mcHead4.2.1 = none) ∧
    ((uHead mcHead4.2.2).ok = false) ∧
    (mcHead1.2.1.isSome = true) ∧
    (mcHead2.2.1 = none) ∧
    ((uHead mcHead2.2.2).ok = true) ∧
    (mcBody7.2.1.isSome = true) ∧
    w20_15.live ∧
    (w20_15.serves RegName.glbMcUctrl 0) ∧
    (BitVec.getLsbD (regGet w20_15 RegName.glbMcUstat 0) 0 = false) ∧
    (coresIdle w20_15 = true) ∧
    (bridgeDown w20_15 = false) ∧
    (mcHead5.2.1 = none) ∧
    ((uHead mcHead5.2.2).ok = true) ∧
    (mcBody9.2.1 = none) ∧
    (crc32 mcBody9.2.2 = w32 (uHead mcHead5.2.2).crc) ∧
    (firstBad (uHead mcHead5.2.2).first (wordsOf mcBody9.2.2 (uHead mcHead5.2.2).nwords) = some (0x3800, 4)) ∧
    w20_17.live ∧
    (w20_17.serves RegName.glbMcUctrl 0) ∧
    (BitVec.getLsbD (regGet w20_17 RegName.glbMcUstat 0) 0 = false) ∧
    (coresIdle w20_17 = true) ∧
    (bridgeHolds (mcStart w20_17 0) mCellarer (BitVec.toNat (regGet w20_17 RegName.glbMcUaddr 0)) 64 = true) := by
  and_intros <;> decide +kernel

def w21_0 : State := wBoot 1 1
def w21_1 : State := wBoot 1 4
def w21_3 : State := { wSvn with otp := { lcs := 4 : Otp } }
def w21_5 : State := wLcs 0 (1 : W64)
def w21_8 : State := wLcs 1 (3 : W64)
def w21_9 : State := wLcs 2 (1 : W64)
def w21_10 : State := wTamper (0 : W64)
def w21_11 : State := wTamper (2 : W64)
def w21_12 : State := wTamper (5 : W64)
def w21_14 : State := { regPut (wBooted 1) RegName.secCmdstat 0 (1 : W64) with sec := { op := some SecOp.update, slot := some (1, 0, 384, [(3 : Byte), (4 : Byte)]) : Sec } }
def w21_15 : State := { wTamper (4 : W64) with tick := 50003, sec := { holdDue := some 3 : Sec } }
def w21_16 : State := { wTamper (2 : W64) with sec := { hold := true : Sec } }
def w21_17 : State := { regs := (wLcs 1 (4 : W64)).regs, stage := (wJob { : Job } jobDesc).stage, snap := (wJob { : Job } jobDesc).snap, readData := (wJob { : Job } jobDesc).readData, resp := (wJob { : Job } jobDesc).resp, readBytes := (wJob { : Job } jobDesc).readBytes, tick := (wJob { : Job } jobDesc).tick, cclk := (wJob { : Job } jobDesc).cclk, dies := (wJob { : Job } jobDesc).dies, axes := (wJob { : Job } jobDesc).axes, bus := (wJob { : Job } jobDesc).bus, busLine := (wJob { : Job } jobDesc).busLine, pinHist := (wJob { : Job } jobDesc).pinHist, lvOpen := (wJob { : Job } jobDesc).lvOpen, openHist := (wJob { : Job } jobDesc).openHist, latch := (wJob { : Job } jobDesc).latch, pulses := (wJob { : Job } jobDesc).pulses, alarms := (wJob { : Job } jobDesc).alarms, actions := (wJob { : Job } jobDesc).actions, stampAns := (wJob { : Job } jobDesc).stampAns, timers := (wJob { : Job } jobDesc).timers, ocLine := (wJob { : Job } jobDesc).ocLine, cores := (wJob { : Job } jobDesc).cores, events := (wJob { : Job } jobDesc).events, raises := (wJob { : Job } jobDesc).raises, ustore := (wJob { : Job } jobDesc).ustore, mcImage := (wJob { : Job } jobDesc).mcImage, patches := (wJob { : Job } jobDesc).patches, mem := (wJob { : Job } jobDesc).mem, poison := (wJob { : Job } jobDesc).poison, bays := (wJob { : Job } jobDesc).bays, hbmRows := (wJob { : Job } jobDesc).hbmRows, hbmSoft := (wJob { : Job } jobDesc).hbmSoft, hbmHard := (wJob { : Job } jobDesc).hbmHard, refresh := (wJob { : Job } jobDesc).refresh, scrubPos := (wJob { : Job } jobDesc).scrubPos, arbiters := (wJob { : Job } jobDesc).arbiters, trPorts := (wJob { : Job } jobDesc).trPorts, buckets := (wJob { : Job } jobDesc).buckets, bridges := (wJob { : Job } jobDesc).bridges, link := (wJob { : Job } jobDesc).link, msix := (wJob { : Job } jobDesc).msix, pba := (wJob { : Job } jobDesc).pba, msixReq := (wJob { : Job } jobDesc).msixReq, rings := (wJob { : Job } jobDesc).rings, engines := (wJob { : Job } jobDesc).engines, poll := (wJob { : Job } jobDesc).poll, groupSeen := (wJob { : Job } jobDesc).groupSeen, marks := (wJob { : Job } jobDesc).marks, jobs := (wJob { : Job } jobDesc).jobs, objLate := (wJob { : Job } jobDesc).objLate, ports := (wJob { : Job } jobDesc).ports, ingests := (wJob { : Job } jobDesc).ingests, egresses := (wJob { : Job } jobDesc).egresses, rows := (wJob { : Job } jobDesc).rows, slotErrs := (wJob { : Job } jobDesc).slotErrs, retired := (wJob { : Job } jobDesc).retired, reports := (wJob { : Job } jobDesc).reports, sec := (wJob { : Job } jobDesc).sec, power := (wJob { : Job } jobDesc).power, tap := (wJob { : Job } jobDesc).tap, traced := (wJob { : Job } jobDesc).traced, evtClr := (wJob { : Job } jobDesc).evtClr, traceCnt := (wJob { : Job } jobDesc).traceCnt, pending := (wJob { : Job } jobDesc).pending : State }
def w21_19 : State := { regPut (wJob { : Job } jobDesc) RegName.secCmdstat 0 (1 : W64) with sec := { op := some SecOp.lcreq, move := some 4 : Sec } }
def w21_20 : State := { regPut (wLcs 1 (2 : W64)) RegName.secCmdstat 0 (1 : W64) with sec := { op := some SecOp.lcreq, move := some 4 : Sec } }
def w21_21 : State := regPut (wLcs 1 (2 : W64)) RegName.secBootstat 0 (4159 : W64)
def w21_23 : State := regPut (wBooted 1) RegName.secArglen 0 (2 : W64)
def w21_24 : State := regPut wRecovering RegName.secArglen 0 (9 : W64)
theorem witness_secureBootChoosesImages :
    wBootEmpty.live ∧
    (wBootEmpty.sec.booted = false) ∧
    (fld (regGet wBootEmpty RegName.pwrBoot 0) 0 3 = 1) ∧
    (wBootEmpty.otp.lcs ≠ 4) ∧
    (∀ k ∈ [1, 2, 3], ∀ b ∈ [0, 1], slotValid wBootEmpty k b = true → Config.revokes (imgBody (slotBytes wBootEmpty k b)) = (0 : BitVec 4)) ∧
    w21_1.live ∧
    (w21_1.sec.booted = true ∨ fld (regGet w21_1 RegName.pwrBoot 0) 0 3 ≠ 1 ∨ w21_1.otp.lcs = 4) := by
  and_intros <;> first | (intro k hk b _ h; rw [slotValid_empty _ k b rfl (by rintro rfl; simp at hk)] at h; cases h) | decide +kernel
theorem witness_attestAndCommit :
    wSvn.live ∧
    (wSvn.serves RegName.secCmd 0) ∧
    (BitVec.getLsbD (regGet wSvn RegName.secCmdstat 0) 0 = false) ∧
    (wSvn.otp.lcs ≠ 4) ∧
    (noMonitor wSvn = false) ∧
    (0 < 56) ∧
    w21_3.live ∧
    (w21_3.serves RegName.secCmd 0) ∧
    (BitVec.getLsbD (regGet w21_3 RegName.secCmdstat 0) 0 = false) ∧
    (w21_3.otp.lcs = 4 ∨ noMonitor w21_3 = true) ∧
    wSecBusy.live ∧
    (wSecBusy.serves RegName.secCmd 0) ∧
    (BitVec.getLsbD (regGet wSecBusy RegName.secCmdstat 0) 0 = true) ∧
    (wSecBusy.sec.op ≠ some SecOp.attest) ∧
    (wSecBusy.sec.op ≠ some SecOp.commit) := by
  and_intros <;> decide +kernel
theorem witness_updateAndRecover :
    w21_14.live ∧
    (w21_14.serves RegName.secCmd 0) ∧
    (w21_14.otp.lcs ≠ 4) ∧
    (BitVec.getLsbD (regGet w21_14 RegName.secCmdstat 0) 0 = true) ∧
    (w21_14.sec.switch = none) ∧
    (w21_14.sec.slot = some (1, 0, 384, [(3 : Byte), (4 : Byte)])) ∧
    (w21_14.sec.op = some SecOp.update) ∧
    w21_23.live ∧
    (w21_23.serves RegName.secCmd 0) ∧
    (w21_23.otp.lcs ≠ 4) ∧
    (BitVec.getLsbD (regGet w21_23 RegName.secCmdstat 0) 0 = false) ∧
    ([(1 : Byte), (2 : Byte)].length ≤ BitVec.toNat (regGet w21_23 RegName.secArglen 0)) ∧
    (w21_23.sec.switch = none) ∧
    (w21_23.sec.slot = none) ∧
    (BitVec.getLsbD (regGet w21_23 RegName.secBootstat 0) 12 = false) ∧
    (imgCode w21_23 [(1 : Byte), (2 : Byte)] = some 2) ∧
    w21_24.live ∧
    (w21_24.serves RegName.secCmd 0) ∧
    (w21_24.otp.lcs ≠ 4) ∧
    (BitVec.getLsbD (regGet w21_24 RegName.secCmdstat 0) 0 = false) ∧
    ([(1 : Byte), (2 : Byte)].length ≤ BitVec.toNat (regGet w21_24 RegName.secArglen 0)) ∧
    (BitVec.getLsbD (regGet w21_24 RegName.secBootstat 0) 12 = true) ∧
    (w21_24.sec.switch = none) ∧
    (w21_24.sec.slot = none) ∧
    (imgCode w21_24 [(1 : Byte), (2 : Byte)] = some 2) ∧
    (2 ^ 28 ≤ 4194304007) := by
  and_intros <;> decide +kernel
theorem witness_lifeCycleTransitions (h : Config.authorised [3] = false) :
    w21_5.live ∧
    (w21_5.serves RegName.secCmd 0) ∧
    (BitVec.getLsbD (regGet w21_5 RegName.secCmdstat 0) 0 = false) ∧
    (w21_5.sec.move = none) ∧
    (noMonitor w21_5 = false) ∧
    ((w21_5.otp.lcs, fld (regGet w21_5 RegName.secArglen 0) 0 3) ∈ [(0, 1), (0, 2), (1, 2), (1, 4), (2, 3), (2, 4), (3, 4)] ∨ w21_5.otp.lcs = 2 ∧ fld (regGet w21_5 RegName.secArglen 0) 0 3 = 1 ∧ ∃ x, none = some x ∧ Config.authorised (List.take 192 x) = true) ∧
    (w21_5.jobs = []) ∧
    w21_8.live ∧
    (w21_8.serves RegName.secCmd 0) ∧
    (BitVec.getLsbD (regGet w21_8 RegName.secCmdstat 0) 0 = false) ∧
    (w21_8.sec.move = none) ∧
    (noMonitor w21_8 = false) ∧
    ((w21_8.otp.lcs, fld (regGet w21_8 RegName.secArglen 0) 0 3) ∉ [(0, 1), (0, 2), (1, 2), (1, 4), (2, 3), (2, 4), (3, 4)]) ∧
    (w21_8.otp.lcs ≠ 2 ∨ fld (regGet w21_8 RegName.secArglen 0) 0 3 ≠ 1) ∧
    w21_9.live ∧
    (w21_9.serves RegName.secCmd 0) ∧
    (BitVec.getLsbD (regGet w21_9 RegName.secCmdstat 0) 0 = false) ∧
    (w21_9.sec.move = none) ∧
    (noMonitor w21_9 = false) ∧
    (w21_9.otp.lcs = 2) ∧
    (fld (regGet w21_9 RegName.secArglen 0) 0 3 = 1) ∧
    (Config.authorised (List.take 192 [(3 : Byte)]) = false) ∧
    w21_17.live ∧
    (w21_17.serves RegName.secCmd 0) ∧
    (BitVec.getLsbD (regGet w21_17 RegName.secCmdstat 0) 0 = false) ∧
    (w21_17.sec.move = none) ∧
    (noMonitor w21_17 = false) ∧
    ((w21_17.otp.lcs, fld (regGet w21_17 RegName.secArglen 0) 0 3) ∈ [(0, 1), (0, 2), (1, 2), (1, 4), (2, 3), (2, 4), (3, 4)] ∨ w21_17.otp.lcs = 2 ∧ fld (regGet w21_17 RegName.secArglen 0) 0 3 = 1 ∧ ∃ x, none = some x ∧ Config.authorised (List.take 192 x) = true) ∧
    (jobId 5 (7 : W32) ∈ tkeys w21_17.jobs) ∧
    ((w21_17.job (jobId 5 (7 : W32))).running = true) ∧
    ((w21_17.job (jobId 5 (7 : W32))).bytes ≠ []) ∧
    ((w21_17.job (jobId 5 (7 : W32))).clear = true) ∧
    w21_19.live ∧
    (w21_19.serves RegName.secCmd 0) ∧
    (BitVec.getLsbD (regGet w21_19 RegName.secCmdstat 0) 0 = true) ∧
    (w21_19.sec.op = some SecOp.lcreq) ∧
    (w21_19.sec.move = some 4) ∧
    (w21_19.jobs ≠ []) ∧
    w21_20.live ∧
    (w21_20.serves RegName.secCmd 0) ∧
    (BitVec.getLsbD (regGet w21_20 RegName.secCmdstat 0) 0 = true) ∧
    (w21_20.sec.op = some SecOp.lcreq) ∧
    (w21_20.sec.move = some 4) ∧
    (w21_20.jobs = []) ∧
    w21_21.live ∧
    (w21_21.serves RegName.secCmd 0) ∧
    (BitVec.getLsbD (regGet w21_21 RegName.secCmdstat 0) 0 = false) ∧
    (w21_21.sec.move = none) ∧
    (noMonitor w21_21 = true) := by
  and_intros <;> first | decide +kernel | exact h
theorem witness_tamperAndShieldCap :
    (w21_10.power.porst = false) ∧
    (BitVec.getLsbD (regGet w21_10 RegName.secTampcfg 0) 0 = false) ∧
    w21_10.live ∧
    (w21_10.serves RegName.secTampcfg 0) ∧
    (w21_10.serves RegName.secShcap 0) ∧
    (w21_11.power.porst = false) ∧
    ((3 : Fin 4) = (0 : Fin 4) → BitVec.getLsbD (regGet w21_11 RegName.secTampcfg 0) 0 = true) ∧
    (inReset w21_11 = false) ∧
    (1 ≤ fld (regGet w21_11 RegName.secTampcfg 0) 1 2) ∧
    (fld (regGet w21_11 RegName.secTampcfg 0) 1 2 = 1) ∧
    w21_11.live ∧
    (w21_11.serves RegName.secTampcfg 0) ∧
    (w21_11.serves RegName.secShcap 0) ∧
    (w21_12.power.porst = false) ∧
    ((0 : Fin 4) = (0 : Fin 4) → BitVec.getLsbD (regGet w21_12 RegName.secTampcfg 0) 0 = true) ∧
    (inReset w21_12 = false) ∧
    (1 ≤ fld (regGet w21_12 RegName.secTampcfg 0) 1 2) ∧
    (2 ≤ fld (regGet w21_12 RegName.secTampcfg 0) 1 2) ∧
    w21_12.live ∧
    (w21_12.serves RegName.secTampcfg 0) ∧
    (w21_12.serves RegName.secShcap 0) ∧
    (w21_15.power.porst = false) ∧
    ((1 : Fin 4) = (0 : Fin 4) → BitVec.getLsbD (regGet w21_15 RegName.secTampcfg 0) 0 = true) ∧
    (inReset w21_15 = false) ∧
    (1 ≤ fld (regGet w21_15 RegName.secTampcfg 0) 1 2) ∧
    (2 ≤ fld (regGet w21_15 RegName.secTampcfg 0) 1 2) ∧
    w21_15.live ∧
    (w21_15.sec.holdDue = some 3) ∧
    (3 + 50000 ≤ w21_15.tick) ∧
    (w21_15.serves RegName.secTampcfg 0) ∧
    (w21_15.serves RegName.secShcap 0) ∧
    (w21_16.power.porst = false) ∧
    ((1 : Fin 4) = (0 : Fin 4) → BitVec.getLsbD (regGet w21_16 RegName.secTampcfg 0) 0 = true) ∧
    (fld (regGet w21_16 RegName.secTampcfg 0) 1 2 = 0 ∨ inReset w21_16 = true) := by
  and_intros <;> decide +kernel

def w22_0 : State := wOpp (34 : W64) 2 2
def w22_2 : State := wOpp (160 : W64) 2 0
def w22_4 : State := wOpp (2 : W64) 0 2
def w22_8 : State := wDoze { : Die } { : Die } false
def w22_11 : State := wWaking { ax0 := (4886691840 : W64) : Die } asleep
def w22_12 : State := wWaking asleep asleep
def w22_14 : State := wWaking { : Die } { : Die }
def w22_17 : State := wRest { : Core }
def w22_20 : State := wRest { reserved := some 3, off := true : Core }
def w22_21 : State := wRow { goal := RowPower.ret : Row } 15 { : Core }
def w22_22 : State := wRow { : Row } 15 { : Core }
def w22_23 : State := wRow { : Row } 15 { job := some 4 : Core }
def w22_28 : State := regPut wFull RegName.pwrStrap 0 (4 : W64)
def w22_30 : State := wStage 1
def w22_31 : State := regPut (wStage 2) RegName.secBootstat 0 (4096 : W64)
def w22_32 : State := wStage 2
def w22_33 : State := { wStage 1 with sec := { : Sec } }
def w22_34 : State := regPut (wStage 3) RegName.hbmStat 0 (6 : W64)
def w22_35 : State := wStage 4
def w22_36 : State := wStage 5
def w22_37 : State := wStage 0
def w22_41 : State := regPut run RegName.pwrBoot 0 (5 : W64)
def w22_42 : State := regPut (regPut run RegName.pwrBoot 0 (5 : W64)) RegName.secTampcfg 0 (0 : W64)
def w22_43 : State := { regPut run RegName.secTampcfg 0 (0 : W64) with power := { sysLost := true : Power } }
def w22_45 : State := { regPut run RegName.pwrBoot 0 (3 : W64) with power := { : Power } }
def w22_46 : State := wRow { power := RowPower.ret, goal := RowPower.ret : Row } 15 { : Core }
def w22_50 : State := wRow { goal := RowPower.ret : Row } 3 { reserved := some 4 : Core }
def w22_55 : State := { wCal (1 : Byte) with power := { calLeft := some (5, [(1 : Byte)]) : Power } }
theorem witness_operatingPointChanges :
    w22_0.live ∧
    (w22_0.serves RegName.pwrOpp 0) ∧
    (BitVec.getLsbD (regGet w22_0 RegName.pwrOpp 0) 7 = false) ∧
    w22_2.live ∧
    (w22_2.serves RegName.pwrOpp 0) ∧
    (BitVec.getLsbD (regGet w22_2 RegName.pwrOpp 0) 7 = true) ∧
    (w22_2.power.oppGoal < 3) := by
  and_intros <;> decide +kernel
theorem witness_throttleSteps :
    (w22_0.power.porst = false) ∧
    ((100 : Int) ≤ BitVec.toInt (hottestOf w22_0 (wHot (100 : BitVec 8)))) ∧
    (min w22_0.power.thermal (if BitVec.getLsbD (regGet w22_0 RegName.pwrOpp 0) 7 = true then w22_0.power.oppGoal else fld (regGet w22_0 RegName.pwrOpp 0) 4 2) ≠ 0) ∧
    ((95 : Int) ≤ BitVec.toInt (hottestOf w22_0 (wHot (100 : BitVec 8))) ∨ 2 ≤ w22_0.power.thermal) ∧
    (w22_4.power.porst = false) ∧
    (BitVec.toInt (hottestOf w22_4 (wHot (94 : BitVec 8))) < (100 : Int) ∨ min w22_4.power.thermal (if BitVec.getLsbD (regGet w22_4 RegName.pwrOpp 0) 7 = true then w22_4.power.oppGoal else fld (regGet w22_4 RegName.pwrOpp 0) 4 2) = 0) ∧
    (BitVec.toInt (hottestOf w22_4 (wHot (94 : BitVec 8))) < (95 : Int)) ∧
    (w22_4.power.thermal < 2) := by
  and_intros <;> decide +kernel
theorem witness_dozeIsEnteredOrRefused :
    w22_8.live ∧
    (w22_8.serves RegName.pwrDoze 0) ∧
    ((w22_8.die 1).doze = false) ∧
    (dozeBars w22_8 1 ≠ 0) ∧
    ((w22_8.die 0).doze = false) ∧
    (dozeBars w22_8 0 = 0) ∧
    ((0 / 32 : Nat) = 0) := by
  and_intros <;> decide +kernel
theorem witness_dozeEnds :
    w22_11.live ∧
    ((Instr.dozeWake (1 : Fin 2) 5 1000 7, reaches w22_11 (regOff RegName.pwrDoze 0)).2 = true) ∧
    ((w22_11.die 1).doze = true) ∧
    ((w22_11.die (1 - 1)).doze = false) ∧
    ((Instr.wakePin (1 : Fin 2) 5 1000 7, BitVec.getLsbD (regGet w22_11 RegName.pwrWake 0) 0).2 = true) ∧
    ((Instr.wakeTimeExpiry (1 : Fin 2) 5 1000 7, decide (BitVec.toNat (regGet w22_11 RegName.pwrWaketime 0) ≠ 0 ∧ BitVec.toNat (regGet w22_11 RegName.pwrWaketime 0) ≤ 1000)).2 = true) ∧
    ((w22_11.die 1).samples ≠ 0) ∧
    w22_12.live ∧
    ((Instr.dozeWake (1 : Fin 2) 5 1000 7, reaches w22_12 (regOff RegName.pwrDoze 0)).2 = true) ∧
    ((w22_12.die 1).doze = true) ∧
    ((w22_12.die (1 - 1)).doze = true) ∧
    ((Instr.wakePin (1 : Fin 2) 5 1000 7, BitVec.getLsbD (regGet w22_12 RegName.pwrWake 0) 0).2 = true) ∧
    ((Instr.wakeTimeExpiry (1 : Fin 2) 5 1000 7, decide (BitVec.toNat (regGet w22_12 RegName.pwrWaketime 0) ≠ 0 ∧ BitVec.toNat (regGet w22_12 RegName.pwrWaketime 0) ≤ 1000)).2 = true) ∧
    ((w22_12.die 1).samples ≠ 0) ∧
    w22_14.live ∧
    ((Instr.dozeWake (0 : Fin 2) 5 999 7, reaches w22_14 (regOff RegName.pwrDoze 0)).2 = true) ∧
    ((w22_14.die 0).doze = false) ∧
    ((Instr.wakePin (0 : Fin 2) 5 999 7, BitVec.getLsbD (regGet w22_14 RegName.pwrWake 0) 0).2 = true) := by
  and_intros <;> decide +kernel
theorem witness_corePowerGating :
    w22_17.live ∧
    (BitVec.getLsbD (regGet w22_17 RegName.pwrCorecfg 0) 0 = true ∧ ((w22_17.core 63).job = none ∨ (w22_17.core 63).ended = true) ∧ (w22_17.core 63).reserved = none ∧ (w22_17.core 63).off = false ∧ (w22_17.core 63).sb = [] ∧ (w22_17.core 63).wq = [] ∧ (w22_17.core 63).freeAt + 500 * fld (regGet w22_17 RegName.pwrCorecfg 0) 4 12 ≤ w22_17.tick) ∧
    ((w22_17.core 63).off = false ∨ (w22_17.die (63 / 32 : Nat)).doze = true ∨ (w22_17.row (63 / 8 : Nat)).power ≠ RowPower.run ∨ (w22_17.row (63 / 8 : Nat)).goal ≠ RowPower.run) ∧
    w22_20.live ∧
    (¬(BitVec.getLsbD (regGet w22_20 RegName.pwrCorecfg 0) 0 = true ∧ ((w22_20.core 63).job = none ∨ (w22_20.core 63).ended = true) ∧ (w22_20.core 63).reserved = none ∧ (w22_20.core 63).off = false ∧ (w22_20.core 63).sb = [] ∧ (w22_20.core 63).wq = [] ∧ (w22_20.core 63).freeAt + 500 * fld (regGet w22_20 RegName.pwrCorecfg 0) 4 12 ≤ w22_20.tick)) ∧
    ((w22_20.core 63).off = true) ∧
    ((w22_20.core 63).reserved ≠ none) ∧
    ((w22_20.row (63 / 8 : Nat)).power = RowPower.run) ∧
    ((w22_20.row (63 / 8 : Nat)).goal = RowPower.run) ∧
    ((w22_20.die (63 / 32 : Nat)).doze = false) := by
  and_intros <;> decide +kernel
theorem witness_rowPowerChanges :
    w22_21.live ∧
    (w22_21.serves RegName.pwrRowpwr 0) ∧
    (∀ k < 8, k ≠ 3 → fld (65343 : W16) (2 * k) 2 = 3) ∧
    (fld (65343 : W16) (2 * 3) 2 = 0) ∧
    ((w22_21.row 3).goal ≠ RowPower.run) ∧
    ((w22_21.row 3).power = RowPower.run) ∧
    (0 < 8) ∧
    ((w22_21.row 3).goal ≠ (w22_21.row 3).power) ∧
    (¬((w22_21.row 3).goal = RowPower.ret ∧ ∃ k < 8, coreBound w22_21 (8 * 3 + k) = true)) ∧
    w22_22.live ∧
    (w22_22.serves RegName.pwrRowpwr 0) ∧
    (∀ k < 8, k ≠ 3 → fld (65407 : W16) (2 * k) 2 = 3) ∧
    (fld (65407 : W16) (2 * 3) 2 = (1, RowPower.ret).1) ∧
    ((w22_22.row 3).goal ≠ (1, RowPower.ret).2) ∧
    (¬∃ k < 8, coreBound w22_22 (8 * 3 + k) = true) ∧
    ((1, RowPower.ret).1 = 2 → ¬∃ k < 8, (w22_22.bay (8 * 3 + k)).owner ≠ 15) ∧
    ((0 / 8 : Nat) ≠ 3) ∧
    ((w22_22.row 3).goal = (w22_22.row 3).power ∨ (w22_22.row 3).goal = RowPower.ret ∧ ∃ k < 8, coreBound w22_22 (8 * 3 + k) = true) ∧
    w22_23.live ∧
    (w22_23.serves RegName.pwrRowpwr 0) ∧
    ((fld (65407 : W16) (2 * 3) 2 = 1 ∧ ∃ k < 8, coreBound w22_23 (8 * 3 + k) = true) ∨ fld (65407 : W16) (2 * 3) 2 = 2 ∧ ((∃ k < 8, coreBound w22_23 (8 * 3 + k) = true) ∨ ∃ k < 8, (w22_23.bay (8 * 3 + k)).owner ≠ 15)) ∧
    ((w22_23.row 3).goal = (w22_23.row 3).power ∨ (w22_23.row 3).goal = RowPower.ret ∧ ∃ k < 8, coreBound w22_23 (8 * 3 + k) = true) ∧
    w22_46.live ∧
    (w22_46.serves RegName.pwrRowpwr 0) ∧
    ((w22_46.row 3).goal ≠ RowPower.run) ∧
    ((w22_46.row 3).power ≠ RowPower.run) ∧
    ((w22_46.row 3).goal = (w22_46.row 3).power ∨ (w22_46.row 3).goal = RowPower.ret ∧ ∃ k < 8, coreBound w22_46 (8 * 3 + k) = true) ∧
    w22_50.live ∧
    (w22_50.serves RegName.pwrRowpwr 0) ∧
    (∀ k < 8, k ≠ 3 → fld (65535 : W16) (2 * k) 2 = 3) ∧
    (fld (65535 : W16) (2 * 3) 2 = 3) ∧
    ((w22_50.row 3).goal = (w22_50.row 3).power ∨ (w22_50.row 3).goal = RowPower.ret ∧ ∃ k < 8, coreBound w22_50 (8 * 3 + k) = true) ∧
    ((w22_50.row 3).power = RowPower.ret ∨ (w22_50.row 3).goal = RowPower.ret) ∧
    (∃ k < 8, (w22_50.core (8 * 3 + k)).reserved ≠ none) := by
  and_intros <;> decide +kernel
theorem witness_warmResetScope :
    wFull.live ∧
    (wFull.sec.holdDue = none) ∧
    (wFull.serves RegName.pwrRst 0) ∧
    (BitVec.getLsbD (regGet wFull RegName.pwrStrap 0) 0 = true) ∧
    w22_28.live ∧
    (w22_28.sec.holdDue = none) ∧
    (w22_28.serves RegName.pwrRst 0) ∧
    (BitVec.getLsbD (regGet w22_28 RegName.pwrStrap 0) 0 = false) := by
  and_intros <;> decide +kernel
theorem witness_rowResetEnds :
    wRowCores.live ∧
    (wRowCores.serves RegName.pwrRowrst 0) ∧
    (∀ e ∈ wRowCores.jobs, ∀ n ∈ e.2.cores ++ e.2.partners, n / 8 ≠ 3) ∧
    ((0 / 8 : Nat) ≠ 3) ∧
    (BitVec.getLsbD (regGet wRowCores RegName.pwrRowrst 0) 3 = false) ∧
    ((wRowCores.row 3).power = RowPower.run) ∧
    ((31 / 8 : Nat) = 3) := by
  and_intros <;> decide +kernel
theorem witness_bootStages :
    w22_30.live ∧
    (fld (regGet w22_30 RegName.pwrBoot 0) 0 3 = 1) ∧
    (w22_30.sec.booted = true) ∧
    (w22_30.otp.lcs ≠ 4) ∧
    w22_31.live ∧
    (fld (regGet w22_31 RegName.pwrBoot 0) 0 3 = 2) ∧
    (BitVec.getLsbD (regGet w22_31 RegName.secBootstat 0) 12 = true) ∧
    w22_32.live ∧
    (fld (regGet w22_32 RegName.pwrBoot 0) 0 3 = 2) ∧
    (BitVec.getLsbD (regGet w22_32 RegName.secBootstat 0) 12 = false) ∧
    (0 < 8) ∧
    w22_33.live ∧
    (fld (regGet w22_33 RegName.pwrBoot 0) 0 3 = 1) ∧
    (w22_33.sec.booted = false) ∧
    w22_34.live ∧
    (fld (regGet w22_34 RegName.pwrBoot 0) 0 3 = 3) ∧
    (BitVec.getLsbD (regGet w22_34 RegName.hbmStat 0) 0 = false) ∧
    (fld (regGet w22_34 RegName.hbmStat 0) 0 8 ≠ 0) ∧
    w22_35.live ∧
    (fld (regGet w22_35 RegName.pwrBoot 0) 0 3 = 4) ∧
    (∀ x ∈ w22_35.link.out, x.sent = true) ∧
    w22_36.live ∧
    (5 ≤ fld (regGet w22_36 RegName.pwrBoot 0) 0 3) ∧
    w22_37.live ∧
    (fld (regGet w22_37 RegName.pwrBoot 0) 0 3 = 0) ∧
    (0 < 1024) := by
  and_intros <;> decide +kernel
theorem witness_porstNHoldsTheDevice :
    (w22_55.power.calLeft = none ∨ 0 ≠ 4160753660) ∧
    (w22_55.power.calLeft ≠ none) := by
  and_intros <;> decide +kernel
theorem witness_clocksAndCalibration :
    (run.power.porst = false) ∧
    (run.power.sysLost = false) ∧
    (fld (regGet run RegName.secTampcfg 0) 1 2 = 0) ∧
    (4194304000 ≤ 4194304007) ∧
    (4194304007 < 4196401152) ∧
    run.live ∧
    (0 < 8) ∧
    (¬(2 ≤ fld (regGet run RegName.pwrBoot 0) 0 3 ∧ fld (regGet run RegName.secBootstat 0) 0 2 ≠ 3 ∧ (run.die 0).doze = false)) ∧
    (run.serves RegName.pwrCalCmd 0) ∧
    (BitVec.getLsbD (regGet run RegName.pwrCalStat 0) 0 = false) ∧
    (w22_41.power.porst = false) ∧
    (w22_41.power.sysLost = false) ∧
    (fld (regGet w22_41 RegName.secTampcfg 0) 1 2 = 0) ∧
    w22_41.live ∧
    (2 ≤ fld (regGet w22_41 RegName.pwrBoot 0) 0 3 ∧ fld (regGet w22_41 RegName.secBootstat 0) 0 2 ≠ 3 ∧ (w22_41.die 0).doze = false) ∧
    (w22_41.serves RegName.pwrCalCmd 0 ∨ BitVec.getLsbD (regGet w22_41 RegName.pwrCalStat 0) 0 = true) ∧
    (w22_41.power.calLeft = none) ∧
    (w22_42.power.porst = false) ∧
    (w22_42.power.sysLost = false) ∧
    (fld (regGet w22_42 RegName.secTampcfg 0) 1 2 = 0) ∧
    w22_42.live ∧
    (2 ≤ fld (regGet w22_42 RegName.pwrBoot 0) 0 3 ∧ fld (regGet w22_42 RegName.secBootstat 0) 0 2 ≠ 3 ∧ (w22_42.die 0).doze = false) ∧
    (w22_42.serves RegName.pwrCalCmd 0 ∨ BitVec.getLsbD (regGet w22_42 RegName.pwrCalStat 0) 0 = true) ∧
    (w22_42.power.calLeft = none) ∧
    (0 < 1024) ∧
    (w22_43.power.porst = false) ∧
    (w22_43.power.sysLost = true) ∧
    (w22_43.sec.hold = false) ∧
    (w22_43.sec.holdDue = none) ∧
    (w22_45.power.porst = false) ∧
    (w22_45.power.sysLost = false) ∧
    (fld (regGet w22_45 RegName.secTampcfg 0) 1 2 = 0) ∧
    w22_45.live ∧
    (2 ≤ fld (regGet w22_45 RegName.pwrBoot 0) 0 3 ∧ fld (regGet w22_45 RegName.secBootstat 0) 0 2 ≠ 3 ∧ (w22_45.die 0).doze = false) ∧
    (w22_45.serves RegName.pwrCalCmd 0 ∨ BitVec.getLsbD (regGet w22_45 RegName.pwrCalStat 0) 0 = true) ∧
    (w22_45.power.calLeft = none) ∧
    (5 < 4096) := by
  and_intros <;> decide +kernel

def w24_0 : State := wHalted (0 : W64) stopped
def w24_3 : State := wHalted (0 : W64) { job := some 3 : Core }
def w24_4 : State := wHalted (0 : W64) { job := some 3, ended := true : Core }
def w24_5 : State := wHalted (0 : W64) { : Core }
def w24_6 : State := wHalted (4 : W64) stopped
def w24_8 : State := wHalted (263 : W64) stopped
def w24_10 : State := wHalted (513 : W64) stopped
def w24_11 : State := wHalted (773 : W64) stopped
def w24_12 : State := wHalted (1026 : W64) stopped
def w24_13 : State := wHalted (5634 : W64) stopped
def w24_15 : State := wHalted (1792 : W64) stopped
def w24_18 : State := wTap { : Tap } 1
def w24_19 : State := wTap { acc := some { addr := 4194312, size := 4, wr := false, data := (3 : W64) : DbgAcc } : Tap } 1
def w24_20 : State := wTap { acc := some { addr := 4194312, size := 4, wr := true, data := (3 : W64) : DbgAcc } : Tap } 0
def w24_21 : State := wTap { acc := some { addr := 4194312, size := 4, wr := true, data := (3 : W64) : DbgAcc } : Tap } 2
def w24_23 : State := wTap { cells := (5 : BitVec 401), driven := some (4 : BitVec 401) : Tap } 2
def w24_27 : State := wHalted (5378 : W64) stopped
def w24_30 : State := wHalted (1793 : W64) stopped
def w24_31 : State := wHalted (1801 : W64) stopped
def w24_33 : State := wTap { data := (5 : W64) : Tap } 2
def w24_35 : State := { wTap { acc := some { addr := 138412040, size := 4, wr := false, data := (3 : W64) : DbgAcc } : Tap } 1 with bridges := [(0, { stopped := true : Bridge }), (1, { stopped := true : Bridge })] }
def w24_36 : State := { wTap { : Tap } 1 with tap := { : Tap } }
def w24_37 : State := { wTap { cells := (182686310869787956611514258107143336934397444101 : BitVec 401) : Tap } 1 with power := { thermN := true : Power } }
theorem witness_haltResumeAndStep :
    w24_0.live ∧
    (w24_0.serves RegName.dbgCtrl 5) ∧
    (BitVec.getLsbD (regGet w24_0 RegName.dbgTrctl 0) 0 = false) ∧
    ((w24_0.core 5).halted = true) ∧
    w24_3.live ∧
    (w24_3.serves RegName.dbgCtrl 5) ∧
    (BitVec.getLsbD (regGet w24_3 RegName.dbgTrctl 0) 0 = false) ∧
    ((w24_3.core 5).halted = false) ∧
    ((w24_3.core 5).job ≠ none) ∧
    ((w24_3.core 5).ended = false) ∧
    w24_4.live ∧
    (w24_4.serves RegName.dbgCtrl 5) ∧
    (BitVec.getLsbD (regGet w24_4 RegName.dbgTrctl 0) 0 = false) ∧
    ((w24_4.core 5).halted = false) ∧
    ((w24_4.core 5).job = none ∨ (w24_4.core 5).ended = true) := by
  and_intros <;> decide +kernel
theorem witness_debugReachesTheRegisters :
    w24_5.live ∧
    (w24_5.serves RegName.dbgRdata 5) ∧
    ((w24_5.core 5).halted = false) ∧
    w24_0.live ∧
    (w24_0.serves RegName.dbgRdata 5) ∧
    ((w24_0.core 5).halted = true) ∧
    (fld (regGet w24_0 RegName.dbgRsel 5) 8 3 = 0) ∧
    (fld (regGet w24_0 RegName.dbgRsel 5) 0 8 = 0) ∧
    w24_6.live ∧
    (w24_6.serves RegName.dbgRdata 5) ∧
    ((w24_6.core 5).halted = true) ∧
    (fld (regGet w24_6 RegName.dbgRsel 5) 8 3 = 0) ∧
    (0 < fld (regGet w24_6 RegName.dbgRsel 5) 0 8) ∧
    (fld (regGet w24_6 RegName.dbgRsel 5) 0 8 < 32) ∧
    w24_8.live ∧
    (w24_8.serves RegName.dbgRdata 5) ∧
    ((w24_8.core 5).halted = true) ∧
    (fld (regGet w24_8 RegName.dbgRsel 5) 8 3 = 1) ∧
    (fld (regGet w24_8 RegName.dbgRsel 5) 0 8 < 8) ∧
    w24_10.live ∧
    (w24_10.serves RegName.dbgRdata 5) ∧
    ((w24_10.core 5).halted = true) ∧
    (fld (regGet w24_10 RegName.dbgRsel 5) 8 3 = 2) ∧
    (fld (regGet w24_10 RegName.dbgRsel 5) 0 8 < 8) ∧
    w24_11.live ∧
    (w24_11.serves RegName.dbgRdata 5) ∧
    ((w24_11.core 5).halted = true) ∧
    (fld (regGet w24_11 RegName.dbgRsel 5) 8 3 = 3) ∧
    w24_12.live ∧
    (w24_12.serves RegName.dbgRdata 5) ∧
    ((w24_12.core 5).halted = true) ∧
    (fld (regGet w24_12 RegName.dbgRsel 5) 8 3 = 4) ∧
    (fld (regGet w24_12 RegName.dbgRsel 5) 0 8 = 2) ∧
    w24_13.live ∧
    (w24_13.serves RegName.dbgRdata 5) ∧
    ((w24_13.core 5).halted = true) ∧
    (fld (regGet w24_13 RegName.dbgRsel 5) 8 3 = 6) ∧
    (fld (regGet w24_13 RegName.dbgRsel 5) 0 8 < 32) ∧
    w24_15.live ∧
    (w24_15.serves RegName.dbgRdata 5) ∧
    ((w24_15.core 5).halted = true) ∧
    (fld (regGet w24_15 RegName.dbgRsel 5) 8 3 = 7) ∧
    (fld (regGet w24_15 RegName.dbgRsel 5) 0 8 = 0) ∧
    w24_27.live ∧
    (w24_27.serves RegName.dbgRdata 5) ∧
    ((w24_27.core 5).halted = true) ∧
    (fld (regGet w24_27 RegName.dbgRsel 5) 8 3 = 5) ∧
    (fld (regGet w24_27 RegName.dbgRsel 5) 0 8 < 16) ∧
    (fld (regGet w24_27 RegName.dbgRsel 5) 12 6 < 4) ∧
    (0 < fld (regGet w24_27 RegName.dbgRsel 5) 12 6) ∧
    (fld (regGet w24_27 RegName.dbgRsel 5) 12 6 < 3) ∧
    w24_30.live ∧
    (w24_30.serves RegName.dbgRdata 5) ∧
    ((w24_30.core 5).halted = true) ∧
    (fld (regGet w24_30 RegName.dbgRsel 5) 8 3 = 7) ∧
    (fld (regGet w24_30 RegName.dbgRsel 5) 0 8 = 1) ∧
    w24_31.live ∧
    (w24_31.serves RegName.dbgRdata 5) ∧
    ((w24_31.core 5).halted = true) ∧
    (fld (regGet w24_31 RegName.dbgRsel 5) 8 3 = 7) ∧
    (8 ≤ fld (regGet w24_31 RegName.dbgRsel 5) 0 8) ∧
    (fld (regGet w24_31 RegName.dbgRsel 5) 0 8 < 16) := by
  and_intros <;> decide +kernel
theorem witness_debugPortAccess :
    w24_18.live ∧
    (w24_18.tap.trst = true) ∧
    (portLevel w24_18 ≠ none) ∧
    (BitVec.getLsbD (72692156096859060615692100304896018 : BitVec 116) 115 = true) ∧
    (w24_18.tap.acc = none) ∧
    w24_19.live ∧
    (w24_19.tap.trst = true) ∧
    (portLevel w24_19 ≠ none) ∧
    (BitVec.getLsbD (0 : BitVec 116) 115 = false ∨ w24_19.tap.acc ≠ none) ∧
    (w24_19.tap.acc = some { addr := 4194312, size := 4, wr := false, data := (3 : W64) : DbgAcc }) ∧
    (portLevel w24_19 = some 1) ∧
    (bridgeHolds w24_19 mDebug { addr := 4194312, size := 4, wr := false, data := (3 : W64) : DbgAcc }.addr { addr := 4194312, size := 4, wr := false, data := (3 : W64) : DbgAcc }.size = false) ∧
    w24_20.live ∧
    (w24_20.tap.trst = true) ∧
    (portLevel w24_20 ≠ none) ∧
    (BitVec.getLsbD (0 : BitVec 116) 115 = false ∨ w24_20.tap.acc ≠ none) ∧
    (w24_20.tap.acc = some { addr := 4194312, size := 4, wr := true, data := (3 : W64) : DbgAcc }) ∧
    (portLevel w24_20 = some 2) ∧
    (bridgeHolds w24_20 mDebug { addr := 4194312, size := 4, wr := true, data := (3 : W64) : DbgAcc }.addr { addr := 4194312, size := 4, wr := true, data := (3 : W64) : DbgAcc }.size = false) ∧
    w24_21.live ∧
    (w24_21.tap.trst = true) ∧
    (portLevel w24_21 = none) ∧
    (w24_21.tap.acc = some { addr := 4194312, size := 4, wr := true, data := (3 : W64) : DbgAcc }) ∧
    w24_33.live ∧
    (w24_33.tap.trst = true) ∧
    (portLevel w24_33 = none) ∧
    (w24_33.tap.acc = none) ∧
    w24_35.live ∧
    (w24_35.tap.trst = true) ∧
    (portLevel w24_35 ≠ none) ∧
    (BitVec.getLsbD (0 : BitVec 116) 115 = false ∨ w24_35.tap.acc ≠ none) ∧
    (w24_35.tap.acc = some { addr := 138412040, size := 4, wr := false, data := (3 : W64) : DbgAcc }) ∧
    (portLevel w24_35 = some 1) ∧
    (bridgeHolds w24_35 mDebug { addr := 138412040, size := 4, wr := false, data := (3 : W64) : DbgAcc }.addr { addr := 138412040, size := 4, wr := false, data := (3 : W64) : DbgAcc }.size = true) := by
  and_intros <;> decide +kernel
theorem witness_boundaryScan :
    (w24_23.tap.trst = true) ∧
    (¬(w24_23.otp.lcs < 2 ∨ w24_23.power.porst = true)) ∧
    (w24_36.tap.trst = false) ∧
    (w24_37.tap.trst = true) ∧
    (w24_37.otp.lcs < 2 ∨ w24_37.power.porst = true) ∧
    (nat_lit 0 ∈ List.range 80) ∧
    (w24_37.tap.cells.getLsbD ((if nat_lit 0 % 40 < 32 then 3 * (32 * (nat_lit 0 / 40) + nat_lit 0 % 40) else 192 + 3 * (8 * (nat_lit 0 / 40) + nat_lit 0 % 40 - 32)) + 2) = true) ∧
    (nat_lit 1 ∈ List.range 80) ∧
    (w24_37.tap.cells.getLsbD ((if nat_lit 1 % 40 < 32 then 3 * (32 * (nat_lit 1 / 40) + nat_lit 1 % 40) else 192 + 3 * (8 * (nat_lit 1 / 40) + nat_lit 1 % 40 - 32)) + 2) = false) ∧
    (nat_lit 2 ∈ List.range 80) ∧
    (w24_37.tap.cells.getLsbD ((if nat_lit 2 % 40 < 32 then 3 * (32 * (nat_lit 2 / 40) + nat_lit 2 % 40) else 192 + 3 * (8 * (nat_lit 2 / 40) + nat_lit 2 % 40 - 32)) + 2) = false) ∧
    (nat_lit 3 ∈ List.range 80) ∧
    (w24_37.tap.cells.getLsbD ((if nat_lit 3 % 40 < 32 then 3 * (32 * (nat_lit 3 / 40) + nat_lit 3 % 40) else 192 + 3 * (8 * (nat_lit 3 / 40) + nat_lit 3 % 40 - 32)) + 2) = false) ∧
    (nat_lit 4 ∈ List.range 80) ∧
    (w24_37.tap.cells.getLsbD ((if nat_lit 4 % 40 < 32 then 3 * (32 * (nat_lit 4 / 40) + nat_lit 4 % 40) else 192 + 3 * (8 * (nat_lit 4 / 40) + nat_lit 4 % 40 - 32)) + 2) = false) ∧
    (nat_lit 5 ∈ List.range 80) ∧
    (w24_37.tap.cells.getLsbD ((if nat_lit 5 % 40 < 32 then 3 * (32 * (nat_lit 5 / 40) + nat_lit 5 % 40) else 192 + 3 * (8 * (nat_lit 5 / 40) + nat_lit 5 % 40 - 32)) + 2) = false) ∧
    (nat_lit 6 ∈ List.range 80) ∧
    (w24_37.tap.cells.getLsbD ((if nat_lit 6 % 40 < 32 then 3 * (32 * (nat_lit 6 / 40) + nat_lit 6 % 40) else 192 + 3 * (8 * (nat_lit 6 / 40) + nat_lit 6 % 40 - 32)) + 2) = false) ∧
    (nat_lit 7 ∈ List.range 80) ∧
    (w24_37.tap.cells.getLsbD ((if nat_lit 7 % 40 < 32 then 3 * (32 * (nat_lit 7 / 40) + nat_lit 7 % 40) else 192 + 3 * (8 * (nat_lit 7 / 40) + nat_lit 7 % 40 - 32)) + 2) = false) ∧
    (nat_lit 8 ∈ List.range 80) ∧
    (w24_37.tap.cells.getLsbD ((if nat_lit 8 % 40 < 32 then 3 * (32 * (nat_lit 8 / 40) + nat_lit 8 % 40) else 192 + 3 * (8 * (nat_lit 8 / 40) + nat_lit 8 % 40 - 32)) + 2) = false) ∧
    (nat_lit 9 ∈ List.range 80) ∧
    (w24_37.tap.cells.getLsbD ((if nat_lit 9 % 40 < 32 then 3 * (32 * (nat_lit 9 / 40) + nat_lit 9 % 40) else 192 + 3 * (8 * (nat_lit 9 / 40) + nat_lit 9 % 40 - 32)) + 2) = false) ∧
    (nat_lit 10 ∈ List.range 80) ∧
    (w24_37.tap.cells.getLsbD ((if nat_lit 10 % 40 < 32 then 3 * (32 * (nat_lit 10 / 40) + nat_lit 10 % 40) else 192 + 3 * (8 * (nat_lit 10 / 40) + nat_lit 10 % 40 - 32)) + 2) = false) ∧
    (nat_lit 11 ∈ List.range 80) ∧
    (w24_37.tap.cells.getLsbD ((if nat_lit 11 % 40 < 32 then 3 * (32 * (nat_lit 11 / 40) + nat_lit 11 % 40) else 192 + 3 * (8 * (nat_lit 11 / 40) + nat_lit 11 % 40 - 32)) + 2) = false) ∧
    (nat_lit 12 ∈ List.range 80) ∧
    (w24_37.tap.cells.getLsbD ((if nat_lit 12 % 40 < 32 then 3 * (32 * (nat_lit 12 / 40) + nat_lit 12 % 40) else 192 + 3 * (8 * (nat_lit 12 / 40) + nat_lit 12 % 40 - 32)) + 2) = false) ∧
    (nat_lit 13 ∈ List.range 80) ∧
    (w24_37.tap.cells.getLsbD ((if nat_lit 13 % 40 < 32 then 3 * (32 * (nat_lit 13 / 40) + nat_lit 13 % 40) else 192 + 3 * (8 * (nat_lit 13 / 40) + nat_lit 13 % 40 - 32)) + 2) = false) ∧
    (nat_lit 14 ∈ List.range 80) ∧
    (w24_37.tap.cells.getLsbD ((if nat_lit 14 % 40 < 32 then 3 * (32 * (nat_lit 14 / 40) + nat_lit 14 % 40) else 192 + 3 * (8 * (nat_lit 14 / 40) + nat_lit 14 % 40 - 32)) + 2) = false) ∧
    (nat_lit 15 ∈ List.range 80) ∧
    (w24_37.tap.cells.getLsbD ((if nat_lit 15 % 40 < 32 then 3 * (32 * (nat_lit 15 / 40) + nat_lit 15 % 40) else 192 + 3 * (8 * (nat_lit 15 / 40) + nat_lit 15 % 40 - 32)) + 2) = false) ∧
    (nat_lit 16 ∈ List.range 80) ∧
    (w24_37.tap.cells.getLsbD ((if nat_lit 16 % 40 < 32 then 3 * (32 * (nat_lit 16 / 40) + nat_lit 16 % 40) else 192 + 3 * (8 * (nat_lit 16 / 40) + nat_lit 16 % 40 - 32)) + 2) = false) ∧
    (nat_lit 17 ∈ List.range 80) ∧
    (w24_37.tap.cells.getLsbD ((if nat_lit 17 % 40 < 32 then 3 * (32 * (nat_lit 17 / 40) + nat_lit 17 % 40) else 192 + 3 * (8 * (nat_lit 17 / 40) + nat_lit 17 % 40 - 32)) + 2) = false) ∧
    (nat_lit 18 ∈ List.range 80) ∧
    (w24_37.tap.cells.getLsbD ((if nat_lit 18 % 40 < 32 then 3 * (32 * (nat_lit 18 / 40) + nat_lit 18 % 40) else 192 + 3 * (8 * (nat_lit 18 / 40) + nat_lit 18 % 40 - 32)) + 2) = false) ∧
    (nat_lit 19 ∈ List.range 80) ∧
    (w24_37.tap.cells.getLsbD ((if nat_lit 19 % 40 < 32 then 3 * (32 * (nat_lit 19 / 40) + nat_lit 19 % 40) else 192 + 3 * (8 * (nat_lit 19 / 40) + nat_lit 19 % 40 - 32)) + 2) = false) ∧
    (nat_lit 20 ∈ List.range 80) ∧
    (w24_37.tap.cells.getLsbD ((if nat_lit 20 % 40 < 32 then 3 * (32 * (nat_lit 20 / 40) + nat_lit 20 % 40) else 192 + 3 * (8 * (nat_lit 20 / 40) + nat_lit 20 % 40 - 32)) + 2) = false) ∧
    (nat_lit 21 ∈ List.range 80) ∧
    (w24_37.tap.cells.getLsbD ((if nat_lit 21 % 40 < 32 then 3 * (32 * (nat_lit 21 / 40) + nat_lit 21 % 40) else 192 + 3 * (8 * (nat_lit 21 / 40) + nat_lit 21 % 40 - 32)) + 2) = false) ∧
    (nat_lit 22 ∈ List.range 80) ∧
    (w24_37.tap.cells.getLsbD ((if nat_lit 22 % 40 < 32 then 3 * (32 * (nat_lit 22 / 40) + nat_lit 22 % 40) else 192 + 3 * (8 * (nat_lit 22 / 40) + nat_lit 22 % 40 - 32)) + 2) = false) ∧
    (nat_lit 23 ∈ List.range 80) ∧
    (w24_37.tap.cells.getLsbD ((if nat_lit 23 % 40 < 32 then 3 * (32 * (nat_lit 23 / 40) + nat_lit 23 % 40) else 192 + 3 * (8 * (nat_lit 23 / 40) + nat_lit 23 % 40 - 32)) + 2) = false) ∧
    (nat_lit 24 ∈ List.range 80) ∧
    (w24_37.tap.cells.getLsbD ((if nat_lit 24 % 40 < 32 then 3 * (32 * (nat_lit 24 / 40) + nat_lit 24 % 40) else 192 + 3 * (8 * (nat_lit 24 / 40) + nat_lit 24 % 40 - 32)) + 2) = false) ∧
    (nat_lit 25 ∈ List.range 80) ∧
    (w24_37.tap.cells.getLsbD ((if nat_lit 25 % 40 < 32 then 3 * (32 * (nat_lit 25 / 40) + nat_lit 25 % 40) else 192 + 3 * (8 * (nat_lit 25 / 40) + nat_lit 25 % 40 - 32)) + 2) = false) ∧
    (nat_lit 26 ∈ List.range 80) ∧
    (w24_37.tap.cells.getLsbD ((if nat_lit 26 % 40 < 32 then 3 * (32 * (nat_lit 26 / 40) + nat_lit 26 % 40) else 192 + 3 * (8 * (nat_lit 26 / 40) + nat_lit 26 % 40 - 32)) + 2) = false) ∧
    (nat_lit 27 ∈ List.range 80) ∧
    (w24_37.tap.cells.getLsbD ((if nat_lit 27 % 40 < 32 then 3 * (32 * (nat_lit 27 / 40) + nat_lit 27 % 40) else 192 + 3 * (8 * (nat_lit 27 / 40) + nat_lit 27 % 40 - 32)) + 2) = false) ∧
    (nat_lit 28 ∈ List.range 80) ∧
    (w24_37.tap.cells.getLsbD ((if nat_lit 28 % 40 < 32 then 3 * (32 * (nat_lit 28 / 40) + nat_lit 28 % 40) else 192 + 3 * (8 * (nat_lit 28 / 40) + nat_lit 28 % 40 - 32)) + 2) = false) ∧
    (nat_lit 29 ∈ List.range 80) ∧
    (w24_37.tap.cells.getLsbD ((if nat_lit 29 % 40 < 32 then 3 * (32 * (nat_lit 29 / 40) + nat_lit 29 % 40) else 192 + 3 * (8 * (nat_lit 29 / 40) + nat_lit 29 % 40 - 32)) + 2) = false) ∧
    (nat_lit 30 ∈ List.range 80) ∧
    (w24_37.tap.cells.getLsbD ((if nat_lit 30 % 40 < 32 then 3 * (32 * (nat_lit 30 / 40) + nat_lit 30 % 40) else 192 + 3 * (8 * (nat_lit 30 / 40) + nat_lit 30 % 40 - 32)) + 2) = false) ∧
    (nat_lit 31 ∈ List.range 80) ∧
    (w24_37.tap.cells.getLsbD ((if nat_lit 31 % 40 < 32 then 3 * (32 * (nat_lit 31 / 40) + nat_lit 31 % 40) else 192 + 3 * (8 * (nat_lit 31 / 40) + nat_lit 31 % 40 - 32)) + 2) = false) ∧
    (nat_lit 32 ∈ List.range 80) ∧
    (w24_37.tap.cells.getLsbD ((if nat_lit 32 % 40 < 32 then 3 * (32 * (nat_lit 32 / 40) + nat_lit 32 % 40) else 192 + 3 * (8 * (nat_lit 32 / 40) + nat_lit 32 % 40 - 32)) + 2) = false) ∧
    (nat_lit 33 ∈ List.range 80) ∧
    (w24_37.tap.cells.getLsbD ((if nat_lit 33 % 40 < 32 then 3 * (32 * (nat_lit 33 / 40) + nat_lit 33 % 40) else 192 + 3 * (8 * (nat_lit 33 / 40) + nat_lit 33 % 40 - 32)) + 2) = false) ∧
    (nat_lit 34 ∈ List.range 80) ∧
    (w24_37.tap.cells.getLsbD ((if nat_lit 34 % 40 < 32 then 3 * (32 * (nat_lit 34 / 40) + nat_lit 34 % 40) else 192 + 3 * (8 * (nat_lit 34 / 40) + nat_lit 34 % 40 - 32)) + 2) = false) ∧
    (nat_lit 35 ∈ List.range 80) ∧
    (w24_37.tap.cells.getLsbD ((if nat_lit 35 % 40 < 32 then 3 * (32 * (nat_lit 35 / 40) + nat_lit 35 % 40) else 192 + 3 * (8 * (nat_lit 35 / 40) + nat_lit 35 % 40 - 32)) + 2) = false) ∧
    (nat_lit 36 ∈ List.range 80) ∧
    (w24_37.tap.cells.getLsbD ((if nat_lit 36 % 40 < 32 then 3 * (32 * (nat_lit 36 / 40) + nat_lit 36 % 40) else 192 + 3 * (8 * (nat_lit 36 / 40) + nat_lit 36 % 40 - 32)) + 2) = false) ∧
    (nat_lit 37 ∈ List.range 80) ∧
    (w24_37.tap.cells.getLsbD ((if nat_lit 37 % 40 < 32 then 3 * (32 * (nat_lit 37 / 40) + nat_lit 37 % 40) else 192 + 3 * (8 * (nat_lit 37 / 40) + nat_lit 37 % 40 - 32)) + 2) = false) ∧
    (nat_lit 38 ∈ List.range 80) ∧
    (w24_37.tap.cells.getLsbD ((if nat_lit 38 % 40 < 32 then 3 * (32 * (nat_lit 38 / 40) + nat_lit 38 % 40) else 192 + 3 * (8 * (nat_lit 38 / 40) + nat_lit 38 % 40 - 32)) + 2) = false) ∧
    (nat_lit 39 ∈ List.range 80) ∧
    (w24_37.tap.cells.getLsbD ((if nat_lit 39 % 40 < 32 then 3 * (32 * (nat_lit 39 / 40) + nat_lit 39 % 40) else 192 + 3 * (8 * (nat_lit 39 / 40) + nat_lit 39 % 40 - 32)) + 2) = false) ∧
    (nat_lit 40 ∈ List.range 80) ∧
    (w24_37.tap.cells.getLsbD ((if nat_lit 40 % 40 < 32 then 3 * (32 * (nat_lit 40 / 40) + nat_lit 40 % 40) else 192 + 3 * (8 * (nat_lit 40 / 40) + nat_lit 40 % 40 - 32)) + 2) = false) ∧
    (nat_lit 41 ∈ List.range 80) ∧
    (w24_37.tap.cells.getLsbD ((if nat_lit 41 % 40 < 32 then 3 * (32 * (nat_lit 41 / 40) + nat_lit 41 % 40) else 192 + 3 * (8 * (nat_lit 41 / 40) + nat_lit 41 % 40 - 32)) + 2) = false) ∧
    (nat_lit 42 ∈ List.range 80) ∧
    (w24_37.tap.cells.getLsbD ((if nat_lit 42 % 40 < 32 then 3 * (32 * (nat_lit 42 / 40) + nat_lit 42 % 40) else 192 + 3 * (8 * (nat_lit 42 / 40) + nat_lit 42 % 40 - 32)) + 2) = false) ∧
    (nat_lit 43 ∈ List.range 80) ∧
    (w24_37.tap.cells.getLsbD ((if nat_lit 43 % 40 < 32 then 3 * (32 * (nat_lit 43 / 40) + nat_lit 43 % 40) else 192 + 3 * (8 * (nat_lit 43 / 40) + nat_lit 43 % 40 - 32)) + 2) = false) ∧
    (nat_lit 44 ∈ List.range 80) ∧
    (w24_37.tap.cells.getLsbD ((if nat_lit 44 % 40 < 32 then 3 * (32 * (nat_lit 44 / 40) + nat_lit 44 % 40) else 192 + 3 * (8 * (nat_lit 44 / 40) + nat_lit 44 % 40 - 32)) + 2) = false) ∧
    (nat_lit 45 ∈ List.range 80) ∧
    (w24_37.tap.cells.getLsbD ((if nat_lit 45 % 40 < 32 then 3 * (32 * (nat_lit 45 / 40) + nat_lit 45 % 40) else 192 + 3 * (8 * (nat_lit 45 / 40) + nat_lit 45 % 40 - 32)) + 2) = false) ∧
    (nat_lit 46 ∈ List.range 80) ∧
    (w24_37.tap.cells.getLsbD ((if nat_lit 46 % 40 < 32 then 3 * (32 * (nat_lit 46 / 40) + nat_lit 46 % 40) else 192 + 3 * (8 * (nat_lit 46 / 40) + nat_lit 46 % 40 - 32)) + 2) = false) ∧
    (nat_lit 47 ∈ List.range 80) ∧
    (w24_37.tap.cells.getLsbD ((if nat_lit 47 % 40 < 32 then 3 * (32 * (nat_lit 47 / 40) + nat_lit 47 % 40) else 192 + 3 * (8 * (nat_lit 47 / 40) + nat_lit 47 % 40 - 32)) + 2) = false) ∧
    (nat_lit 48 ∈ List.range 80) ∧
    (w24_37.tap.cells.getLsbD ((if nat_lit 48 % 40 < 32 then 3 * (32 * (nat_lit 48 / 40) + nat_lit 48 % 40) else 192 + 3 * (8 * (nat_lit 48 / 40) + nat_lit 48 % 40 - 32)) + 2) = false) ∧
    (nat_lit 49 ∈ List.range 80) ∧
    (w24_37.tap.cells.getLsbD ((if nat_lit 49 % 40 < 32 then 3 * (32 * (nat_lit 49 / 40) + nat_lit 49 % 40) else 192 + 3 * (8 * (nat_lit 49 / 40) + nat_lit 49 % 40 - 32)) + 2) = false) ∧
    (nat_lit 50 ∈ List.range 80) ∧
    (w24_37.tap.cells.getLsbD ((if nat_lit 50 % 40 < 32 then 3 * (32 * (nat_lit 50 / 40) + nat_lit 50 % 40) else 192 + 3 * (8 * (nat_lit 50 / 40) + nat_lit 50 % 40 - 32)) + 2) = false) ∧
    (nat_lit 51 ∈ List.range 80) ∧
    (w24_37.tap.cells.getLsbD ((if nat_lit 51 % 40 < 32 then 3 * (32 * (nat_lit 51 / 40) + nat_lit 51 % 40) else 192 + 3 * (8 * (nat_lit 51 / 40) + nat_lit 51 % 40 - 32)) + 2) = false) ∧
    (nat_lit 52 ∈ List.range 80) ∧
    (w24_37.tap.cells.getLsbD ((if nat_lit 52 % 40 < 32 then 3 * (32 * (nat_lit 52 / 40) + nat_lit 52 % 40) else 192 + 3 * (8 * (nat_lit 52 / 40) + nat_lit 52 % 40 - 32)) + 2) = false) ∧
    (nat_lit 53 ∈ List.range 80) ∧
    (w24_37.tap.cells.getLsbD ((if nat_lit 53 % 40 < 32 then 3 * (32 * (nat_lit 53 / 40) + nat_lit 53 % 40) else 192 + 3 * (8 * (nat_lit 53 / 40) + nat_lit 53 % 40 - 32)) + 2) = false) ∧
    (nat_lit 54 ∈ List.range 80) ∧
    (w24_37.tap.cells.getLsbD ((if nat_lit 54 % 40 < 32 then 3 * (32 * (nat_lit 54 / 40) + nat_lit 54 % 40) else 192 + 3 * (8 * (nat_lit 54 / 40) + nat_lit 54 % 40 - 32)) + 2) = true) ∧
    (nat_lit 55 ∈ List.range 80) ∧
    (w24_37.tap.cells.getLsbD ((if nat_lit 55 % 40 < 32 then 3 * (32 * (nat_lit 55 / 40) + nat_lit 55 % 40) else 192 + 3 * (8 * (nat_lit 55 / 40) + nat_lit 55 % 40 - 32)) + 2) = true) ∧
    (nat_lit 56 ∈ List.range 80) ∧
    (w24_37.tap.cells.getLsbD ((if nat_lit 56 % 40 < 32 then 3 * (32 * (nat_lit 56 / 40) + nat_lit 56 % 40) else 192 + 3 * (8 * (nat_lit 56 / 40) + nat_lit 56 % 40 - 32)) + 2) = true) ∧
    (nat_lit 57 ∈ List.range 80) ∧
    (w24_37.tap.cells.getLsbD ((if nat_lit 57 % 40 < 32 then 3 * (32 * (nat_lit 57 / 40) + nat_lit 57 % 40) else 192 + 3 * (8 * (nat_lit 57 / 40) + nat_lit 57 % 40 - 32)) + 2) = true) ∧
    (nat_lit 58 ∈ List.range 80) ∧
    (w24_37.tap.cells.getLsbD ((if nat_lit 58 % 40 < 32 then 3 * (32 * (nat_lit 58 / 40) + nat_lit 58 % 40) else 192 + 3 * (8 * (nat_lit 58 / 40) + nat_lit 58 % 40 - 32)) + 2) = true) ∧
    (nat_lit 59 ∈ List.range 80) ∧
    (w24_37.tap.cells.getLsbD ((if nat_lit 59 % 40 < 32 then 3 * (32 * (nat_lit 59 / 40) + nat_lit 59 % 40) else 192 + 3 * (8 * (nat_lit 59 / 40) + nat_lit 59 % 40 - 32)) + 2) = true) ∧
    (nat_lit 60 ∈ List.range 80) ∧
    (w24_37.tap.cells.getLsbD ((if nat_lit 60 % 40 < 32 then 3 * (32 * (nat_lit 60 / 40) + nat_lit 60 % 40) else 192 + 3 * (8 * (nat_lit 60 / 40) + nat_lit 60 % 40 - 32)) + 2) = false) ∧
    (nat_lit 61 ∈ List.range 80) ∧
    (w24_37.tap.cells.getLsbD ((if nat_lit 61 % 40 < 32 then 3 * (32 * (nat_lit 61 / 40) + nat_lit 61 % 40) else 192 + 3 * (8 * (nat_lit 61 / 40) + nat_lit 61 % 40 - 32)) + 2) = false) ∧
    (nat_lit 62 ∈ List.range 80) ∧
    (w24_37.tap.cells.getLsbD ((if nat_lit 62 % 40 < 32 then 3 * (32 * (nat_lit 62 / 40) + nat_lit 62 % 40) else 192 + 3 * (8 * (nat_lit 62 / 40) + nat_lit 62 % 40 - 32)) + 2) = false) ∧
    (nat_lit 63 ∈ List.range 80) ∧
    (w24_37.tap.cells.getLsbD ((if nat_lit 63 % 40 < 32 then 3 * (32 * (nat_lit 63 / 40) + nat_lit 63 % 40) else 192 + 3 * (8 * (nat_lit 63 / 40) + nat_lit 63 % 40 - 32)) + 2) = false) ∧
    (nat_lit 64 ∈ List.range 80) ∧
    (w24_37.tap.cells.getLsbD ((if nat_lit 64 % 40 < 32 then 3 * (32 * (nat_lit 64 / 40) + nat_lit 64 % 40) else 192 + 3 * (8 * (nat_lit 64 / 40) + nat_lit 64 % 40 - 32)) + 2) = false) ∧
    (nat_lit 65 ∈ List.range 80) ∧
    (w24_37.tap.cells.getLsbD ((if nat_lit 65 % 40 < 32 then 3 * (32 * (nat_lit 65 / 40) + nat_lit 65 % 40) else 192 + 3 * (8 * (nat_lit 65 / 40) + nat_lit 65 % 40 - 32)) + 2) = false) ∧
    (nat_lit 66 ∈ List.range 80) ∧
    (w24_37.tap.cells.getLsbD ((if nat_lit 66 % 40 < 32 then 3 * (32 * (nat_lit 66 / 40) + nat_lit 66 % 40) else 192 + 3 * (8 * (nat_lit 66 / 40) + nat_lit 66 % 40 - 32)) + 2) = false) ∧
    (nat_lit 67 ∈ List.range 80) ∧
    (w24_37.tap.cells.getLsbD ((if nat_lit 67 % 40 < 32 then 3 * (32 * (nat_lit 67 / 40) + nat_lit 67 % 40) else 192 + 3 * (8 * (nat_lit 67 / 40) + nat_lit 67 % 40 - 32)) + 2) = false) ∧
    (nat_lit 68 ∈ List.range 80) ∧
    (w24_37.tap.cells.getLsbD ((if nat_lit 68 % 40 < 32 then 3 * (32 * (nat_lit 68 / 40) + nat_lit 68 % 40) else 192 + 3 * (8 * (nat_lit 68 / 40) + nat_lit 68 % 40 - 32)) + 2) = false) ∧
    (nat_lit 69 ∈ List.range 80) ∧
    (w24_37.tap.cells.getLsbD ((if nat_lit 69 % 40 < 32 then 3 * (32 * (nat_lit 69 / 40) + nat_lit 69 % 40) else 192 + 3 * (8 * (nat_lit 69 / 40) + nat_lit 69 % 40 - 32)) + 2) = false) ∧
    (nat_lit 70 ∈ List.range 80) ∧
    (w24_37.tap.cells.getLsbD ((if nat_lit 70 % 40 < 32 then 3 * (32 * (nat_lit 70 / 40) + nat_lit 70 % 40) else 192 + 3 * (8 * (nat_lit 70 / 40) + nat_lit 70 % 40 - 32)) + 2) = false) ∧
    (nat_lit 71 ∈ List.range 80) ∧
    (w24_37.tap.cells.getLsbD ((if nat_lit 71 % 40 < 32 then 3 * (32 * (nat_lit 71 / 40) + nat_lit 71 % 40) else 192 + 3 * (8 * (nat_lit 71 / 40) + nat_lit 71 % 40 - 32)) + 2) = false) ∧
    (nat_lit 72 ∈ List.range 80) ∧
    (w24_37.tap.cells.getLsbD ((if nat_lit 72 % 40 < 32 then 3 * (32 * (nat_lit 72 / 40) + nat_lit 72 % 40) else 192 + 3 * (8 * (nat_lit 72 / 40) + nat_lit 72 % 40 - 32)) + 2) = false) ∧
    (nat_lit 73 ∈ List.range 80) ∧
    (w24_37.tap.cells.getLsbD ((if nat_lit 73 % 40 < 32 then 3 * (32 * (nat_lit 73 / 40) + nat_lit 73 % 40) else 192 + 3 * (8 * (nat_lit 73 / 40) + nat_lit 73 % 40 - 32)) + 2) = false) ∧
    (nat_lit 74 ∈ List.range 80) ∧
    (w24_37.tap.cells.getLsbD ((if nat_lit 74 % 40 < 32 then 3 * (32 * (nat_lit 74 / 40) + nat_lit 74 % 40) else 192 + 3 * (8 * (nat_lit 74 / 40) + nat_lit 74 % 40 - 32)) + 2) = false) ∧
    (nat_lit 75 ∈ List.range 80) ∧
    (w24_37.tap.cells.getLsbD ((if nat_lit 75 % 40 < 32 then 3 * (32 * (nat_lit 75 / 40) + nat_lit 75 % 40) else 192 + 3 * (8 * (nat_lit 75 / 40) + nat_lit 75 % 40 - 32)) + 2) = false) ∧
    (nat_lit 76 ∈ List.range 80) ∧
    (w24_37.tap.cells.getLsbD ((if nat_lit 76 % 40 < 32 then 3 * (32 * (nat_lit 76 / 40) + nat_lit 76 % 40) else 192 + 3 * (8 * (nat_lit 76 / 40) + nat_lit 76 % 40 - 32)) + 2) = false) ∧
    (nat_lit 77 ∈ List.range 80) ∧
    (w24_37.tap.cells.getLsbD ((if nat_lit 77 % 40 < 32 then 3 * (32 * (nat_lit 77 / 40) + nat_lit 77 % 40) else 192 + 3 * (8 * (nat_lit 77 / 40) + nat_lit 77 % 40 - 32)) + 2) = false) ∧
    (nat_lit 78 ∈ List.range 80) ∧
    (w24_37.tap.cells.getLsbD ((if nat_lit 78 % 40 < 32 then 3 * (32 * (nat_lit 78 / 40) + nat_lit 78 % 40) else 192 + 3 * (8 * (nat_lit 78 / 40) + nat_lit 78 % 40 - 32)) + 2) = false) ∧
    (nat_lit 79 ∈ List.range 80) ∧
    (w24_37.tap.cells.getLsbD ((if nat_lit 79 % 40 < 32 then 3 * (32 * (nat_lit 79 / 40) + nat_lit 79 % 40) else 192 + 3 * (8 * (nat_lit 79 / 40) + nat_lit 79 % 40 - 32)) + 2) = false) ∧
    (w24_37.power.thermN = true) ∧
    (255 ∉ [0, 1, 2, 3, 4, 16]) := by
  and_intros <;> decide +kernel

/-! The clauses that rest on a constant without a body: which values of it lead to them. -/

/-- An image of firmware (KIND 1) of 64 bytes, VERSION 7, SVN 0, key 0. -/
def goodImage : List Byte :=
  [0x4B, 0x49, 0x4D, 0x47, 1, 0, 0, 0] ++ leBytes 7 4 ++ leBytes 0 4 ++ leBytes 64 4 ++ zeroBytes 364 ++ List.replicate 64 5
theorem goodImage_header : imgHeaderOk goodImage = true ∧ keyAccepted (wBooted 1) 0 = true ∧ keyAccepted wRecovering 0 = true ∧ imgKey goodImage = 0 := by
  decide +kernel
theorem witness_updateAndRecover_accepted (k : Config.sha384 (imgPub goodImage) = Config.keyHash 0)
    (b : Config.sha384 (imgBody goodImage) = imgHash goodImage)
    (v : Config.ecdsaValid (imgPub goodImage) (Config.sha384 (goodImage.take 192)) (imgSig goodImage) = true) :
    imgCode (wBooted 1) goodImage = none ∧ imgCode wRecovering goodImage = none ∧ imgKind goodImage = 1 ∧ 5 < 384 + imgLen goodImage ∧
    5 < goodImage.length := by
  obtain ⟨h1, h2, h3, h4⟩ := goodImage_header
  have svn : ¬ ((wBooted 1).otp.lcs ≠ 0 ∧ imgSvn goodImage < rbcOf (wBooted 1) (imgKind goodImage)) := by decide +kernel
  have svn' : ¬ (wRecovering.otp.lcs ≠ 0 ∧ imgSvn goodImage < rbcOf wRecovering (imgKind goodImage)) := by decide +kernel
  refine ⟨?_, ?_, by decide +kernel, by decide +kernel, by decide +kernel⟩
  · simp [imgCode, h1, h4, h2, k, b, v, svn]
  · simp [imgCode, h1, h4, h3, k, b, v, svn']
theorem witness_lifeCycleTransitions_authorised (h : Config.authorised [3] = true) :
    w21_9.live ∧ (w21_9.serves RegName.secCmd 0) ∧ w21_9.otp.lcs = 2 ∧ fld (regGet w21_9 RegName.secArglen 0) 0 3 = 1 ∧
    ∃ x, (some [3] : HostImage) = some x ∧ Config.authorised x = true :=
  ⟨by decide +kernel, by decide +kernel, by decide +kernel, by decide +kernel, [3], rfl, h⟩

/-! A calibration page with a valid CRC. -/

/-- A calibration page of version 1 whose data words are 0, with its CRC. -/
def calCells : List Host.Cell := [(0xF8000000, 0x4B), (0xF8000001, 0x43), (0xF8000002, 0x41), (0xF8000003, 0x4C), (0xF8000006, 0x1), (0xF8000FFC, 0xD4), (0xF8000FFD, 0x4A), (0xF8000FFE, 0x1F), (0xF8000FFF, 0x19)]
def calPage1 : List Byte := bytesGet calCells 0xF8000000 4096
def zeroRun (c : W32) (n : Nat) : W32 := (List.replicate n (0 : Byte)).foldl crc32Byte c
theorem zeroRun_add (c : W32) (m n : Nat) : zeroRun c (m + n) = zeroRun (zeroRun c m) n := by
  simp only [zeroRun, List.replicate_add, List.foldl_append]
theorem zeroRun_0 : zeroRun 0xDBD5CC09 511 = 0x5D6A2F55 := by decide +kernel
theorem zeroRun_1 : zeroRun 0x5D6A2F55 511 = 0x245CF5A7 := by decide +kernel
theorem zeroRun_2 : zeroRun 0x245CF5A7 511 = 0xB51E7C70 := by decide +kernel
theorem zeroRun_3 : zeroRun 0xB51E7C70 511 = 0x193800E0 := by decide +kernel
theorem zeroRun_4 : zeroRun 0x193800E0 511 = 0xBEA9D6C2 := by decide +kernel
theorem zeroRun_5 : zeroRun 0xBEA9D6C2 511 = 0xCA479845 := by decide +kernel
theorem zeroRun_6 : zeroRun 0xCA479845 511 = 0x2A87D540 := by decide +kernel
theorem zeroRun_7 : zeroRun 0x2A87D540 507 = 0xE6E0B52B := by decide +kernel
theorem calPage1_data : calPage1.take 0xFFC = leBytes calMagic 4 ++ [0, 0, 1, 0] ++ List.replicate 4084 0 := by decide +kernel
theorem calPage1_words : leWord calPage1 0 4 = calMagic ∧ leWord calPage1 6 2 = 1 ∧ leWord calPage1 0xFFC 4 = 0x191F4AD4 ∧ calPage1.length = 4096 := by
  decide +kernel
theorem calPage1_valid : calValid calPage1 = true := by
  have h : zeroRun 0xDBD5CC09 4084 = ~~~ 0x191F4AD4#32 := by
    rw [show 4084 = 511 + (511 + (511 + (511 + (511 + (511 + (511 + 507)))))) from rfl]
    simp only [zeroRun_add, zeroRun_0, zeroRun_1, zeroRun_2, zeroRun_3, zeroRun_4, zeroRun_5, zeroRun_6, zeroRun_7]
    decide
  have h2 : crc32 (calPage1.take 0xFFC) = 0x191F4AD4#32 := by
    rw [calPage1_data, crc32, List.foldl_append]
    have : (leBytes calMagic 4 ++ [0, 0, 1, 0]).foldl crc32Byte 0xFFFFFFFF = 0xDBD5CC09#32 := by decide +kernel
    rw [this]
    change ~~~ zeroRun 0xDBD5CC09 4084 = _
    rw [h]; decide
  simp only [calValid, h2, calPage1_words.1, calPage1_words.2.2.1]
  decide
def wCalPage : State := { run with mem := calCells }
theorem witness_bootStages_calibrated :
    wCalPage.live ∧ fld (regGet wCalPage .pwrBoot 0) 0 3 = 0 ∧ calValid (bytesGet wCalPage.mem 0xF8000000 4096) = true :=
  ⟨by decide +kernel, by decide +kernel, calPage1_valid⟩
theorem witness_clocksAndCalibration_page : (regPut run .pwrBoot 0 5).live ∧ 2 ≤ fld (regGet (regPut run .pwrBoot 0 5) .pwrBoot 0) 0 3 ∧
    fld (regGet (regPut run .pwrBoot 0 5) .secBootstat 0) 0 2 ≠ 3 ∧ ((regPut run .pwrBoot 0 5).die 0).doze = false ∧ calPage1.length = 4096 ∧ calValid calPage1 = true ∧ leWord calPage1 6 2 = 1 :=
  ⟨by decide +kernel, by decide +kernel, by decide +kernel, by decide +kernel, calPage1_words.2.2.2, calPage1_valid, calPage1_words.2.1⟩

theorem witness_clocksAndCalibration_bad_page : (List.replicate 4096 (0 : Byte)).length = 4096 ∧
    (calValid (List.replicate 4096 0) = false ∨ leWord (List.replicate 4096 (0 : Byte)) 6 2 ≠ 1) :=
  ⟨List.length_replicate .., Or.inl (by decide +kernel)⟩

theorem witness_counterReadsReturnAndClear : run.live ∧ run.serves .axErrcnt 31 ∧ run.serves .celOecnt 7 ∧ run.serves .hbmUecnt 3 ∧ run.serves .trDeccnt 1 ∧
    run.serves .trBrce 0 ∧ run.serves .glbBadaccCnt 0 ∧ run.serves .alLatecnt 2047 ∧ run.serves .tmrMissed 63 ∧ run.serves .vglUnmcnt 7 ∧
    run.serves .vglEgDropcnt 255 ∧ run.serves .secViolcnt 0 ∧ run.serves .dbgTrdrop 0 := by
  and_intros <;> decide +kernel

/-! Well-formedness refuses each ill-formed command, beside one that it lets pass. -/

theorem test_wellFormed_register : (Instr.registerWrite 0x1400010 0 5).wellFormed = false ∧ (Instr.registerWrite 0x1400010 9 5).wellFormed = false ∧
    (Instr.registerWrite 0x1400010 8 5).wellFormed = true := by decide
theorem test_wellFormed_stream : (Instr.streamReadReturn 0 0 6 0 .clean).wellFormed = false ∧ (Instr.streamReadReturn 0 0 5 0 .clean).wellFormed = true := by decide
theorem test_wellFormed_cellar : (Instr.cellarRead 3 0 0x3F 2 .clean).wellFormed = false ∧ (Instr.cellarRead 3 0 0x3F 1 .clean).wellFormed = true ∧
    (Instr.cellarWrite 3 0 0x3F [1, 2] .clean).wellFormed = false ∧ (Instr.cellarWrite 3 0 0x40 [] .clean).wellFormed = false := by decide
theorem test_wellFormed_rom : (Instr.bootRomWrite 3 0xFC010000).wellFormed = false ∧ (Instr.bootRomWrite 3 0xFC00FFFF).wellFormed = true := by decide
theorem test_wellFormed_hbm : (Instr.hbmRead 3 0x002800000000 8 .clean).wellFormed = false ∧ (Instr.hbmWrite 3 0x000FFFFFFFF8 { bytes := [1] }).wellFormed = false ∧
    (Instr.softRepair 0).wellFormed = false ∧ (Instr.hbmRead 3 0x0027FFFFFFF8 8 .clean).wellFormed = true := by decide
theorem test_wellFormed_link : (Instr.linkTraining 0 4).wellFormed = false ∧ (Instr.linkUp 7 4).wellFormed = false ∧ (Instr.linkUp 6 0).wellFormed = false ∧
    (Instr.linkUp 6 1).wellFormed = true := by decide
theorem test_wellFormed_tlp : (Instr.bar0Access 0x3FFFFFC false 8 []).wellFormed = false ∧ (Instr.bar0Access 0 true 4 [some 1]).wellFormed = false ∧
    (Instr.bar2Access 0 false 0 [] .clean).wellFormed = false ∧ (Instr.bar0Access 0x3FFFFFC false 4 []).wellFormed = true := by decide
theorem test_wellFormed_lists : (Instr.update { image := some [] }).wellFormed = false ∧ (Instr.recover (some [])).wellFormed = false ∧
    (Instr.lcreq (some [])).wellFormed = false ∧ (Instr.calibrationWrite { image := some [1] }).wellFormed = false ∧ (Instr.update {}).wellFormed = true := by decide
theorem test_wellFormed_doze : (Instr.dozeRequest 0).wellFormed = false ∧ (Instr.dozeRequest 2).wellFormed = true := by decide

theorem test_wellFormed_flit : (Instr.flitReceive { port := 0 } false false (List.replicate 255 0)).wellFormed = false ∧
    (Instr.flitReceive { port := 0 } false false (List.replicate 256 0)).wellFormed = true := by decide +kernel
theorem test_wellFormed_smbus : (Instr.smbusRefresh [] [1] 0 0).wellFormed = false ∧ (Instr.smbusRefresh [1] [1] 0 0).wellFormed = true := by decide

/-! Results that the spec works out. -/

/-- The register addresses of chapter 0's example. -/
theorem test_register_addresses : regOff .rowIen 19 = 0x2400868 ∧ regOff .rkPoll 0 = 0x480010 := by decide +kernel
/-- Chapter 2's Ostervik axis: 600 and 1,333 ticks after the edge at 1,000,040.0 with rate 128,881,239. -/
def ostervik (since : Nat) : AxisCore := { state := .run, pos := 1000040 * 65536, disp := 1000040 * 65536, step := 40 * 65536, rate := 128881239, since, nedge := 2 }
theorem test_interpolation : (axInterp 0 (ostervik 599)).disp = 0x0000000F427A0126 ∧
    (axInterp 0 (ostervik 1332)).disp = 1000040 * 65536 + 2621439 := by decide +kernel
/-- Table 3.8: the tags of three records. -/
theorem test_digest_tags : digTag 0x05C00010 4 none = 0x0003000005C00010 ∧ digTag 0x05C00013 8 none = 0x0007000005C00013 ∧
    digTag 0x05C00200 1 (some 5) = 0x00D0000005C00200 := by decide +kernel
/-- Table 8.5: the product 0x1FE0 by 0x2010 of f16 in the modes RNE, RTZ, RUP, RDN and RMM. -/
theorem test_tininess_after_rounding : ([0, 1, 2, 3, 4].map (fun rm => fpMul 0xA rm 0x1FE0 0x2010)) =
    [(0x0400, flInx), (0x03FF, flUnf ||| flInx), (0x0400, flInx), (0x03FF, flUnf ||| flInx), (0x0400, flInx)] := by decide +kernel
/-- Chapter 7: 0x4000 of q15 is 0x40000000 of q31, and 100 of i32 is raw 100 of q15. -/
theorem test_conversions : pressCvt 9 8 0 false 0 0x4000 = (0x40000000, 0) ∧ pressCvt 8 4 0 false 0 100 = (100, 0) := by decide +kernel
/-- Chapter 6: element 300 of f32 in c8 to c11 is bits 1,408 up of c10. -/
theorem test_cask_element : (caskPut { casks := [] } 8 32 300 1).casks = [(10, 2 ^ 1408)] := by decide +kernel
/-- No word spells a command. -/
theorem test_no_word_spells_a_command : decodeTableWord 32 0 = none ∧ State.reset.withFetchWord 32 0 = State.reset := by decide +kernel
/-- A register write reaches its register. -/
theorem test_register_write : regGet (after (exec (.registerWrite (BitVec.ofNat 26 (regOff .axInc 3)) 8 0x280000) run)) .axInc 3 = 0x280000 := by decide +kernel

end Sys2Proof.Tests
end

section
/-! Interpolation holds one LSB short of the next count (R59, R60).  Positions are read as signed distances in the
direction of motion; the tick of R59 then takes the greater of the old value and the value that rate and time give. -/
namespace Sys2Proof.Proofs
open Sys2Proof.Machine

/-- The signed distance from `b` to `a` in the direction of motion. -/
def motion (rev : Bool) (a b : W64) : Int := if rev then -(sdiff a b) else sdiff a b

/-- The value `k` LSB ahead of `p` in the direction of motion. -/
def advance (rev : Bool) (p : W64) (k : Nat) : W64 := if rev then p - w64 k else p + w64 k

/-- `since` of R59 after the count of this tick. -/
def ticksSince (c : AxisCore) : Nat := if c.edge = false ∧ c.since < 0xFFFFFF then c.since + 1 else c.since

/-- `ahead` of R59 before the limit: how far rate and time lead past the position, 0 when the axis stalls. -/
def rateAhead (stallt : Nat) (c : AxisCore) : Nat :=
  if stallt ≠ 0 ∧ stallt < ticksSince c then 0 else c.rate.toNat * ticksSince c / 65536 % 2 ^ 64

/-- `cand` of R59 before the test against motion backwards. -/
def interpCand (stallt : Nat) (c : AxisCore) : W64 :=
  advance c.rev c.pos (min (rateAhead stallt c) (c.step.toNat - 1))

/-! Distances. -/

theorem sdiff_eq_bmod_sub (a b p : W64) : sdiff a b = (sdiff a p - sdiff b p).bmod (2 ^ 64) := by
  rw [Machine.sdiff, ← sub_sub_sub_cancel_right a b p, BitVec.toInt_sub, Machine.sdiff, Machine.sdiff]

theorem motion_eq_sub (rev : Bool) (a b p : W64) (lo : -(2 ^ 63) < motion rev a p - motion rev b p)
    (hi : motion rev a p - motion rev b p < 2 ^ 63) : motion rev a b = motion rev a p - motion rev b p := by
  have bounds : -(2 ^ 63) < Machine.sdiff a p - Machine.sdiff b p ∧ Machine.sdiff a p - Machine.sdiff b p < 2 ^ 63 := by
    cases rev <;> simp [motion] at lo hi <;> omega
  have hd : Machine.sdiff a b = Machine.sdiff a p - Machine.sdiff b p := by
    rw [sdiff_eq_bmod_sub a b p, Int.bmod_eq_of_le] <;> omega
  unfold motion
  split <;> omega

theorem toInt_w64 {k : Nat} (h : k < 2 ^ 63) : (w64 k).toInt = k := by
  rw [w64, BitVec.toInt_ofNat', Int.bmod_eq_of_le] <;> omega

theorem toInt_neg_w64 {k : Nat} (h : k < 2 ^ 63) : (-w64 k).toInt = -k := by
  rw [BitVec.toInt_neg, toInt_w64 h, Int.bmod_eq_of_le] <;> omega

theorem motion_advance (rev : Bool) (p : W64) {k : Nat} (h : k < 2 ^ 63) : motion rev (advance rev p k) p = k := by
  cases rev with
  | false => simp [motion, advance, Machine.sdiff, toInt_w64 h]
  | true => simp [motion, advance, Machine.sdiff, toInt_neg_w64 h]

/-! The tick of R59 between loads. -/

theorem axInterp_pos {c : AxisCore} (stallt : Nat) (hh : c.held = none) : (axInterp stallt c).pos = c.pos := by
  simp [axInterp, hh]

/-- `lim` of R59. -/
theorem lim_eq_pred (step : W64) : (if step = 0 then 0 else (step - 1).toNat) = step.toNat - 1 := by
  split
  case isTrue h => simp [h]
  case isFalse h => bv_omega

theorem axInterp_since (stallt : Nat) (c : AxisCore) : (axInterp stallt c).since = ticksSince c :=
  if_congr (by simp) rfl rfl

theorem axInterp_rate (stallt : Nat) (c : AxisCore) :
    (axInterp stallt c).rate = if stallt ≠ 0 ∧ stallt < ticksSince c then 0 else c.rate :=
  if_congr (by simp [ticksSince]) rfl rfl

theorem rateAhead_eq_axInterp (stallt : Nat) (c : AxisCore) :
    rateAhead stallt c = (axInterp stallt c).rate.toNat * (axInterp stallt c).since / 65536 % 2 ^ 64 := by
  rw [axInterp_rate, axInterp_since, rateAhead]
  split <;> simp

/-- The value of the tick is `cand`, unless that lies behind the old value. -/
theorem axInterp_disp {c : AxisCore} (stallt : Nat) (hh : c.held = none) :
    (axInterp stallt c).disp =
      if motion c.rev (interpCand stallt c) c.disp < 0 then c.disp else interpCand stallt c := by
  rw [interpCand, rateAhead_eq_axInterp, ← lim_eq_pred]
  cases hr : c.rev <;> simp [axInterp, hh, hr, motion, advance]

/-- The new value is the greater of the old one and the limited lead, as distances from the position. -/
theorem motion_axInterp_disp {c : AxisCore} (stallt : Nat) (hh : c.held = none) (hstep : c.step.toNat < 2 ^ 62)
    (lo : -(2 ^ 62) ≤ motion c.rev c.disp c.pos) (hi : motion c.rev c.disp c.pos ≤ (c.step.toNat - 1 : Nat)) :
    motion c.rev (axInterp stallt c).disp c.pos =
      max (motion c.rev c.disp c.pos) (min (rateAhead stallt c) (c.step.toNat - 1) : Nat) := by
  have hc : motion c.rev (interpCand stallt c) c.pos = (min (rateAhead stallt c) (c.step.toNat - 1) : Nat) :=
    motion_advance _ _ (by omega)
  have hb := motion_eq_sub c.rev (interpCand stallt c) c.disp c.pos (by omega) (by omega)
  rw [axInterp_disp stallt hh]
  split <;> omega

/-- Settles O16: the value of the tick is the greater of the old value and the lead limited to one LSB short of the next
count, so it neither passes that limit nor falls behind the old value. -/
theorem interpolationHoldsShort : Obligations.InterpolationHoldsShort := by
  intro stallt c hh hstep along short since ahead lo hi c'
  have hmax : along c'.disp = max (along c.disp) (min ahead short : Nat) :=
    motion_axInterp_disp stallt hh hstep lo hi
  exact ⟨axInterp_pos stallt hh, hmax, by omega, by omega, by omega⟩

end Sys2Proof.Proofs
end
